-- ==== Sys2Proof/Word.lean ====
section
/-! DEFINITION. The word types of the module (spec 00 R7, R8; 02 R49). -/

namespace Sys2Proof

/-- A byte of any memory. -/
abbrev Byte := BitVec 8

/-- A 32-bit word of a register page (R8). -/
abbrev W32 := BitVec 32

/-- A scalar payload, a special register (R49). -/
abbrev Word := BitVec 64

/-- A vector register (R49). -/
abbrev VWord := BitVec 512

end Sys2Proof
end

