-- ==== Sys2Proof/Syntax.lean ====
section
/-! DEFINITION. The commands of the module: one constructor of `Instr` per row of spec/opcode_table.json, with the
row's operands.  An instruction row carries the core, the thread and the fields of its instruction word, those that
must be zero among them (spec 02 R66, R68); an event row carries its unit and what the outside brings. -/

namespace Sys2Proof

/-- A compute-die site by its core ID, die index × 256 + site (spec 00 "Addresses and names", 01 R22). -/
abbrev CoreId := Fin 5120
/-- A hardware thread of a core (R94). -/
abbrev Tid := Fin 4
/-- A register number of an instruction word. -/
abbrev Reg := Fin 32
/-- A die by its index: C00–C19 are 0–19, M00–M15 20–35, N0 36, N1 37, X0 38, K0 39. -/
abbrev DieId := Fin 40
/-- A network die: 0 is N0, 1 is N1. -/
abbrev NetId := Fin 2
/-- An Ethernet port in the order of R46: 0–3 of N0, 4–7 of N1. -/
abbrev PortId := Fin 8
/-- A Jasper engine by its index in the site map (R46): 4m + e, and 64, 65 on X0. -/
abbrev Eng := Fin 66

/-- R format (R66). -/
structure RF where
  rd : Reg := 0
  ra : Reg := 0
  rb : Reg := 0
  deriving DecidableEq, Repr

/-- I format (R66). -/
structure IF where
  rd : Reg := 0
  ra : Reg := 0
  imm : BitVec 16 := 0
  deriving DecidableEq, Repr

/-- M format of LD and ST (R66, R77). -/
structure MF where
  r : Reg
  ra : Reg
  size : BitVec 3
  post : Bool := false
  off : BitVec 12 := 0
  deriving DecidableEq, Repr

/-- B format (R66). -/
structure BF where
  ra : Reg
  rb : Reg := 0
  off : BitVec 16
  deriving DecidableEq, Repr

/-- S format without its fn5 (R66, R83). -/
structure SF where
  rd : Reg := 0
  ra : Reg := 0
  x : BitVec 11 := 0
  deriving DecidableEq, Repr

/-- P format without n, which the row gives (R66, R88). -/
structure PF where
  src : Bool := false
  count : BitVec 12 := 0
  rc : Reg := 0
  mbz : BitVec 7 := 0
  deriving DecidableEq, Repr

/-- L format without its fn5 (R66, R82). -/
structure LF where
  rd : Reg := 0
  imm : BitVec 48
  deriving DecidableEq, Repr

/-- V format without its fn (R190). -/
structure VF where
  vd : Reg := 0
  va : Reg := 0
  vb : Reg := 0
  km : BitVec 3 := 0
  z : Bool := false
  et : BitVec 2 := 0
  deriving DecidableEq, Repr

/-- Vector load and store (R194). -/
structure VMF where
  v : Reg
  ra : Reg
  km : BitVec 3 := 0
  post : Bool := false
  z : Bool := false
  off : BitVec 10 := 0
  deriving DecidableEq, Repr

/-- Matrix product without its fn (R181). -/
structure MatF where
  sel : BitVec 2 := 0
  acc : Fin 4
  ta : Fin 8
  tb : Fin 8
  z : Bool := false
  mbz : BitVec 10 := 0
  deriving DecidableEq, Repr

/-- Accumulator instruction without its fn (R187). -/
structure AccF where
  x : Reg := 0
  ra : Reg := 0
  rb : Reg := 0
  acc : Fin 4
  mbz : BitVec 4 := 0
  deriving DecidableEq, Repr

/-- Integer ALU functions (R70). -/
inductive AluOp where
  | add | sub | mul | mulh | mulhu | div | divu | rem | remu | and | or | xor | andn | shl | shr | sar | rol | clz | popc
  | min | max | minu | maxu | seq | slt | sltu
  deriving DecidableEq, Repr

/-- Immediate forms (R72). -/
inductive ImmOp where
  | addi | andi | ori | xori | shi | slti | li
  deriving DecidableEq, Repr

/-- Scalar floating point (R73). -/
inductive FpOp where
  | fadd | fsub | fmul | fdiv | fsqrt | fmin | fmax | fma | feq | flt | fle | fneg | fabs | cvtif | cvtfi
  deriving DecidableEq, Repr

/-- Tag and move instructions (R74). -/
inductive TagOp where
  | mov | retagI | retagF | tagof | clr | evhnd
  deriving DecidableEq, Repr

/-- Address arithmetic of op 0x04 (R75). -/
inductive AddrOp where
  | adda | suba | difa | aeq | alt | aligna
  deriving DecidableEq, Repr

/-- Vector integer functions (R192). -/
inductive ViOp where
  | add | sub | mul | mulh | min | max | minu | maxu | and | or | xor | andn | shl | shr | sar | ceq | clt | cltu
  deriving DecidableEq, Repr

/-- Vector floating-point functions (R193). -/
inductive VfOp where
  | add | sub | mul | fma | min | max | div | sqrt | cvtif | cvtfi | exp | log | rcp | rsq | tanh | ceq | clt | cle
  deriving DecidableEq, Repr

/-- Mask functions (R195). -/
inductive KOp where
  | and | or | xor | andn | not | movg | movk | first
  deriving DecidableEq, Repr

/-- The instruction behind a REP prefix (R88, R198): the repeatable groups, and every other instruction as one case,
which the prefix refuses. -/
inductive RepIns where
  | alu (op : AluOp) (f : RF)
  | imm (op : ImmOp) (f : IF)
  | fp (op : FpOp) (f : RF)
  | tag (op : TagOp) (f : RF)
  | addr (op : AddrOp) (f : RF)
  | addai (f : IF)
  | ld (f : MF)
  | st (f : MF)
  | vint (op : ViOp) (f : VF)
  | vfp (op : VfOp) (f : VF)
  | vld (f : VMF)
  | vst (f : VMF)
  | mask (op : KOp) (f : RF)
  | notRepeatable
  deriving DecidableEq, Repr

/-- A DMA channel: a slot of a core's engine, or a channel of the hub of die 0–35 (R324, R329). -/
inductive ChanId where
  | core (c : CoreId) (n : Fin 4)
  | hub (d : Fin 36) (n : Fin 32)
  deriving DecidableEq, Repr

/-- A holder of message credits (R277, R322, R251, R344). -/
inductive Holder where
  | core (c : CoreId)
  | hub (d : Fin 36) (n : Fin 32)
  | eng (e : Eng)
  | net (d : NetId)
  deriving DecidableEq, Repr

/-- A unit that writes CAD_REQ of its die's leaf: a core, a core DMA slot or a hub channel (R298). -/
inductive BeatSrc where
  | core (c : CoreId)
  | chan (ch : ChanId)
  | window
  deriving DecidableEq, Repr

/-- The source of a page write (R446): a thread, a remote QP, K0 firmware, or a DMA channel's SIGNAL CNT (R322). -/
inductive PageSrc where
  | thread (c : CoreId) (t : Tid)
  | qp (d : NetId) (q : Fin 2048)
  | k0
  | chan (ch : ChanId)
  deriving DecidableEq, Repr

/-- How a register that has both a page offset and a special number is written (R292). -/
inductive WrBy where
  | page (v : W32)
  | mtsr (t : Tid) (ra : Reg)
  deriving DecidableEq, Repr

/-- How RINGn_CTL.recall is written (R280, R292): through the page or by MTSR of a thread. -/
inductive RecallBy where
  | page
  | mtsr (t : Tid)
  deriving DecidableEq, Repr

/-- One record of an OPERAND message (R285). -/
structure OperandRec where
  valid : Bool
  thread : Tid
  sel : BitVec 8
  tag : BitVec 3
  payload : Word
  deriving DecidableEq, Repr

/-- A bank-conflicted access that is now served (R141–R143): the requester codes of R172, the thread of an issue-port
access, its local address, and the cc it was delayed. -/
structure Delayed where
  loser : Fin 7
  winner : Fin 7
  thread : Tid
  laddr : BitVec 21
  delay : Nat
  deriving DecidableEq, Repr

/-- What a kill left behind, within R330: bytes acknowledged, buffer slots orphaned, and whether the hub credit entry
was returned. -/
structure KillOutcome where
  bytes : BitVec 32
  orphans : Nat
  returned : Bool
  deriving DecidableEq, Repr

/-- A Type 3 device found on a CXL port at enumeration (R238, R260): size in 256 MiB units. -/
structure CxlDev where
  port : Fin 4
  size : Nat
  rate : BitVec 3
  width : BitVec 5
  ident : W32
  deriving DecidableEq, Repr

/-- The SecTAG of a MACsec frame with its verdict (R337, R379). -/
structure SecTag where
  sci : BitVec 64
  an : BitVec 2
  pn : BitVec 64
  icvOk : Bool
  deriving DecidableEq, Repr

/-- The RoCE packet inside a frame (R337, R338, R342): the fields of its BTH, its payload in bytes and its source. -/
structure Packet where
  icrcOk : Bool
  fragment : Bool
  opcode : BitVec 8
  pkey : BitVec 16
  destQp : BitVec 24
  payload : Nat
  srcIp : BitVec 128
  vid : BitVec 12
  ce : Bool
  deriving DecidableEq, Repr

/-- The unsecured packet inside a frame (R372): whether it is an IPv4 or IPv6 packet without options or extension headers, and
its UDP destination port, if it is a UDP datagram. -/
structure Dgram where
  bare : Bool
  udpPort : Option (BitVec 16)
  deriving DecidableEq, Repr

/-- A received frame, as far as the port's checks look at it (R334, R335, R337, R372). -/
structure Frame where
  fcsOk : Bool
  fecOk : Bool := true
  length : Nat
  destMac : BitVec 48
  pause : Bool := false
  sec : Option SecTag := none
  dgram : Option Dgram := none
  packet : Option Packet := none
  deriving DecidableEq, Repr

/-- What a requester QP receives (R340, R347): an ACK up to a packet, the data of one READ response packet or of a fetch-add, or a
NAK. -/
inductive Ack where
  | ack
  | data (bytes : List Byte)
  | nakSeq
  | nakAccess
  | nakInvalid
  | nakOper
  | rnr (timer : BitVec 5)
  deriving DecidableEq, Repr

/-- What is received, with the PSN it names. -/
structure Answer where
  psn : BitVec 24
  ack : Ack
  deriving DecidableEq, Repr

/-- A request of the CXL tier, by its number, and the link replays that it meets (R260). -/
structure CxlServed where
  id : Nat
  replays : Nat
  deriving DecidableEq, Repr

/-- The fields of an incoming request that R350 checks, and the PSN of its first packet. -/
structure WinReq where
  rkey : W32
  offset : BitVec 64
  length : Nat
  psn : BitVec 24
  deriving DecidableEq, Repr

/-- An incoming request of a peer (R338, R350, R353). -/
inductive InReq where
  | write (r : WinReq) (data : List Byte) (imm : Option W32)
  | read (r : WinReq)
  | send (psn : BitVec 24) (data : List Byte)
  | fadd (r : WinReq) (addend : BitVec 64)
  deriving DecidableEq, Repr

/-- A datagram of the attestation endpoint (R372, R373): addresses of the frame, header fields and one segment. -/
structure AttMsg where
  srcIp : BitVec 128
  dstIp : BitVec 128
  srcMac : BitVec 48
  srcPort : BitVec 16
  ipv6 : Bool
  xid : W32
  total : Nat
  offset : Nat
  data : List Byte
  deriving DecidableEq, Repr

/-- Bit errors of one lane of a link slot in the two passes of R391. -/
structure LaneErr where
  slot : Fin 320
  lane : Fin 68
  nominal : Nat
  margin : Nat
  deriving DecidableEq, Repr

/-- What step 7 found on one site: rows failing per bank of local memory, and rows of its other arrays (R397, R398). -/
structure SiteRows where
  site : CoreId
  lmRows : List (Fin 24 × Fin 1024)
  other : List (Fin 32768)
  deriving DecidableEq, Repr

/-- What K0 observes while it runs a step of R388: each step reads its own fields. -/
structure BringUpObs where
  lanes : List LaneErr := []
  deadDevices : List (Fin 64) := []
  skewNs : Nat := 0
  latNs : Fin 1001 := 0
  leafDelays : List (DieId × Fin 1001) := []
  /-- Dies that have not completed step 4 (R390). -/
  lateDies : List DieId := []
  cxl : List CxlDev := []
  deadSites : List CoreId := []
  rows : List SiteRows := []
  mscRows : List (Fin 16 × Nat) := []
  deadEngines : List Eng := []
  deadPorts : List PortId := []
  elapsedMs : Nat := 0
  deriving DecidableEq, Repr

/-- A header parity error at a router (R423): where, on which queue, and which packet in flight is lost. -/
structure MeshErr where
  site : Fin 256
  inPort : Fin 5
  queue : Fin 6
  lost : Option Nat
  deriving DecidableEq, Repr

/-- One temperature sample (R470): the island of a compute die or sensor 0–3 of another, in 1/16 °C. -/
structure TempReading where
  die : DieId
  unit : BitVec 8
  val : Int
  deriving DecidableEq, Repr

/-- The commands, one constructor per row of spec/opcode_table.json. -/
inductive Instr where
  | add (c : CoreId) (t : Tid) (f : RF)
  | sub (c : CoreId) (t : Tid) (f : RF)
  | mul (c : CoreId) (t : Tid) (f : RF)
  | mulh (c : CoreId) (t : Tid) (f : RF)
  | mulhu (c : CoreId) (t : Tid) (f : RF)
  | div (c : CoreId) (t : Tid) (f : RF)
  | divu (c : CoreId) (t : Tid) (f : RF)
  | rem (c : CoreId) (t : Tid) (f : RF)
  | remu (c : CoreId) (t : Tid) (f : RF)
  | andOp (c : CoreId) (t : Tid) (f : RF)
  | orOp (c : CoreId) (t : Tid) (f : RF)
  | xorOp (c : CoreId) (t : Tid) (f : RF)
  | andn (c : CoreId) (t : Tid) (f : RF)
  | shl (c : CoreId) (t : Tid) (f : RF)
  | shr (c : CoreId) (t : Tid) (f : RF)
  | sar (c : CoreId) (t : Tid) (f : RF)
  | rol (c : CoreId) (t : Tid) (f : RF)
  | clz (c : CoreId) (t : Tid) (f : RF)
  | popc (c : CoreId) (t : Tid) (f : RF)
  | min (c : CoreId) (t : Tid) (f : RF)
  | max (c : CoreId) (t : Tid) (f : RF)
  | minu (c : CoreId) (t : Tid) (f : RF)
  | maxu (c : CoreId) (t : Tid) (f : RF)
  | seq (c : CoreId) (t : Tid) (f : RF)
  | slt (c : CoreId) (t : Tid) (f : RF)
  | sltu (c : CoreId) (t : Tid) (f : RF)
  | addi (c : CoreId) (t : Tid) (f : IF)
  | andi (c : CoreId) (t : Tid) (f : IF)
  | ori (c : CoreId) (t : Tid) (f : IF)
  | xori (c : CoreId) (t : Tid) (f : IF)
  | shi (c : CoreId) (t : Tid) (f : IF)
  | slti (c : CoreId) (t : Tid) (f : IF)
  | li (c : CoreId) (t : Tid) (f : IF)
  | fadd (c : CoreId) (t : Tid) (f : RF)
  | fsub (c : CoreId) (t : Tid) (f : RF)
  | fmul (c : CoreId) (t : Tid) (f : RF)
  | fdiv (c : CoreId) (t : Tid) (f : RF)
  | fsqrt (c : CoreId) (t : Tid) (f : RF)
  | fmin (c : CoreId) (t : Tid) (f : RF)
  | fmax (c : CoreId) (t : Tid) (f : RF)
  | fma (c : CoreId) (t : Tid) (f : RF)
  | feq (c : CoreId) (t : Tid) (f : RF)
  | flt (c : CoreId) (t : Tid) (f : RF)
  | fle (c : CoreId) (t : Tid) (f : RF)
  | fneg (c : CoreId) (t : Tid) (f : RF)
  | fabs (c : CoreId) (t : Tid) (f : RF)
  | cvtif (c : CoreId) (t : Tid) (f : RF)
  | cvtfi (c : CoreId) (t : Tid) (f : RF)
  | mov (c : CoreId) (t : Tid) (f : RF)
  | retagI (c : CoreId) (t : Tid) (f : RF)
  | retagF (c : CoreId) (t : Tid) (f : RF)
  | tagof (c : CoreId) (t : Tid) (f : RF)
  | clr (c : CoreId) (t : Tid) (f : RF)
  | evhnd (c : CoreId) (t : Tid) (f : RF)
  | adda (c : CoreId) (t : Tid) (f : RF)
  | suba (c : CoreId) (t : Tid) (f : RF)
  | difa (c : CoreId) (t : Tid) (f : RF)
  | aeq (c : CoreId) (t : Tid) (f : RF)
  | alt (c : CoreId) (t : Tid) (f : RF)
  | aligna (c : CoreId) (t : Tid) (f : RF)
  | addai (c : CoreId) (t : Tid) (f : IF)
  | leapc (c : CoreId) (t : Tid) (f : IF)
  | ld (c : CoreId) (t : Tid) (f : MF)
  | st (c : CoreId) (t : Tid) (f : MF)
  | beq (c : CoreId) (t : Tid) (f : BF)
  | bne (c : CoreId) (t : Tid) (f : BF)
  | blt (c : CoreId) (t : Tid) (f : BF)
  | bge (c : CoreId) (t : Tid) (f : BF)
  | bltu (c : CoreId) (t : Tid) (f : BF)
  | bgeu (c : CoreId) (t : Tid) (f : BF)
  | bnil (c : CoreId) (t : Tid) (f : BF)
  | bnnil (c : CoreId) (t : Tid) (f : BF)
  | br (c : CoreId) (t : Tid) (off : BitVec 26)
  | call (c : CoreId) (t : Tid) (off : BitVec 26)
  | jr (c : CoreId) (t : Tid) (f : RF)
  | callr (c : CoreId) (t : Tid) (f : RF)
  | ret (c : CoreId) (t : Tid) (f : RF)
  | rssave (c : CoreId) (t : Tid) (f : RF)
  | rssaveB (c : CoreId) (t : Tid) (f : RF)
  | rsload (c : CoreId) (t : Tid) (f : RF)
  | rsloadB (c : CoreId) (t : Tid) (f : RF)
  | liL (c : CoreId) (t : Tid) (f : LF)
  | addiL (c : CoreId) (t : Tid) (f : LF)
  | addaiL (c : CoreId) (t : Tid) (f : LF)
  | leapcL (c : CoreId) (t : Tid) (f : LF)
  | bL (c : CoreId) (t : Tid) (f : LF)
  | callL (c : CoreId) (t : Tid) (f : LF)
  | mfsr (c : CoreId) (t : Tid) (f : SF)
  | mtsr (c : CoreId) (t : Tid) (f : SF)
  | mintL (c : CoreId) (t : Tid) (f : SF)
  | mintG (c : CoreId) (t : Tid) (f : SF)
  | mkstat (c : CoreId) (t : Tid) (f : SF)
  | eret (c : CoreId) (t : Tid) (f : SF)
  | scall (c : CoreId) (t : Tid) (f : SF)
  | sret (c : CoreId) (t : Tid) (f : SF)
  | wfe (c : CoreId) (t : Tid) (f : SF)
  | sev (c : CoreId) (t : Tid) (f : SF)
  | sevl (c : CoreId) (t : Tid) (f : SF)
  | waitcC (c : CoreId) (t : Tid) (f : SF)
  | waitcB (c : CoreId) (t : Tid) (f : SF)
  | fork (c : CoreId) (t : Tid) (f : SF)
  | join (c : CoreId) (t : Tid) (f : SF)
  | exit (c : CoreId) (t : Tid) (f : SF)
  | lock (c : CoreId) (t : Tid) (f : SF)
  | trylock (c : CoreId) (t : Tid) (f : SF)
  | unlock (c : CoreId) (t : Tid) (f : SF)
  | brk (c : CoreId) (t : Tid) (f : SF)
  | fenceG (c : CoreId) (t : Tid) (f : SF)
  | icinv (c : CoreId) (t : Tid) (f : SF)
  | icinvL (c : CoreId) (t : Tid) (f : SF)
  | repI (c : CoreId) (t : Tid) (f : PF) (b : RepIns)
  | repN (c : CoreId) (t : Tid) (f : PF) (b : RepIns)
  | intrEntry (c : CoreId) (t : Tid)
  | threadfEntry (c : CoreId)
  | stallEntry (c : CoreId)
  | threadWake (c : CoreId) (t : Tid)
  | startEntry (c : CoreId)
  | threadStop (c : CoreId) (t : Tid) (n : Tid)
  | stopHalt (c : CoreId) (t : Tid)
  | threadResume (c : CoreId) (t : Tid) (n : Tid)
  | threadAbandon (c : CoreId) (t : Tid) (n : Tid)
  | haltReq (c : CoreId) (bits : BitVec 4)
  | debugHalt (c : CoreId) (t : Tid)
  | step (c : CoreId) (t : Tid)
  | discardCb (c : CoreId) (t : Tid)
  | dcflushL (c : CoreId) (t : Tid) (f : RF)
  | dcinvL (c : CoreId) (t : Tid) (f : RF)
  | dcfiL (c : CoreId) (t : Tid) (f : RF)
  | dcflush (c : CoreId) (t : Tid) (f : RF)
  | dcfi (c : CoreId) (t : Tid) (f : RF)
  | dcinv (c : CoreId) (t : Tid) (f : RF)
  | tbwr (c : CoreId) (t : Tid) (f : RF)
  | tbrdV (c : CoreId) (t : Tid) (f : RF)
  | tbrdP (c : CoreId) (t : Tid) (f : RF)
  | tbinv (c : CoreId) (t : Tid) (f : RF)
  | tbinva (c : CoreId) (t : Tid) (f : RF)
  | tbprobe (c : CoreId) (t : Tid) (f : RF)
  | globalResponse (c : CoreId) (id : Nat)
  | dataCacheFill (c : CoreId) (id : Nat) (way : Fin 4)
  | delayedAccessServed (c : CoreId) (d : Delayed)
  | tcfgWrite (c : CoreId) (t : Tid) (n : Fin 8) (ra : Reg)
  | tload (c : CoreId) (t : Tid) (f : RF)
  | tstore (c : CoreId) (t : Tid) (f : RF)
  | tstoreT (c : CoreId) (t : Tid) (f : RF)
  | tzero (c : CoreId) (t : Tid) (f : RF)
  | tileRowDone (c : CoreId) (id : Nat)
  | mma (c : CoreId) (t : Tid) (f : MatF)
  | mmaS (c : CoreId) (t : Tid) (f : MatF)
  | arrayInstructionStart (c : CoreId) (back : Bool)
  | arrayInstructionComplete (c : CoreId) (back : Bool)
  | azero (c : CoreId) (t : Tid) (f : AccF)
  | aload (c : CoreId) (t : Tid) (f : AccF)
  | astore (c : CoreId) (t : Tid) (f : AccF)
  | astoreBf (c : CoreId) (t : Tid) (f : AccF)
  | amovV (c : CoreId) (t : Tid) (f : AccF)
  | amovA (c : CoreId) (t : Tid) (f : AccF)
  | abias (c : CoreId) (t : Tid) (f : AccF)
  | amuls (c : CoreId) (t : Tid) (f : AccF)
  | amovT (c : CoreId) (t : Tid) (f : AccF)
  | accumulatorInstructionStart (c : CoreId) (t : Tid)
  | vadd (c : CoreId) (t : Tid) (f : VF)
  | vsub (c : CoreId) (t : Tid) (f : VF)
  | vmul (c : CoreId) (t : Tid) (f : VF)
  | vmulh (c : CoreId) (t : Tid) (f : VF)
  | vmin (c : CoreId) (t : Tid) (f : VF)
  | vmax (c : CoreId) (t : Tid) (f : VF)
  | vminu (c : CoreId) (t : Tid) (f : VF)
  | vmaxu (c : CoreId) (t : Tid) (f : VF)
  | vand (c : CoreId) (t : Tid) (f : VF)
  | vor (c : CoreId) (t : Tid) (f : VF)
  | vxor (c : CoreId) (t : Tid) (f : VF)
  | vandn (c : CoreId) (t : Tid) (f : VF)
  | vshl (c : CoreId) (t : Tid) (f : VF)
  | vshr (c : CoreId) (t : Tid) (f : VF)
  | vsar (c : CoreId) (t : Tid) (f : VF)
  | vceq (c : CoreId) (t : Tid) (f : VF)
  | vclt (c : CoreId) (t : Tid) (f : VF)
  | vcltu (c : CoreId) (t : Tid) (f : VF)
  | vfadd (c : CoreId) (t : Tid) (f : VF)
  | vfsub (c : CoreId) (t : Tid) (f : VF)
  | vfmul (c : CoreId) (t : Tid) (f : VF)
  | vfma (c : CoreId) (t : Tid) (f : VF)
  | vfmin (c : CoreId) (t : Tid) (f : VF)
  | vfmax (c : CoreId) (t : Tid) (f : VF)
  | vfdiv (c : CoreId) (t : Tid) (f : VF)
  | vfsqrt (c : CoreId) (t : Tid) (f : VF)
  | vcvtif (c : CoreId) (t : Tid) (f : VF)
  | vcvtfi (c : CoreId) (t : Tid) (f : VF)
  | vfexp (c : CoreId) (t : Tid) (f : VF)
  | vflog (c : CoreId) (t : Tid) (f : VF)
  | vfrcp (c : CoreId) (t : Tid) (f : VF)
  | vfrsq (c : CoreId) (t : Tid) (f : VF)
  | vftanh (c : CoreId) (t : Tid) (f : VF)
  | vfceq (c : CoreId) (t : Tid) (f : VF)
  | vfclt (c : CoreId) (t : Tid) (f : VF)
  | vfcle (c : CoreId) (t : Tid) (f : VF)
  | vld (c : CoreId) (t : Tid) (f : VMF)
  | vst (c : CoreId) (t : Tid) (f : VMF)
  | kand (c : CoreId) (t : Tid) (f : RF)
  | kor (c : CoreId) (t : Tid) (f : RF)
  | kxor (c : CoreId) (t : Tid) (f : RF)
  | kandn (c : CoreId) (t : Tid) (f : RF)
  | knot (c : CoreId) (t : Tid) (f : RF)
  | kmovg (c : CoreId) (t : Tid) (f : RF)
  | kmovk (c : CoreId) (t : Tid) (f : RF)
  | kfirst (c : CoreId) (t : Tid) (f : RF)
  | vsplat (c : CoreId) (t : Tid) (f : VF)
  | vins (c : CoreId) (t : Tid) (f : VF)
  | vext (c : CoreId) (t : Tid) (f : VF)
  | vperm (c : CoreId) (t : Tid) (f : VF)
  | vrsum (c : CoreId) (t : Tid) (f : VF)
  | vrmax (c : CoreId) (t : Tid) (f : VF)
  | vcvt (c : CoreId) (t : Tid) (f : VF)
  | opr (c : CoreId) (t : Tid) (f : MatF)
  | rowred2 (c : CoreId) (t : Tid) (f : RF) (fn : BitVec 11)
  | rowred2Complete (c : CoreId)
  | derivo (c : CoreId) (t : Tid) (f : VF) (fn : BitVec 5)
  | derivi (c : CoreId) (t : Tid) (f : VF) (fn : BitVec 5)
  | rr2Clr (c : CoreId) (t : Tid) (ra : Reg)
  | arrayParityEntry (c : CoreId) (t : Tid)
  | mhdr (c : CoreId) (t : Tid) (f : RF)
  | mput (c : CoreId) (t : Tid) (f : RF)
  | mputV (c : CoreId) (t : Tid) (f : RF)
  | send (c : CoreId) (t : Tid) (f : RF)
  | sendf (c : CoreId) (t : Tid) (f : RF)
  | mdiscard (c : CoreId) (t : Tid) (f : RF)
  | mqPop (c : CoreId) (t : Tid) (f : RF)
  | mdone (c : CoreId) (t : Tid) (f : RF)
  | mwait (c : CoreId) (t : Tid) (f : RF)
  | msgDispatch (c : CoreId) (t : Tid)
  | messageDeposit (src : BitVec 16) (dest : BitVec 16) (fixed : Bool)
  | eventArrival (src : BitVec 16) (dest : BitVec 16)
  | operandArrival (dest : BitVec 16) (recs : List OperandRec)
  | broadcastArrival (mask : BitVec 20) (laddr : BitVec 21) (data : List Byte)
  | creditRequestArrival (h : Holder) (dest : BitVec 16) (ring : Fin 4)
  | grantTimeout (h : Holder) (dest : BitVec 16) (ring : Fin 4)
  | grantArrival (h : Holder) (dest : BitVec 16) (ring : Fin 4)
  | retryArrival (h : Holder) (dest : BitVec 16) (ring : Fin 4)
  | denyArrival (h : Holder) (dest : BitVec 16) (ring : Fin 4)
  | recallArrival (h : Holder) (dest : BitVec 16) (ring : Fin 4)
  | returnArrival (h : Holder) (dest : BitVec 16) (ring : Fin 4)
  | bounceLanding (c : CoreId)
  | ringConfigWrite (c : CoreId) (n : Fin 4) (ctl : Bool) (w : WrBy)
  | ringRecall (c : CoreId) (n : Fin 4) (w : RecallBy)
  | frouteWrite (c : CoreId) (r : Fin 8) (w : WrBy)
  | ringRecon (c : CoreId) (n : Fin 4)
  | ctPurge (c : CoreId) (v : BitVec 32)
  | hubCtPurge (d : Fin 36) (v : BitVec 32)
  | cadReq (u : BeatSrc)
  | cadFwBeat
  | beatRequestArrival (d : DieId)
  | beatIssue
  | beat (d : DieId)
  | cadEvtWrite (c : CoreId) (v : BitVec 32)
  | leafRejoin (d : DieId) (nb : Option DieId)
  | dmastart (c : CoreId) (t : Tid) (f : RF)
  | dmastat (c : CoreId) (t : Tid) (f : RF)
  | dmakill (c : CoreId) (t : Tid) (f : RF)
  | channelGo (ch : ChanId)
  | channelKill (ch : ChanId)
  | killComplete (ch : ChanId) (k : KillOutcome)
  | periodStart (ch : ChanId)
  | moveOp (ch : ChanId)
  | loopOp (ch : ChanId)
  | waitChev (ch : ChanId)
  | waitBeat (ch : ChanId)
  | waitCnt (ch : ChanId)
  | waitTimer (ch : ChanId)
  | dmaWaitMet (ch : ChanId)
  | signalSev (ch : ChanId)
  | signalCnt (ch : ChanId)
  | signalMsg (ch : ChanId)
  | signalBeat (ch : ChanId)
  | signalChev (ch : ChanId)
  | dmaMsgRetry (ch : ChanId)
  | endOp (ch : ChanId)
  | dmaEntry (c : CoreId) (t : Tid)
  | dmaCntInc (c : CoreId) (j : Fin 8) (v : BitVec 32)
  | hubCntInc (d : Fin 36) (j : Fin 16) (v : BitVec 32)
  | hubReclaim (d : Fin 36)
  | gemv (e : Eng)
  | attn (e : Eng)
  | gather (e : Eng)
  | reduce (e : Eng)
  | copyOp (e : Eng)
  | fill (e : Eng)
  | jobReply (e : Eng)
  | jasperAbort (e : Eng)
  | memoryReadArrival (id : Nat)
  | memoryWriteArrival (id : Nat) (way : Fin 16)
  | combineWindowClose (m : Fin 16) (line : Nat)
  | gddrFillLanding (m : Fin 16) (line : Nat) (way : Fin 16)
  | gddrTracking (m : Fin 16) (ch : Fin 8)
  | retrainReq (m : Fin 16) (mask : BitVec 8)
  | crcRetryThreshold (m : Fin 16) (ch : Fin 8)
  | retrainComplete (m : Fin 16) (ch : Fin 8) (pass : Bool)
  | mscFlush (m : Fin 16)
  | cxlAccess (a : CxlServed)
  | cxlReenum (devs : List CxlDev)
  | cxlPortDown (p : Fin 4)
  | frameReceive (p : PortId) (f : Frame)
  | portLinkChange (p : PortId) (up : Bool)
  | wrWrite (d : NetId)
  | wrWriteImm (d : NetId)
  | wrRead (d : NetId)
  | wrSend (d : NetId)
  | wrFadd (d : NetId)
  | completion (d : NetId) (q : Fin 2048)
  | ackReceive (d : NetId) (q : Fin 2048) (a : Answer)
  | ackTimeout (d : NetId) (q : Fin 2048)
  | rnrTimerExpiry (d : NetId) (q : Fin 2048)
  | cnpReceive (d : NetId) (q : Fin 2048)
  | rateIncrease (d : NetId) (q : Fin 2048)
  | incomingRdmaWrite (d : NetId) (q : Fin 2048) (r : WinReq) (data : List Byte)
  | incomingWriteImm (d : NetId) (q : Fin 2048) (r : WinReq) (data : List Byte) (imm : BitVec 32)
  | incomingRdmaRead (d : NetId) (q : Fin 2048) (r : WinReq)
  | incomingSend (d : NetId) (q : Fin 2048) (psn : BitVec 24) (data : List Byte)
  | incomingFetchAdd (d : NetId) (q : Fin 2048) (r : WinReq) (addend : BitVec 64)
  | windowMessageEnd (d : NetId) (q : Fin 2048)
  | sendCreditTimeout (d : NetId) (q : Fin 2048)
  | qpOpen (d : NetId)
  | qpClose (d : NetId)
  | windowOpen (d : NetId) (v : BitVec 32)
  | windowClose (d : NetId) (v : BitVec 32)
  | peerCommit (d : NetId) (v : BitVec 32)
  | msaCommit (p : PortId) (v : BitVec 32)
  | attReq (p : PortId) (a : AttMsg)
  | certReq (p : PortId) (a : AttMsg)
  | sesOpen (p : PortId) (a : AttMsg)
  | attSegmentTimeout (src : BitVec 128)
  | encapKeyExpire (reportId : BitVec 64)
  | sessionCloseRequest
  | sessionClose
  | mrExtend (v : BitVec 32)
  | powerOn
  | bringUpSequence (o : BringUpObs)
  | heatPower (h : Fin 20)
  | islandPowerGoodTimeout (c : CoreId)
  | bootImageCheck (c : CoreId)
  | bootRecordTimeout (c : CoreId)
  | bootRecheck (c : CoreId)
  | blkSvcWrite (d : DieId) (b : BitVec 12) (v : BitVec 32)
  | resetPin (lowNs : Nat)
  | rstCtlCold
  | rstCtlWarm
  | rstCtlDie (d : DieId)
  | k0Watchdog
  | coreReset (c : CoreId)
  | powerLoss
  | parkRequest (c : CoreId)
  | parkEntry (c : CoreId)
  | parkExit (c : CoreId)
  | retainRequest (c : CoreId)
  | retainEntry (c : CoreId)
  | retainWake (c : CoreId)
  | wake (c : CoreId)
  | dieSleep (d : DieId)
  | dieWakeWrite (d : DieId)
  | dieWake (d : DieId) (page : Bool)
  | standbyRequest
  | standbyWake (sec : SecTag)
  | standbyWakeTimer
  | blkInjArm (d : DieId) (b : BitVec 12) (v : BitVec 32)
  | auditRequest (d : DieId) (b : BitVec 12) (v : BitVec 32)
  | auditSnapshot (d : DieId) (b : BitVec 12)
  | islandError (c : CoreId) (code : BitVec 8)
  | linkCrcFailure (slot : Fin 320) (lanes : List (Fin 68))
  | laneRetire (slot : Fin 320) (lane : Fin 68)
  | meshHeaderParity (d : Fin 20) (x : MeshErr)
  | requestTimeout (id : Nat)
  | pfClear
  | flashRead
  | flashProgram
  | flashErase
  | flashComplete (ok : Bool)
  | capComparison (vin : BitVec 16) (iin : BitVec 16) (pin : BitVec 16)
  | thermalSample (rs : List TempReading)
  | gddrTempRead (m : Fin 16) (temps : List Int)
  | i2cRead (addr : BitVec 8)
  | i2cWrite (addr : BitVec 8) (v : BitVec 16)
  | bypass
  | idcode
  | samplePreload
  | extest
  | clamp
  | highz
  | registerWrite (src : PageSrc) (a : BitVec 48) (v : BitVec 32)
  | trackingPauseEnd (m : Fin 16) (ch : Fin 8)
  | standbyEntryTimeout
  | inputOvervoltage
  | tripResetHoldEnd
  | jasperEnWrite (e : Eng) (en : Bool)
  deriving DecidableEq, Repr

end Sys2Proof
end

