-- ==== Sys2Proof/Config.lean ====
section
/-! DEFINITION. What the spec leaves open: free values and values a part fixes.  None has a body, so no proof can rest
on what it is (logs 5, 6, 8 and 9). -/

namespace Sys2Proof.Config

/-- The n-th free value of a run: an unspecified bit, byte or word takes the bits it needs (log 6). -/
opaque free : Nat → BitVec 64

/-- The n-th free choice of a run, used modulo the number of outcomes (log 6). -/
opaque pick : Nat → Nat

/-- Whether a fetch of a core at an address, after so many free values, returns the word from before the last write (R84). -/
opaque oldWord : Nat → Nat → Nat → Bool

/-- Which sites of a compute die a UV40 fuses, one pick after the other (spec 01 R36: chosen at test; log 5). -/
opaque fusedPick : Nat → Nat → Nat

/-- Fuse values of a part (log 5): serial number words, MAC addresses of the ports, the SVN floor, key words. -/
opaque serial : Nat → BitVec 32
opaque portMac : Nat → BitVec 48
/-- How many bits of the security-version floor are blown at delivery, at most 64 (R365). -/
opaque svnFuse : Nat
/-- The identifier of the memory key of a generation (spec 07 R234, R236). -/
opaque keyId : Nat → Nat → BitVec 32

/-- Flits that memory traffic between the `m`-th and the `n`-th access sent on a router output; the spec gives such a packet no
length (R261, R294; log 93). -/
opaque memFlits : Nat → Nat → Nat → BitVec 32

/-- What the byte of a device that stores 0 reads as at a global address, under the memory key of a generation (R234–R236). -/
opaque scrambled : Nat → Nat → BitVec 8

/-- SHA3-512; ML-DSA-87: the public and private key from a seed, the signature by a private key and its check with a public key;
ML-KEM-1024; KMAC256 with an output length, key and customisation string (spec 12), which the spec takes from their standards
(log 8). -/
opaque sha3 : List (BitVec 8) → BitVec 512
opaque dsaKeys : List (BitVec 8) → List (BitVec 8) × List (BitVec 8)
opaque sign : List (BitVec 8) → List (BitVec 8) → List (BitVec 8)
opaque verify : List (BitVec 8) → List (BitVec 8) → List (BitVec 8) → Bool
opaque kemKey : Nat → List (BitVec 8)
opaque kemDecap : List (BitVec 8) → List (BitVec 8) → List (BitVec 8)
opaque kmac : Nat → List (BitVec 8) → List (BitVec 8) → List (BitVec 8) → List (BitVec 8)
/-- What a part holds besides (R365, R366, R460): the secret seed, the fused digest of the Tolnus signing key, the bytes of the
identity area of the flash that nothing writes, where the certificate (with its length) and that key lie in it, and the subject key
of an X.509 certificate. -/
opaque uds : BitVec 256
opaque vendorKeyDigest : BitVec 512
opaque identityArea : Nat → BitVec 8
opaque certificateAt : Nat × Nat
opaque signingKeyAt : Nat
opaque subjectKey : List (BitVec 8) → List (BitVec 8)
/-- The manufacturer field of IDCODE, which only the BSDL file gives (R478). -/
opaque manufacturer : BitVec 11

/-- The vector approximations of spec 05 R193: which of the results within the rule's bound a function gives of an operand. -/
opaque vfApprox : Nat → BitVec 32 → BitVec 32
/-- The same of exp of a Jasper engine, one for every engine and every run (R246). -/
opaque jspExp : BitVec 32 → BitVec 32
/-- The same of the derivatives of spec 06 R217 that are not correctly rounded, of a saved value and dy. -/
opaque derivApprox : Nat → BitVec 32 → BitVec 32 → BitVec 32

end Sys2Proof.Config
end

