-- ==== Sys2Proof/Machine/State.lean ====
section
/-! DEFINITION. The state of the module as plain data, and the state right after reset.

Everything the spec gives the module is here: INVENTORY.md's "State" names the rule of each piece.  The registers of
the 4 KiB pages (spec 15) live in ONE store, `Hw.regs`, keyed by die, block and offset, whose unlisted entries hold
their Reset value; registers that mirror other state (THREAD_STATE, RINGn_FREE …) are computed by `pageRead`.  Families
of like things (registers, bytes, cores, QPs) are sparse tables `Tab`, an unlisted entry holding its default. -/

namespace Sys2Proof.Machine

/-- A sparse table: a list of key and value pairs, keys strictly rising. -/
abbrev Tab (α : Type) := List (Nat × α)

/-- A byte-addressed memory in one canonical form: addresses strictly rising, no entry equal to 0, which is what an
unlisted byte reads as (log 2). -/
abbrev Memory := List Host.Cell

/-- The eight tags (spec 02 "Tags"). -/
inductive Tag where
  | nil | int | fp | laddr | gaddr | stat | evh | raw
  deriving DecidableEq, Repr

/-- A scalar word with its tag (R49). The default is NIL with payload 0. -/
structure TWord where
  tag : Tag := .nil
  val : Word := 0
  deriving DecidableEq, Repr

/-- The STATUS word but for tid, which is the thread's own number (R93). -/
structure Status where
  cause : BitVec 8 := 0
  detail : BitVec 16 := 0
  slot : BitVec 5 := 0
  repLeft : BitVec 12 := 0
  repActive : Bool := false
  repMode : Bool := false
  ss : Bool := false
  lr : Bool := false
  ie : Bool := false
  priv : Bool := false
  deriving DecidableEq, Repr

/-- Thread states (R94). -/
inductive TState where
  | free | run | waitEv | waitCnt | waitJoin | waitLock | waitReq | exited | haltFault | haltStop | haltDbg | haltCore
  deriving DecidableEq, Repr

/-- A tile transfer (R159). -/
inductive TileOp where
  | load | store | storeT
  deriving DecidableEq, Repr

/-- The cache instructions that may wait for a write-back slot (R148). -/
inductive DcOp where
  | flushL | fiL | flush | fi
  deriving DecidableEq, Repr

/-- The instruction a thread in WAIT_REQ continues when its request is answered (R85, R95). -/
inductive Pend where
  | rep (i : RepIns)
  /-- A transfer before row `row`, under the configuration it started with: the row waits for memory, or, in a running
  thread, is the next to move; `id` numbers the progress record it set or resumed (R160, R162). -/
  | tile (op : TileOp) (f : RF) (row : Nat) (cfg : Word) (id : Nat)
  | dc (op : DcOp) (f : RF)
  | fence
  | send (f : RF)
  /-- A SENDF, with the destination ring of its route when it asked. -/
  | sendf (f : RF) (dest : BitVec 16) (ring : Fin 4)
  deriving DecidableEq, Repr

/-- What a thread waits for (R86, R87, R95, R100, R103, R180, R273). -/
inductive Wait where
  | none
  | wfe (rd : Reg) (mask : W32)
  | waitc (cad : Bool) (rd : Reg) (target : Word) (mask : W32)
  | mwait (rd : Reg) (mask : W32)
  | join (n : Tid) (gen : BitVec 8)
  | lock (cell : Fin 64)
  | req (p : Pend)
  | acc (seq : Nat) (fn : Fin 9) (f : AccF)
  deriving DecidableEq, Repr

/-- The composition buffer (R275): 1,024 bytes, and the header fields of the last MHDR. -/
structure Comp where
  isOpen : Bool := false
  hdrSet : Bool := false
  dest : BitVec 16 := 0
  ring : Fin 4 := 0
  tag : BitVec 16 := 0
  buf : Tab Byte := []
  deriving DecidableEq, Repr

/-- One hardware thread (R49, R51, R132). -/
structure Thread where
  g : Tab TWord := []
  v : Tab VWord := []
  k : Tab Word := []
  pc : TWord := {}
  st : Status := {}
  evPend : W32 := 0
  rs : List TWord := []
  fpcsr : Word := 0
  esp : TWord := {}
  espLimit : TWord := {}
  xsRa : TWord := {}
  xsStat : TWord := {}
  scEntry : TWord := {}
  scRa : TWord := {}
  scStat : TWord := {}
  nest : W32 := 0
  basePriv : Bool := false
  intEn : W32 := 0
  xaddr : Word := 0
  lrLevel : W32 := 0
  state : TState := .free
  wait : Wait := .none
  comp : Comp := {}
  /-- THREAD_CTL STOP requested and not landed (R102). -/
  stopReq : Bool := false
  /-- A debugger step is under way (R130). -/
  stepping : Bool := false
  /-- Data of an uncached read that has arrived for the waiting instruction (R147). -/
  resp : Option (List Byte) := none
  /-- A global answer of the waiting instruction ended with an uncorrectable error of this kind (R426). -/
  respErr : Option (BitVec 4) := none
  /-- A tile parity error found by a running instruction of this thread: tile and row (R427). -/
  arrayEcc : Option (Fin 8 × Fin 32) := none
  /-- Core DMA errors of own channels with err_int not entered yet, slot and reason, oldest first (R327). -/
  dmaErrs : List (Fin 4 × BitVec 8) := []
  /-- The scalar register whose parity is bad (R426 source 5). -/
  badReg : Option Reg := none
  /-- The single-step trap of the instruction that just committed is due (R123). -/
  ssDue : Bool := false
  /-- BANK is due for the first delayed access of a REP.N: the NEST it is due at, its detail and XADDR (R142). -/
  bankDue : Option (W32 × BitVec 16 × Word) := none
  /-- Event bits that only beats have set since the core parked (R307). -/
  beatEv : W32 := 0
  deriving DecidableEq, Repr

/-- The progress record of a tile (R156). -/
structure Progress where
  kind : TileOp
  next : Nat
  addr : TWord
  stride : Word
  deriving DecidableEq, Repr

/-- One tile (R156): bytes keyed by row × 256 + byte (element bytes 0–127, side bytes 128–167). -/
structure Tile where
  bytes : Tab Byte := []
  cfg : Word := 0
  valid : W32 := 0
  prog : Option Progress := none
  /-- How many progress records have been set: the present one is the last (R162). -/
  records : Nat := 0
  /-- Rows whose parity is bad (R170, R426). -/
  bad : List (Fin 32) := []
  deriving DecidableEq, Repr

/-- A data-cache line: its set is pline mod 128 (R146). -/
structure DLine where
  pline : Nat
  way : Fin 4
  bytes : List Byte
  dirty : BitVec 128
  /-- Data of the line has an uncorrectable (2) or correctable (1) error (R430, R432). -/
  bad : BitVec 2 := 0
  deriving DecidableEq, Repr

/-- A translation-buffer entry (R152). -/
structure TbEnt where
  v : Word := 0
  p : Word := 0
  deriving DecidableEq, Repr

/-- A lock cell that is held, with its waiter set (R103). -/
structure LockCell where
  owner : Tid
  waiters : List Tid := []
  deriving DecidableEq, Repr

/-- What an entry of an array queue does (R181, R204, R207). -/
inductive ArrKind where
  | mma | mmaS | opr | rowred2
  deriving DecidableEq, Repr

/-- An entry of an array queue: operands as they stood at issue (R163, R179, R209). -/
structure ArrIns where
  seq : Nat
  kind : ArrKind
  thread : Tid
  acc : Fin 4
  z : Bool
  ta : Fin 8
  tb : Fin 8
  a : Tile
  b : Tile
  mode : Fin 3
  desc : List Byte
  /-- ROWRED2: the bytes of its regions at issue, by which a later write to them shows (R214). -/
  snap : List Byte
  occ : Nat
  started : Option Nat
  deriving DecidableEq, Repr

/-- An operand reuse latch: the last tile row read (R170). -/
structure Latch where
  tile : Fin 8
  row : Fin 32
  deriving DecidableEq, Repr

/-- The state of a credit entry (R277). -/
inductive CState where
  | empty | req | held
  deriving DecidableEq, Repr

/-- A credit-table entry (R277). `stamp` orders the HELD entries by last use. -/
structure CEnt where
  dest : BitVec 16 := 0
  ring : Fin 4 := 0
  credits : Nat := 0
  state : CState := .empty
  stamp : Nat := 0
  deriving DecidableEq, Repr

/-- A request of a core that the mesh or a memory still has to answer (R127, R146, R147). -/
inductive OutKind where
  | fill (pline : Nat)
  | read
  | post
  | wback
  deriving DecidableEq, Repr

structure OutReq where
  id : Nat
  thread : Tid
  kind : OutKind
  deriving DecidableEq, Repr

/-- A global access that waits in WAIT_REQ, with the bytes for which nothing of it is on its way yet (R147). -/
structure GWait where
  thread : Tid
  write : Bool
  spans : List (Nat × Nat)
  deriving DecidableEq, Repr

/-- The core of a site: island, local memory and router (R49, R134, R146, R151, R277). -/
structure Core where
  threads : Tab Thread := []
  lmem : Memory := []
  ltag : Tab Tag := []
  /-- 64-bit words of local memory whose check reports: 1 corrected, 2 uncorrectable, 3 poison (R136, R423). -/
  lbad : Tab (BitVec 2) := []
  tiles : Tab Tile := []
  /-- Accumulator elements, key acc × 1,024 + row × 32 + column (R49). -/
  accs : Tab W32 := []
  dcache : List DLine := []
  /-- Lines, by space and number, that were written since the instruction cache last dropped them: a fetch there returns the
  old or the new word (R84). -/
  icache : List (Bool × Nat) := []
  tb : Tab TbEnt := []
  locks : Tab LockCell := []
  gens : Tab (BitVec 8) := []
  tfLog : Tab Word := []
  tfPc : Tab Word := []
  poolEsp : Tab TWord := []
  poolLimit : Tab TWord := []
  threadfEn : Word := 0x3FFFE
  cycle : Word := 0
  stallCnt : W32 := 0
  front : List ArrIns := []
  back : List ArrIns := []
  seq : Nat := 0
  latches : Tab Latch := []
  rr2Rows : BitVec 13 := 0
  rr2Ecc : Bool := false
  rr2Mode : BitVec 2 := 0
  credits : Tab CEnt := []
  /-- Staged FROUTE values (R282). -/
  frStaged : Tab W32 := []
  outs : List OutReq := []
  /-- Global accesses that wait in WAIT_REQ, in issue order (R147). -/
  gwaits : List GWait := []
  /-- The fault of an island error has struck since the last successful exception entry (R39). -/
  islandErr : Bool := false
  /-- A wake source that struck a parked or retained core, by its PWR_STAT.wake_src code (R408, R409). -/
  wakeSrc : BitVec 3 := 0
  deriving DecidableEq, Repr

/-- A message as it travels and as it is kept by a ring that is no core's (R264): all its granules' bytes, the header
written into bytes 0–15. -/
structure Msg where
  src : BitVec 16
  dest : BitVec 16
  bcause : BitVec 2 := 0
  fixed : Bool := false
  ring : Fin 4
  n : Nat
  tag : BitVec 16
  bytes : List Byte
  /-- Poisoned granules, by number in the record (R423). -/
  bad : List Nat := []
  deriving DecidableEq, Repr

/-- A record of a ring (R268): start and length in granules, PAD or message. -/
structure Rec where
  start : Nat
  len : Nat
  pad : Bool := false
  msg : Option Msg := none
  deriving DecidableEq, Repr

/-- A credit request waiting at a ring (R278). -/
structure CReq where
  h : Holder
  src : BitVec 16
  need : Nat
  want : Nat
  /-- The port whose rows the answer takes (R482). -/
  port : Nat := 0
  deriving DecidableEq, Repr

/-- A receive ring: counts, records oldest first, the first `popped` messages being popped (R267–R281). -/
structure Ring where
  free : Nat := 0
  granted : Nat := 0
  occ : Nat := 0
  pad : Nat := 0
  wr : Nat := 0
  ret : Nat := 0
  pop : Nat := 0
  popped : Nat := 0
  recs : List Rec := []
  waiting : List CReq := []
  grants : List (Holder × Nat) := []
  /-- Holders that a recall waits for (R280). -/
  recallFrom : List Holder := []
  /-- At ring 0 of a core: the bounces that wait at its router to land in whichever ring is its bounce ring (R279, R288). -/
  bounces : List Msg := []
  deriving DecidableEq, Repr

/-- The flow queues a packet travels on (R261). -/
inductive Queue where
  | msg | fix | bnc | ctl
  deriving DecidableEq, Repr

/-- What a packet in flight carries (R261, R276–R288). -/
inductive PBody where
  | message (m : Msg)
  | event (thread : Tid) (bit : Fin 32)
  /-- A credit request; `port` names the rows of a network die that it and its answer take (R482). -/
  | creq (h : Holder) (ring : Fin 4) (need want : Nat) (port : Nat := 0)
  | grant (h : Holder) (ring : Fin 4) (amount : Nat)
  | retry (h : Holder) (ring : Fin 4)
  | deny (h : Holder) (ring : Fin 4) (bcause : BitVec 2)
  | recallOf (h : Holder) (ring : Fin 4)
  | ret (h : Holder) (ring : Fin 4) (amount : Nat)
  deriving DecidableEq, Repr

/-- A packet in flight in the mesh. -/
structure Pkt where
  q : Queue
  src : BitVec 16
  dest : BitVec 16
  body : PBody
  /-- The port of a network die whose rows it takes (R482). -/
  port : Nat := 0
  deriving DecidableEq, Repr

/-- A memory or page request of a core in the mesh or waiting at its home die (R224, R231). -/
structure MReq where
  id : Nat
  core : CoreId
  thread : Tid
  write : Bool
  addr : Nat
  len : Nat
  /-- The bytes a write stores, by address. -/
  data : List (Nat × Byte) := []
  poison : Bool := false
  /-- An uncached access, which keeps its thread's order (R147). -/
  unc : Bool := false
  deriving DecidableEq, Repr

/-- An answer on its way to a core: data of a read, or an error of this kind (R426). -/
structure MRsp where
  id : Nat
  core : CoreId
  /-- The address of the request. -/
  addr : Nat := 0
  data : List Byte
  err : Option (BitVec 4)
  deriving DecidableEq, Repr

/-- A memory-side cache line (R229). -/
structure MLine where
  line : Nat
  way : Fin 16
  bytes : List Byte
  dirty : Bool
  /-- Injected or met error of the line: 1 corrected, 2 uncorrectable (R422, R425, R432). -/
  bad : BitVec 2 := 0
  deriving DecidableEq, Repr

/-- The window and the fill of one line (R233): joined reads, held writes, reads queued behind them. -/
structure Combine where
  line : Nat
  issued : Bool
  joined : List MReq
  held : List MReq := []
  queued : List MReq := []
  deriving DecidableEq, Repr

/-- The state of a GDDR7 channel (R256). -/
inductive ChanSt where
  | ready | tracking | retrain | dead
  deriving DecidableEq, Repr

/-- A memory-side die (R221–R236). -/
structure MemDie where
  lines : List MLine := []
  combines : List Combine := []
  chans : Tab ChanSt := []
  /-- The channel whose turn to track comes next (R227). -/
  nextTrack : Nat := 0
  poison : List Nat := []
  selfRefresh : Bool := false
  gddrTemps : List Int := []
  deriving DecidableEq, Repr

/-- A CXL port of X0 (R237–R239, R260). -/
structure CxlPort where
  up : Bool := false
  mapped : Bool := false
  size : Nat := 0
  dead : Bool := false
  deriving DecidableEq, Repr

/-- A reply that waits for credit (R251); `n` granules of payload on a fixed route, else of the message. -/
structure Reply where
  route : Option Nat
  dest : BitVec 16
  ring : Fin 4
  tag : BitVec 16
  bytes : List Byte
  n : Nat
  deriving DecidableEq, Repr

/-- A Jasper engine (R241–R253). -/
structure Jasper where
  /-- Replies of the head job not yet sent; the job leaves the ring when none is left. -/
  replies : List Reply := []
  running : Bool := false
  /-- The status with which the head job ends (R249). -/
  status : BitVec 8 := 0
  /-- The mdc that the head job ran, for JSP_BUSY_CNT. -/
  duration : W32 := 0
  frStaged : Tab W32 := []
  credits : Tab CEnt := []
  deriving DecidableEq, Repr

/-- Channel states (R332). -/
inductive DState where
  | idle | ready | run | wait | done | error | killed | killing
  deriving DecidableEq, Repr

/-- What a channel in WAIT waits for (R321, R322). -/
inductive DWait where
  | none
  | chev (mask : BitVec 8)
  | beat (target : BitVec 48)
  | cnt (ctr : Nat) (target : W32)
  | timer (target : W32)
  | credit (dest : BitVec 16) (ring : Fin 4)
  | retry
  | root
  deriving DecidableEq, Repr

/-- A DMA channel: core slot or hub channel (R320–R333). CTL, PROG, PERIOD and EV are in `regs`. -/
structure Chan where
  state : DState := .idle
  priv : Bool := false
  owner : Tid := 0
  /-- Privilege and owner of the last software start, which period starts take (R324). -/
  swPriv : Bool := true
  swOwner : Tid := 0
  /-- A software start has been taken (R324). -/
  started : Bool := false
  /-- Program address and the core whose local memory holds it, as at the start. -/
  prog : Nat := 0
  home : Nat := 0
  index : Nat := 0
  reason : BitVec 8 := 0
  bytes : W32 := 0
  timer : W32 := 0
  i : List Nat := [0, 0, 0, 0]
  /-- The body of each loop level: target, index of the LOOP, and its two increments (R320). -/
  body : List (Option (Nat × Nat × Int × Int)) := [none, none, none, none]
  beat0 : BitVec 48 := 0
  relBeat : Option (BitVec 48) := none
  relCnt : Tab W32 := []
  cnt0 : Tab W32 := []
  relTimer : W32 := 0
  wait : DWait := .none
  /-- The credit entry of a hub channel (R322). -/
  cred : CEnt := {}
  deriving DecidableEq, Repr

/-- Sleep states of a die (R407, R416). -/
inductive Sleep where
  | run | sleep | entering | waking
  deriving DecidableEq, Repr

/-- What every die has: cadence leaf, sleep state, hub buffer, routers' counters (R295, R307, R329, R294). -/
structure Die where
  count : BitVec 48 := 0
  sync : Bool := false
  sleep : Sleep := .run
  /-- Beats issued by the root and not applied at this leaf (R302). -/
  due : List (BitVec 48) := []
  /-- Orphaned hub buffer slots (R330). -/
  orphans : Nat := 0
  errChan : Nat := 0
  /-- Counters of the routers, key site × 8 + port (R294). -/
  flits : Tab W32 := []
  /-- The number of the next memory access when a write set the count of an output (log 93). -/
  flitMarks : Tab Nat := []
  waits : Tab W32 := []
  /-- Beat requests of this die's leaf under way to the root (R298). -/
  beatReqs : List BeatSrc := []
  deriving DecidableEq, Repr

/-- A MACsec receive entry or transmit association (R379, R387). -/
structure Msa where
  w0 : W32 := 0
  sci : BitVec 64 := 0
  ssci : W32 := 0
  pn : BitVec 64 := 0
  key : BitVec 256 := 0
  salt : BitVec 96 := 0
  deriving DecidableEq, Repr

/-- A port (R334–R337, R387). -/
structure Port where
  up : Bool := false
  tx : Msa := {}
  rx : Tab Msa := []
  /-- Words staged for MSA_W0 (R387). -/
  staged : Tab W32 := []
  deriving DecidableEq, Repr

/-- A window entry: W0–W6, admitted requests, and the terms of its audit (R348–R352, R438). -/
structure Win where
  w : Tab W32 := []
  busy : Nat := 0
  base6 : W32 := 0
  ended : Nat := 0
  deriving DecidableEq, Repr

/-- A work request that a QP serves (R345). -/
structure Wr where
  wrId : BitVec 16
  fence : Bool
  signal : Bool
  op : BitVec 8
  laddr : BitVec 64
  roff : BitVec 64
  rkey : W32
  len : Nat
  val : BitVec 64
  rring : Fin 4
  rcore : BitVec 16
  /-- The request breaks the rules of R345. -/
  bad : Bool := false
  /-- The PSN of its first packet, and how many of its packets are acknowledged (R340). -/
  first : BitVec 24 := 0
  acked : Nat := 0
  deriving DecidableEq, Repr

/-- A completion that waits for credit (R347). -/
structure Cpl where
  status : BitVec 8
  op : BitVec 8
  wrId : BitVec 16
  bytes : W32
  val : BitVec 64
  rring : Fin 4
  rcore : BitVec 16
  deriving DecidableEq, Repr

/-- The window message a responder QP has in hand (R351, R352): the entry it was checked against, with its words as they
stood then, the message of a WRITE_IMM, whose credit is spent, and the PSN to acknowledge, none once the QP has left RTS. -/
structure WinMsg where
  win : Nat
  w : Tab W32
  imm : Option Msg
  psn : Option (BitVec 24) := none
  deriving DecidableEq, Repr

/-- A SEND, or a WRITE_IMM admitted through a window, that waits for the credit of its message (R353). -/
structure Held where
  msg : Msg
  win : Option (Nat × Tab W32)
  psn : BitVec 24
  off : Nat := 0
  data : List Byte := []
  deriving DecidableEq, Repr

/-- A queue pair (R339–R341): context words W0–W6, requester and responder state. -/
structure Qp where
  w : Tab W32 := []
  sq : List Wr := []
  sent : List Wr := []
  cpls : List Cpl := []
  /-- The first completion waits for an answer to a credit request (R347). -/
  asked : Bool := false
  retries : Nat := 0
  rnrs : Nat := 0
  rnrWait : Bool := false
  rate : Nat := 400000
  /-- When the last cut was made and the last CNP sent, in µs (R355). -/
  lastCut : Option Nat := none
  lastCnp : Option Nat := none
  /-- Requests of the peer that wait behind the one in hand, or for their target (R341, R410). -/
  inq : List InReq := []
  msg : Option WinMsg := none
  deliver : Option Held := none
  savedAtomic : Tab (BitVec 64) := []
  deriving DecidableEq, Repr

/-- A peer entry (R342, R363): W0, W1, IP0–IP3 by index. -/
abbrev Peer := Tab W32

/-- A network die (R344–R363). -/
structure NetDie where
  wins : Tab Win := []
  winStaged : Tab W32 := []
  peers : Tab Peer := []
  peerStaged : Tab W32 := []
  qps : Tab Qp := []
  /-- Credit entries of the endpoint's senders, one per (core, ring). -/
  credits : Tab CEnt := []
  deriving DecidableEq, Repr

/-- The headers of a RoCE packet that the module sends (R337, R338, R342): the next hop, VLAN ID and address of the peer, the
port's own addresses, and the fields of its BTH, whose PSN is that of the first packet where several are sent. -/
structure Hdr where
  dstMac : BitVec 48
  srcMac : BitVec 48
  vid : BitVec 12
  ipv6 : Bool
  srcIp : BitVec 128
  dstIp : BitVec 128
  ttl : BitVec 8
  dscp : BitVec 6
  ect : BitVec 2 := 2
  df : Bool := true
  srcPort : BitVec 16
  dstPort : BitVec 16 := 4791
  pkey : BitVec 16 := 0xFFFF
  solicited : Bool := false
  destQp : BitVec 24
  psn : BitVec 24
  deriving DecidableEq, Repr

/-- What a QP sends. Of a request: the operation, where it goes on, the key, addend or immediate, the bytes still to move, and
those sent. -/
inductive Roce where
  | ack
  | nak (code : Fin 4)
  | rnrNak (timer : BitVec 5)
  | readData (bytes : List Byte)
  | atomicAck (val : BitVec 64)
  | cnp
  | request (op : BitVec 8) (roff : BitVec 64) (rkey : W32) (val : BitVec 64) (len : Nat) (bytes : List Byte)
  deriving DecidableEq, Repr

/-- The headers of an attestation datagram that K0 sends: those of the request, exchanged (R372). -/
structure AttHdr where
  dstMac : BitVec 48
  srcMac : BitVec 48
  ipv6 : Bool
  srcIp : BitVec 128
  dstIp : BitVec 128
  srcPort : BitVec 16
  dstPort : BitVec 16
  deriving DecidableEq, Repr

/-- Something the module sends out of the package: frames, replies, sideband and scan values. -/
inductive Out where
  | roce (d : NetId) (q : Fin 2048) (hdr : Hdr) (m : Roce)
  | att (p : PortId) (hdr : AttHdr) (bytes : List Byte)
  | i2c (v : BitVec 16)
  | i2cAck
  | tdo (bits : List Bool)
  deriving DecidableEq, Repr

/-- A die-to-die link (R25–R29, R392, R424). -/
structure Link where
  retired : BitVec 68 := 0
  /-- Spare lanes that failed qualification stand in `retired` bits 64–67; spares carrying data here. -/
  spareUsed : BitVec 4 := 0
  dead : Bool := false
  lanesMargin : BitVec 8 := 0
  lanesNominal : BitVec 8 := 0
  worstLane : BitVec 8 := 0
  logBits : BitVec 8 := 0
  worstErrors : W32 := 0
  nominalErrors : W32 := 0
  replays : W32 := 0
  /-- Parity errors of each lane in the current second (R424). -/
  laneErrs : Tab Nat := []
  deriving DecidableEq, Repr

/-- Site states of the site map (R37). -/
inductive SiteSt where
  | active | spare | dead | fused
  deriving DecidableEq, Repr

/-- What K0 knows of a site (R45). -/
structure Site where
  st : SiteSt := .active
  cause : BitVec 3 := 0
  rows : BitVec 8 := 0
  heat : BitVec 5 := 31
  powered : Bool := false
  /-- Sendings of the image to the site's die for one release: at the bring-up, a DIE reset or a STANDBY wake (R395). -/
  sendings : Nat := 0
  /-- A record that K0 sent has been neither checked nor timed out (R395). -/
  awaits : Bool := false
  deriving DecidableEq, Repr

/-- A unit entry of block 0x023 (R46): state code and cause. -/
structure UnitSt where
  dead : Bool := false
  cause : BitVec 3 := 0
  deriving DecidableEq, Repr

/-- A soft-repair entry (R399). -/
structure Repair where
  die : BitVec 6
  unit : BitVec 8
  array : BitVec 2
  row : BitVec 15
  deriving DecidableEq, Repr

/-- A photo-finish entry (R440). -/
structure PfEnt where
  seq : W32
  code : BitVec 8
  die : BitVec 6
  block : BitVec 12
  boot : W32
  beat : W32
  time : BitVec 64
  data0 : W32
  data1 : W32
  deriving DecidableEq, Repr

/-- A report's decapsulation key (R374): its id, and the report it belongs to. -/
structure Decap where
  reportId : BitVec 64
  key : List Byte
  report : List Byte
  deriving DecidableEq, Repr

/-- A partly received attestation request (R373). -/
structure Partial where
  src : BitVec 128
  xid : W32
  type : BitVec 8
  total : Nat
  data : List Byte
  deriving DecidableEq, Repr

/-- The open session (R377, R378). -/
structure Session where
  ss : List Byte
  transcript : List Byte
  peerSci : List (BitVec 64)
  qpn : List (BitVec 24)
  psn : BitVec 24
  deriving DecidableEq, Repr

/-- Contexts saved for STANDBY (R411). -/
structure Saved where
  qp0 : Qp
  qp2048 : Qp
  win0 : Win
  win1 : Win
  peer0 : Peer
  peer1 : Peer
  deriving DecidableEq, Repr

/-- The flash command in progress (R459). -/
inductive FlashOp where
  | read | program | erase
  deriving DecidableEq, Repr

/-- K0 but for its registers (R295, R365–R387, R388–R418, R439, R459, R469). -/
structure K0 where
  rootCount : BitVec 48 := 0
  pendingBeats : Nat := 0
  lastIssue : Option Nat := none
  /-- Writes of CAD_FW_BEAT that wait while pending is full (R301). -/
  fwWaits : Nat := 0
  hold : List DieId := []
  accepted : Nat := 0
  svnFuses : BitVec 64 := 0
  mrs : Tab (BitVec 512) := []
  mrStage : Tab W32 := []
  session : Option Session := none
  closing : Bool := false
  decaps : List Decap := []
  reportNo : W32 := 0
  /-- When the reports of the last second went out, in µs (R374). -/
  served : List Nat := []
  /-- The owner's key, as step 2 of the last bring-up read it (R376, R460). -/
  owner : Option (List Byte) := none
  partials : List Partial := []
  /-- Module flash, an unlisted byte reading 0xFF (log 4). -/
  flash : Tab Byte := []
  flashOp : Option FlashOp := none
  srt : List Repair := []
  pf : Tab PfEnt := []
  pfTotal : W32 := 0
  keyGen : Nat := 0
  trip : Option Nat := none
  heldReset : Bool := false
  saved : Option Saved := none
  standbyReq : Bool := false
  capLevel : Fin 8 := 0
  belowCap : Nat := 0
  /-- Input energy since POWER, in units of 100 µJ (R475). -/
  energy : Nat := 0
  /-- The hottest reading in the module, as the last sample left it (R475). -/
  hottest : Int := 0
  /-- The words of the site-map body as last published, key block × 2¹² + offset (R42, R48). -/
  smapBody : Tab W32 := []
  failStep : BitVec 4 := 0
  /-- The kind 3 image that the bring-up verified (R368, R394), and the floor it will raise svn_floor to (R370). -/
  image : List Byte := []
  svnTo : Nat := 0
  /-- Compensation delays of the leaves, as bring-up measured them (R302). -/
  delays : Tab W32 := []
  /-- Dies that did not complete step 4 of the bring-up (R390). -/
  late : List DieId := []
  /-- How far a waking from STANDBY has come (R412): 0 not waking, 1 begun, 2 powering islands, 3 restored. -/
  wakeStep : Nat := 0
  deriving DecidableEq, Repr

/-- The pins and the scan port (R404, R472, R476–R478). -/
inductive Scan where
  | bypass | idcode | sample | extest | clamp | highz
  deriving DecidableEq, Repr

structure Pins where
  rstLow : Bool := false
  pwrgd : Bool := false
  scan : Scan := .idcode
  /-- The instruction the scan register acts as (R478). -/
  acting : Scan := .idcode
  deriving DecidableEq, Repr

/-- A temperature sensor: its last reading in 1/16 °C, and whether that reading was at or above 115 °C (R470). -/
structure Sensor where
  val : Int
  hot : Bool := false
  deriving DecidableEq, Repr

/-- The thermal level of an island or of a memory-side die's engines: samples that must pass before it may rise again, and
samples at or below THERM_CTL.lo in a row (R470). -/
structure Throttle where
  level : Fin 8 := 0
  hold : Nat := 0
  cool : Nat := 0
  deriving DecidableEq, Repr

/-- The two part numbers (R1–R3). -/
inductive Variant where
  | uv48 | uv40
  deriving DecidableEq, Repr

/-- The whole hardware: everything but the queue of waiting commands. -/
structure Hw where
  variant : Variant := .uv48
  /-- Time since POWER in units of 1/12 ns (R18, R479). -/
  now : Nat := 0
  /-- The model's own counter of free values (log 6). -/
  free : Nat := 0
  /-- The next identifier of a memory request; a unit's access of a line takes one too. -/
  nextId : Nat := 0
  /-- `nextId` when the flit counts of the routers were last cleared (log 93). -/
  flitMark : Nat := 0
  /-- The power reset has ended and the rails are up (R465). -/
  powered : Bool := false
  /-- Page registers, key die × 2²⁴ + block × 2¹² + offset. -/
  regs : Tab W32 := []
  cores : Tab Core := []
  sites : Tab Site := []
  rings : Tab Ring := []
  chans : Tab Chan := []
  dies : Tab Die := []
  mems : Tab MemDie := []
  engines : Tab Jasper := []
  units : Tab UnitSt := []
  gddr : Memory := []
  cxlMem : Memory := []
  /-- CXL lines written as poisoned, by tier line (R239, R423). -/
  cxlPoison : List Nat := []
  cxlPorts : Tab CxlPort := []
  nets : Tab NetDie := []
  ports : Tab Port := []
  links : Tab Link := []
  /-- Audits requested and not captured yet, by page (R438). -/
  audits : List Nat := []
  flight : List Pkt := []
  reqs : List MReq := []
  rsps : List MRsp := []
  out : List Out := []
  /-- Temperature sensors, key die × 256 + island or sensor 0–3, and thermal levels, key die × 256 + island, or + 0 for the
  engines of a memory-side die (R470). -/
  sensors : Tab Sensor := []
  levels : Tab Throttle := []
  k0 : K0 := {}
  pins : Pins := {}
  deriving DecidableEq, Repr

/-- The state of the model: the hardware, and the commands that wait, first in, first out. -/
structure State where
  hw : Hw := {}
  pending : List Instr := []
  deriving DecidableEq, Repr

/-- What stops the model. -/
inductive Fault where
  /-- Raised by `exec` for a command whose operands no unit of the module can meet (a payload of the wrong length, a
  granule count outside 1–16; `Instr.wf`).  Safe: the hardware never sees such a command. -/
  | illFormed
  deriving DecidableEq, Repr

/-- Why a command has no meaning in the model. -/
inductive Refusal where
  /-- Answered only by an arm of `exec` whose command has no meaning yet.  Safe. -/
  | notModelled (mnemonic : String)
  deriving DecidableEq, Repr

/-- The module right after a POWER reset of a UV48: every register at its Reset value, no rail up, nothing waiting
(R14, R16, R388, R463); the values the spec does not give are those of log entries 1 to 7. -/
def State.reset : State := {}

end Sys2Proof.Machine
end

