-- ==== Sys2Proof/Machine/Tab.lean ====
section
/-! DEFINITION. The operations of the sparse tables `Tab` and of the byte memories `Memory` (spec 00 R7).

`Memory` keeps one canonical form, `Memory.wf`: addresses strictly rising and no byte equal to 0 listed. -/

namespace Sys2Proof.Machine

/-- The entry of key `n`, if it is listed. -/
def look {α : Type} : Tab α → Nat → Option α
  | [], _ => none
  | (k, v) :: r, n => if n = k then some v else look r n

/-- The entry of key `n`, or the default `d`. -/
def lookD {α : Type} (t : Tab α) (n : Nat) (d : α) : α := (look t n).getD d

/-- The table with `v` at key `n`, keys kept rising. -/
def put {α : Type} : Tab α → Nat → α → Tab α
  | [], n, v => [(n, v)]
  | (k, w) :: r, n, v =>
    if n < k then (n, v) :: (k, w) :: r else if n = k then (n, v) :: r else (k, w) :: put r n v

/-- The table without key `n`. -/
def del {α : Type} : Tab α → Nat → Tab α
  | [], _ => []
  | (k, w) :: r, n => if n = k then del r n else (k, w) :: del r n

/-- The table with `f` applied to the entry at `n`. -/
def upd {α : Type} (t : Tab α) (n : Nat) (d : α) (f : α → α) : Tab α := put t n (f (lookD t n d))

/-- Keys strictly rising. -/
def sorted {α : Type} : Tab α → Bool
  | [] => true
  | [_] => true
  | (k, _) :: (l, w) :: r => decide (k < l) && sorted ((l, w) :: r)

/-- One byte of a memory; an unlisted byte reads 0 (log 2). -/
def Memory.read (m : Memory) (a : Nat) : Byte := lookD m a 0

/-- The memory with byte `b` at `a`; a byte of 0 is unlisted. -/
def Memory.write (m : Memory) (a : Nat) (b : Byte) : Memory :=
  if b = 0 then del m a else put m a b

/-- The canonical form: addresses strictly rising, and no listed byte equal to what an unlisted one reads as. -/
def Memory.wf (m : Memory) : Bool := sorted m && m.all fun c => decide (c.2 ≠ 0)

/-- `n` bytes from address `a` on. -/
def Memory.readN (m : Memory) (a : Nat) : Nat → List Byte
  | 0 => []
  | n + 1 => m.read a :: Memory.readN m (a + 1) n

/-- The bytes `bs` written from address `a` on. -/
def Memory.writeN (m : Memory) (a : Nat) : List Byte → Memory
  | [] => m
  | b :: bs => Memory.writeN (m.write a b) (a + 1) bs

end Sys2Proof.Machine
end

