-- ==== Sys2Proof/Machine/Bits.lean ====
section
/-! DEFINITION. Bit fields, sign extension and little-endian bytes (spec 00 R7, R8). -/

namespace Sys2Proof.Machine

/-- 1 for true, 0 for false, as a word of `w` bits. -/
def bit (w : Nat) (b : Bool) : BitVec w := if b then 1 else 0

/-- Field [h:l] of a word, as a number. -/
def fld {w : Nat} (x : BitVec w) (h l : Nat) : Nat := (x.toNat / 2 ^ l) % 2 ^ (h + 1 - l)

/-- A word of `w` bits from fields given as pairs of lowest bit and value. -/
def pack (w : Nat) (fs : List (Nat × Nat)) : BitVec w :=
  BitVec.ofNat w (fs.foldl (fun a p => a ||| (p.2 <<< p.1)) 0)

/-- `x` with the bits of `mask` taken from `y`. -/
def merge {w : Nat} (mask x y : BitVec w) : BitVec w := (x &&& ~~~mask) ||| (y &&& mask)

/-- Field [h:l] of `x` set to `v`. -/
def setFld {w : Nat} (x : BitVec w) (h l v : Nat) : BitVec w :=
  merge (BitVec.ofNat w ((2 ^ (h + 1 - l) - 1) <<< l)) x (BitVec.ofNat w (v <<< l))

/-- Bit `i` of `x` set to `b`. -/
def setBit {w : Nat} (x : BitVec w) (i : Nat) (b : Bool) : BitVec w := setFld x i i (if b then 1 else 0)

/-- The number of `n` little-endian bytes. -/
def leNat : List Byte → Nat
  | [] => 0
  | b :: bs => b.toNat + 256 * leNat bs

/-- The `n` low bytes of a number, little-endian. -/
def leBytes : Nat → Nat → List Byte
  | 0, _ => []
  | n + 1, x => BitVec.ofNat 8 x :: leBytes n (x / 256)

/-- Bytes [at, at + n) of a list, zero where the list ends. -/
def sub (bs : List Byte) (at' n : Nat) : List Byte :=
  let s := (bs.drop at').take n
  s ++ List.replicate (n - s.length) 0

/-- The little-endian number in bytes [at, at + n) of a list. -/
def leAt (bs : List Byte) (at' n : Nat) : Nat := leNat (sub bs at' n)

/-- Signed value of the low `n` bits of a number. -/
def sgn (n x : Nat) : Int :=
  let y := x % 2 ^ n
  if 2 * y < 2 ^ n then (y : Int) else (y : Int) - (2 ^ n : Nat)

/-- A 64-bit word from an integer, modulo 2⁶⁴. -/
def ofI (x : Int) : Word := BitVec.ofInt 64 x

/-- Sign extension of an immediate to 64 bits. -/
def sx {w : Nat} (x : BitVec w) : Word := x.signExtend 64

/-- Zero extension to 64 bits. -/
def zx {w : Nat} (x : BitVec w) : Word := x.setWidth 64

/-- A count of `w` bits increased by `n`, saturating. -/
def satAdd (w : Nat) (x : W32) (n : Nat) : W32 := BitVec.ofNat 32 (Nat.min (x.toNat + n) (2 ^ w - 1))

/-- The positions below `n` of the set bits of a word, lowest first. -/
def bitsOf {w : Nat} (n : Nat) (x : BitVec w) : List Nat := (List.range n).filter fun i => x.getLsbD i

/-- Leading zeros of a 64-bit word. -/
def clz64 (x : Word) : Nat := if x = 0 then 64 else 63 - x.toNat.log2

/-- Set bits of a word. -/
def popCount {w : Nat} (x : BitVec w) : Nat := (bitsOf w x).length

end Sys2Proof.Machine
end

