-- ==== Sys2Proof/Machine/Float.lean ====
section
/-! DEFINITION. Floating point: the formats of spec 05 R174 as exact values ±m·2^e, the operations computed exactly and
rounded once (R56, R73, R182, R193), with the flags each raises. -/

namespace Sys2Proof.Machine

/-- A decoded value. -/
inductive FV where
  | nan (signalling : Bool)
  | inf (neg : Bool)
  | fin (neg : Bool) (m : Nat) (e : Int)
  deriving DecidableEq, Repr

/-- How a format uses its top codes: IEEE infinities and NaNs, one NaN code and no infinity, or neither (R174). -/
inductive Special where
  | ieee | oneNan | none
  deriving DecidableEq, Repr

/-- A format of `eb` exponent and `mb` mantissa bits, its bias 2^(eb−1) − 1 (R174). -/
structure Fmt where
  eb : Nat
  mb : Nat
  sp : Special := .ieee
  deriving DecidableEq, Repr

def fp64 : Fmt := ⟨11, 52, .ieee⟩
def fp32 : Fmt := ⟨8, 23, .ieee⟩
def bf16 : Fmt := ⟨8, 7, .ieee⟩
def e4m3 : Fmt := ⟨4, 3, .oneNan⟩
def e5m2 : Fmt := ⟨5, 2, .ieee⟩
def e2m3 : Fmt := ⟨2, 3, .none⟩
def e3m2 : Fmt := ⟨3, 2, .none⟩
def e2m1 : Fmt := ⟨2, 1, .none⟩

def Fmt.width (f : Fmt) : Nat := 1 + f.eb + f.mb
def Fmt.bias (f : Fmt) : Int := 2 ^ (f.eb - 1) - 1
/-- Exponent of the last place of the subnormals. -/
def Fmt.emin (f : Fmt) : Int := 1 - f.bias - f.mb
/-- Largest finite magnitude, as bits (R174). -/
def Fmt.maxFin (f : Fmt) : Nat :=
  match f.sp with
  | .ieee => (2 ^ f.eb - 1) * 2 ^ f.mb - 1
  | .oneNan => 2 ^ (f.eb + f.mb) - 2
  | .none => 2 ^ (f.eb + f.mb) - 1
/-- The canonical NaN (R56, R183, R189): the one NaN code where there is only one, 0 where there is none. -/
def Fmt.cnan (f : Fmt) : Nat :=
  match f.sp with
  | .ieee => (2 ^ f.eb - 1) * 2 ^ f.mb + 2 ^ (f.mb - 1)
  | .oneNan => 2 ^ (f.eb + f.mb) - 1
  | .none => 0
def Fmt.infBits (f : Fmt) : Nat := (2 ^ f.eb - 1) * 2 ^ f.mb
def Fmt.signBit (f : Fmt) : Nat := 2 ^ (f.eb + f.mb)

/-- The value of a code (R174); subnormals are kept. -/
def Fmt.dec (f : Fmt) (x : Nat) : FV :=
  let neg := decide (f.signBit ≤ x % 2 ^ f.width)
  let a := x % f.signBit
  let e := a / 2 ^ f.mb
  let m := a % 2 ^ f.mb
  if f.sp = .ieee ∧ f.infBits ≤ a then
    if a = f.infBits then .inf neg else .nan (decide (m < 2 ^ (f.mb - 1)))
  else if f.sp = .oneNan ∧ a = f.cnan then .nan false
  else if e = 0 then .fin neg m f.emin
  else .fin neg (m + 2 ^ f.mb) (f.emin + (e - 1 : Nat))

/-- The five flags of FPCSR (R55), and whether the result is tiny (R56). -/
structure FFlags where
  nv : Bool := false
  dz : Bool := false
  of : Bool := false
  uf : Bool := false
  nx : Bool := false
  tiny : Bool := false
  deriving DecidableEq, Repr

def FFlags.or (a b : FFlags) : FFlags :=
  ⟨a.nv || b.nv, a.dz || b.dz, a.of || b.of, a.uf || b.uf, a.nx || b.nx, a.tiny || b.tiny⟩

/-- The flag bits as FPCSR holds them; with trap_en UF set a tiny exact result sets UF too (R55, R56). -/
def FFlags.bits (a : FFlags) (ufTrap : Bool) : Nat :=
  16 * a.nv.toNat + 8 * a.dz.toNat + 4 * a.of.toNat + 2 * (a.uf || (ufTrap && a.tiny)).toNat + a.nx.toNat

/-- Rounding modes of FPCSR.rm (R55). -/
abbrev RM := Nat

/-- Rounds n + r/2^s upward in magnitude or not: `odd` is n's last bit, `rem` the remainder of `2^s`. -/
def roundUp (rm : RM) (neg odd : Bool) (rem half : Nat) : Bool :=
  match rm with
  | 0 => decide (half < rem) || (decide (rem = half) && odd)
  | 1 => false
  | 2 => neg && decide (rem ≠ 0)
  | _ => !neg && decide (rem ≠ 0)

/-- m·2^e rounded to a multiple of 2^q: the multiplier, and whether it is inexact. -/
def quant (rm : RM) (neg : Bool) (m : Nat) (e q : Int) : Nat × Bool :=
  if q ≤ e then (m * 2 ^ (e - q).toNat, false)
  else
    let s := 2 ^ (q - e).toNat
    let n := m / s
    let r := m % s
    -- the half is compared doubled, so that s = 1 needs no case
    (if roundUp rm neg (decide (n % 2 = 1)) (2 * r) s then n + 1 else n, decide (r ≠ 0))

/-- An exact value rounded once to a format (R56); `sat` replaces infinity by the largest finite value. NaN gives the
canonical NaN. -/
def Fmt.enc (f : Fmt) (rm : RM) (sat : Bool) : FV → Nat × FFlags
  | .nan _ => (f.cnan, {})
  | .inf neg => ((if sat then f.maxFin else f.infBits) + (if neg then f.signBit else 0), {})
  | .fin neg m e =>
    let s := if neg then f.signBit else 0
    if m = 0 then (s, {})
    else
      let top := (m.log2 : Int) + e
      let q := max (top - f.mb) f.emin
      let (n, inexact) := quant rm neg m e q
      let b := (q - f.emin).toNat * 2 ^ f.mb + n
      let tiny := decide (top < f.emin + f.mb) &&
        !(decide (top = f.emin + f.mb - 1) && decide ((quant rm neg m e (top - f.mb)).1 = 2 ^ (f.mb + 1)))
      if f.maxFin < b then
        let toInf := rm = 0 ∨ (rm = 2 ∧ neg = true) ∨ (rm = 3 ∧ neg = false)
        ((if sat = false ∧ toInf then f.infBits else f.maxFin) + s, { of := true, nx := true })
      else (b + s, { nx := inexact, tiny := tiny, uf := tiny && inexact })

/-- The sign of a value. -/
def FV.neg : FV → Bool
  | .nan _ => false | .inf n => n | .fin n _ _ => n
def FV.isNan : FV → Bool
  | .nan _ => true | _ => false
def FV.isSig : FV → Bool
  | .nan s => s | _ => false
def FV.isInf : FV → Bool
  | .inf _ => true | _ => false
def FV.isZero : FV → Bool
  | .fin _ 0 _ => true | _ => false
def FV.negate : FV → FV
  | .nan s => .nan s | .inf n => .inf (!n) | .fin n m e => .fin (!n) m e

/-- A finite value as an integer multiple of 2^q, for q at most its exponent. -/
def FV.toInt (q : Int) : FV → Int
  | .fin n m e => let v : Int := (m * 2 ^ (e - q).toNat : Nat); if n then -v else v
  | _ => 0

/-- The signed value z·2^q; `z0` is the sign a zero takes. -/
def FV.ofInt (z : Int) (q : Int) (z0 : Bool) : FV := if z = 0 then .fin z0 0 q else .fin (decide (z < 0)) z.natAbs q

def FV.exp : FV → Int
  | .fin _ _ e => e | _ => 0

/-- Exact sum, with the invalid flag of ∞ − ∞ and signalling NaNs; an exact zero of unlike signs is +0, or −0 when
rounding toward −∞. -/
def FV.add (rm : RM) (a b : FV) : FV × Bool :=
  match a, b with
  | .nan s, y => (.nan false, s || y.isSig)
  | x, .nan s => (.nan false, s || x.isSig)
  | .inf m, .inf n => if m = n then (.inf m, false) else (.nan false, true)
  | .inf m, _ => (.inf m, false)
  | _, .inf n => (.inf n, false)
  | .fin na ma ea, .fin nb mb eb =>
    let q := min ea eb
    let z := (FV.fin na ma ea).toInt q + (FV.fin nb mb eb).toInt q
    (FV.ofInt z q (if ma = 0 ∧ mb = 0 ∧ na = nb then na else decide (rm = 2)), false)

/-- Exact product. -/
def FV.mul (a b : FV) : FV × Bool :=
  match a, b with
  | .nan s, y => (.nan false, s || y.isSig)
  | x, .nan s => (.nan false, s || x.isSig)
  | .inf m, y => if y.isZero then (.nan false, true) else (.inf (m != y.neg), false)
  | x, .inf n => if x.isZero then (.nan false, true) else (.inf (n != x.neg), false)
  | .fin na ma ea, .fin nb mb eb => (.fin (na != nb) (ma * mb) (ea + eb), false)

/-- Exact a × b + c; ∞ × 0 is invalid whatever c is (R73). -/
def FV.fma (rm : RM) (a b c : FV) : FV × Bool :=
  let (p, i) := FV.mul a b
  let (s, j) := FV.add rm p c
  (s, i || j)

/-- Quotient exact but for a sticky last bit, `p` bits beyond what a rounding needs. -/
def FV.div (p : Nat) (a b : FV) : FV × FFlags :=
  match a, b with
  | .nan s, y => (.nan false, { nv := s || y.isSig })
  | x, .nan s => (.nan false, { nv := s || x.isSig })
  | .inf m, .inf _ => (.nan m, { nv := true })
  | .inf m, y => (.inf (m != y.neg), {})
  | x, .inf n => (.fin (n != x.neg) 0 0, {})
  | .fin na ma ea, .fin nb mb eb =>
    if mb = 0 then if ma = 0 then (.nan false, { nv := true }) else (.inf (na != nb), { dz := true })
    else
      let k := p + mb.log2 + 4
      let q := ma * 2 ^ k / mb
      let r := ma * 2 ^ k % mb
      (.fin (na != nb) (2 * q + (if r = 0 then 0 else 1)) (ea - eb - k - 1), {})

/-- Integer square root, one binary digit at a time. -/
def isqrtGo : Nat → Nat → Nat → Nat
  | 0, _, r => r
  | n + 1, x, r => let c := r + 2 ^ n; isqrtGo n x (if c * c ≤ x then c else r)
def isqrt (x : Nat) : Nat := isqrtGo (x.log2 / 2 + 1) x 0

/-- Square root exact but for a sticky last bit; of a negative value other than −0 it is invalid. -/
def FV.sqrt (p : Nat) (a : FV) : FV × Bool :=
  match a with
  | .nan s => (.nan false, s)
  | .inf n => if n then (.nan false, true) else (.inf false, false)
  | .fin n m e =>
    if m = 0 then (.fin n 0 e, false)
    else if n then (.nan false, true)
    else
      let k := 2 * p + 4 + (if e % 2 = 0 then 0 else 1)
      let x := m * 2 ^ k
      let r := isqrt x
      (.fin false (2 * r + (if r * r = x then 0 else 1)) ((e - k) / 2 - 1), false)

/-- a < b, for values that are no NaN. -/
def FV.lt (a b : FV) : Bool :=
  match a, b with
  | .nan _, _ => false
  | _, .nan _ => false
  | .inf m, .inf n => m && !n
  | .inf m, _ => m
  | _, .inf n => !n
  | x, y => let q := min x.exp y.exp; decide (x.toInt q < y.toInt q)
/-- a = b as numbers. -/
def FV.eq (a b : FV) : Bool := !a.isNan && !b.isNan && !a.lt b && !b.lt a

/-- minimumNumber and maximumNumber of IEEE 754 (R73): a NaN loses to a number, −0 is below +0. -/
def FV.minNum (maxi : Bool) (a b : FV) : FV × Bool :=
  let sig := a.isSig || b.isSig
  if a.isNan then (b, sig) else if b.isNan then (a, sig)
  else
    let less := a.lt b || (a.eq b && a.neg && !b.neg)
    (if less != maxi then a else b, sig)

/-- An integer as a value. -/
def FV.ofZ (z : Int) : FV := FV.ofInt z 0 false

/-- A value rounded to an integer, and whether that is inexact. -/
def FV.round (rm : RM) : FV → Int × Bool
  | .fin n m e => let (k, i) := quant rm n m e 0; (if n then -(k : Int) else k, i)
  | _ => (0, false)

/-- Conversion to a signed integer of `w` bits: out of range, infinity or NaN gives −2^(w−1) and NV only (R73, R193). -/
def cvtFI (w : Nat) (rm : RM) (a : FV) : Int × FFlags :=
  match a with
  | .fin _ _ _ =>
    let (z, i) := a.round rm
    if z < -(2 ^ (w - 1) : Int) ∨ (2 ^ (w - 1) : Int) ≤ z then (-(2 ^ (w - 1) : Int), { nv := true }) else (z, { nx := i })
  | _ => (-(2 ^ (w - 1) : Int), { nv := true })

/-- A two-operand or three-operand arithmetic function of a format. -/
inductive FOp where
  | add | sub | mul | fma | min | max | div | sqrt
  deriving DecidableEq, Repr

/-- The rounded result of an operation on codes of format `f`, and its flags (R56, R73, R193). -/
def Fmt.op (f : Fmt) (rm : RM) (o : FOp) (a b c : Nat) : Nat × FFlags :=
  let x := f.dec a
  let y := f.dec b
  let fin (r : FV × Bool) : Nat × FFlags := let (v, g) := f.enc rm false r.1; (v, g.or { nv := r.2 })
  match o with
  | .add => fin (FV.add rm x y)
  | .sub => fin (FV.add rm x y.negate)
  | .mul => fin (FV.mul x y)
  | .fma => fin (FV.fma rm x y (f.dec c))
  | .min => fin (FV.minNum false x y)
  | .max => fin (FV.minNum true x y)
  | .div => let (r, g) := FV.div (f.mb + 3) x y; let (v, k) := f.enc rm false r; (v, k.or g)
  | .sqrt => fin (FV.sqrt (f.mb + 3) x)

/-- Comparisons (R73, R193): equality is invalid for signalling NaNs only, the orders for every NaN. -/
inductive FCmp where
  | eq | lt | le
  deriving DecidableEq, Repr
def Fmt.cmp (f : Fmt) (o : FCmp) (a b : Nat) : Bool × FFlags :=
  let x := f.dec a
  let y := f.dec b
  match o with
  | .eq => (x.eq y, { nv := x.isSig || y.isSig })
  | .lt => (x.lt y, { nv := x.isNan || y.isNan })
  | .le => (x.lt y || x.eq y, { nv := x.isNan || y.isNan })

/-- A code of one format rounded into another. -/
def convert (f g : Fmt) (rm : RM) (sat : Bool) (x : Nat) : Nat × FFlags := g.enc rm sat (f.dec x)

end Sys2Proof.Machine
end

