-- ==== Sys2Proof/Machine/Approx.lean ====
section
/-! DEFINITION. The functions that are given by an error bound (spec 05 R193, spec 06 R216, R217, spec 07 R246): their exact values
as fixed-point numbers, far finer than any bound, and a choice among the results that keep the bound (log 9). -/

namespace Sys2Proof.Machine

/-! ### Fixed-point numbers of 768 fraction bits

A value is an integer in units of 2^-768; each operation is wrong by a few units. -/

def fxBits : Nat := 768
def fxOne : Int := 2 ^ 768
def fxMul (a b : Int) : Int := a * b / fxOne
def fxDiv (a b : Int) : Int := a * fxOne / b
/-- Of a value m·2^e. -/
def fxOf (neg : Bool) (m : Nat) (e : Int) : Int :=
  let a : Int := if 0 ≤ e + 768 then m * 2 ^ (e + 768).toNat else m / 2 ^ (-(e + 768)).toNat
  if neg then -a else a
/-- Values beyond ±`n`, where every function here is as good as at its limit, count as ±`n`. -/
def fxClamp (n : Nat) (x : Int) : Int := max (-(n * fxOne)) (min (n * fxOne) x)

/-- Σ of terms: term `k` is the one before times `r k`; `n` terms. -/
def fxSum (r : Nat → Int → Int) : Nat → Nat → Int → Int → Int
  | 0, _, _, acc => acc
  | n + 1, k, term, acc => fxSum r n (k + 1) (r k term) (acc + term)

def fxSquare : Nat → Int → Int
  | 0, x => x
  | n + 1, x => fxSquare n (fxMul x x)

/-- e^x for |x| ≤ 400: the series at x/1024, squared ten times. -/
def fxExp (x : Int) : Int :=
  let y := fxClamp 400 x / 1024
  fxSquare 10 (fxSum (fun k t => fxMul t y / (k + 1)) 160 0 fxOne 0)

/-- Σ zⁱ/i over odd i, signs alternating for arctan: artanh z and arctan z. -/
def fxArc (alt : Bool) (z : Int) : Int :=
  let z2 := fxMul z z
  ((List.range 500).foldl (fun (a : Int × Int) (k : Nat) =>
    let t := a.2 / (2 * k + 1)
    (a.1 + (if alt && decide (k % 2 = 1) then -t else t), fxMul a.2 z2)) (0, z)).1

def fxLn2 : Int := 2 * fxArc false (fxOne / 3)
/-- ln of m·2^e, m > 0. -/
def fxLn (m : Nat) (e : Int) : Int :=
  let f : Int := m * fxOne / 2 ^ m.log2
  ((m.log2 : Int) + e) * fxLn2 + 2 * fxArc false (fxDiv (f - fxOne) (f + fxOne))

/-- √(m·2^e). -/
def fxSqrt (m : Nat) (e : Int) : Int :=
  let s : Int := e + 1536
  (Nat.sqrt (if 0 ≤ s then m * 2 ^ s.toNat else m / 2 ^ (-s).toNat) : Nat)

def fxPi : Int := 16 * fxArc true (fxOne / 5) - 4 * fxArc true (fxOne / 239)

/-- σ(x) = 1/(1 + e^-x). -/
def fxSigma (x : Int) : Int := if 0 ≤ x then fxDiv fxOne (fxOne + fxExp (-x)) else let e := fxExp x; fxDiv e (fxOne + e)
/-- tanh x = (1 - e^-2x)/(1 + e^-2x). -/
def fxTanh (x : Int) : Int :=
  let a := if x < 0 then -x else x
  let e := fxExp (-2 * fxClamp 200 a)
  let r := fxDiv (fxOne - e) (fxOne + e)
  if x < 0 then -r else r

/-- The normal density. -/
def fxPhi (x : Int) : Int := fxDiv (fxExp (-(fxMul x x) / 2)) (fxSqrt 2 0 * fxSqrt (fxPi.toNat) (-768) / fxOne)
/-- The normal distribution for |x| ≤ 24: 1/2 + φ(x)·Σ x^(2n+1)/(1·3·…·(2n+1)). -/
def fxPhiInt (x : Int) : Int :=
  let x2 := fxMul x x
  fxOne / 2 + fxMul (fxPhi x) (fxSum (fun k t => fxMul t x2 / (2 * k + 3)) 1500 0 x 0)

/-- The derivatives of R216 that are not correctly rounded: softplus from y, then GELU, its tanh form and SiLU from x. -/
def fxDeriv (inp : Bool) (fn : Nat) (v : Int) : Int :=
  if !inp then fxOne - fxExp (-v)
  else match fn with
    | 0 => let x := fxClamp 24 v; if v < -(24 * fxOne) then 0 else fxPhiInt x + fxMul x (fxPhi x)
    | 1 =>
      let x := fxClamp 24 v
      let c := fxDiv (fxSqrt 2 0) (fxSqrt fxPi.toNat (-768))
      let a := 44715 * fxOne / 1000000
      let u := fxMul c (x + fxMul a (fxMul x (fxMul x x)))
      let u' := fxMul c (fxOne + 3 * fxMul a (fxMul x x))
      fxSigma (2 * u) + 2 * fxMul (fxMul x u') (fxMul (fxSigma (2 * u)) (fxSigma (-2 * u)))
    | _ => let x := fxClamp 400 v; fxMul (fxSigma x) (fxOne + fxMul x (fxSigma (-x)))

/-! ### Results within a bound -/

/-- Values compared as integers in units of 2^-1300, below every last place and product here. -/
def unitsOf (neg : Bool) (m : Nat) (e : Int) : Int := let a : Int := m * 2 ^ (e + 1300).toNat; if neg then -a else a

/-- The number of a code in the order of values, and back; both zeros are number 0. -/
def Fmt.place (f : Fmt) (x : Nat) : Int := if f.signBit ≤ x then -((x - f.signBit : Nat) : Int) else x
def Fmt.codesAt (f : Fmt) (n : Int) : List Nat :=
  if n = 0 then [0, f.signBit] else if n < 0 then [f.signBit + (-n).toNat] else [n.toNat]

/-- The codes whose values lie within `n` ulp of x = v·2^-1300, a number known to 2^-300 of itself, the ulp being that of the binade
of x; infinity stands for the next number behind the largest. The code nearest to x always is one. -/
def Fmt.within (f : Fmt) (n : Nat) (v : Int) : List Nat :=
  let m := v.natAbs
  let c0 := (f.enc 0 false (.fin (decide (v < 0)) m (-1300))).1
  let ulp := unitsOf false 1 (max ((m.log2 : Int) - 1300 - f.mb) f.emin)
  let slack : Int := n * ulp + m / 2 ^ 300
  let value (c : Nat) : Int :=
    match f.dec c with
    | .fin s k e => unitsOf s k e
    | .inf s => unitsOf s 1 (f.emin + 2 ^ f.eb - 2 + f.mb)
    | .nan _ => 0
  let near := ((List.range 17).map fun (i : Nat) => f.codesAt (f.place c0 + (i : Int) - 8)).flatten
  c0 :: near.filter fun c => c != c0 && !(f.dec c).isNan && decide ((value c - v).natAbs ≤ slack)

/-- The flags of a result that is finite or infinite after a finite operand: overflow and underflow as R56 finds them,
never inexact (R193). -/
def Fmt.approxFlags (f : Fmt) (r : Nat) : FFlags :=
  match f.dec r with
  | .inf _ => { of := true }
  | .fin _ m _ => let t := decide (m ≠ 0) && decide (m < 2 ^ f.mb); { tiny := t, uf := t }
  | .nan _ => {}

/-- The bound of R193 and R217: 2 ulp for FP32 and 1 ulp for BF16. -/
def Fmt.ulps (f : Fmt) : Nat := if f.mb = 7 then 1 else 2

/-- One of the results within the bound of an exact value in units of 2^-1300, as a free number chooses (log 9). -/
def Fmt.chosen (f : Fmt) (free : Nat) (v : Int) : Nat × FFlags :=
  let cs := f.within f.ulps v
  let r := cs.getD (free % cs.length) 0
  (r, f.approxFlags r)

/-- The functions of R193 that are not correctly rounded. -/
inductive FApprox where
  | exp | log | rcp | rsq | tanh
  deriving DecidableEq, Repr
def FApprox.code : FApprox → Nat
  | .exp => 0 | .log => 1 | .rcp => 2 | .rsq => 3 | .tanh => 4

/-- The exact value at ±m·2^e, in the domain of the function, in units of 2^-1300. -/
def FApprox.exact (o : FApprox) (neg : Bool) (m : Nat) (e : Int) : Int :=
  let x := fxOf neg m e
  let fine (v : Int) : Int := v * 2 ^ 532
  match o with
  | .exp => fine (fxExp x)
  | .log => fine (fxLn m e)
  | .rcp => fine (let r : Int := 2 ^ (768 - e).toNat / m; if neg then -r else r)
  | .rsq => fine (fxDiv fxOne (fxSqrt m e))
  | .tanh => fine (fxTanh x)

/-- A function of R193: its special operands as IEEE 754 gives them; of a finite operand any result within the bound, chosen by a
free number of the function and the operand, the same on every core (R193, log 9). -/
def Fmt.approxBy (f : Fmt) (free : Nat) (o : FApprox) (a : Nat) : Nat × FFlags :=
  let nan : Nat × FFlags := (f.cnan, { nv := true })
  let inf (n : Bool) : Nat := f.infBits + (if n then f.signBit else 0)
  match f.dec a with
  | .nan s => (f.cnan, { nv := s })
  | .inf n =>
    match o with
    | .exp => (if n then 0 else f.infBits, {})
    | .log => if n then nan else (f.infBits, {})
    | .rcp => (if n then f.signBit else 0, {})
    | .rsq => if n then nan else (0, {})
    | .tanh => f.chosen free (unitsOf n 1 0)
  | .fin n m e =>
    let r := f.chosen free (o.exact n m e)
    match o with
    | .exp | .tanh => r
    | .log => if m = 0 then (inf true, { dz := true }) else if n then nan else r
    | .rcp => if m = 0 then (inf n, { dz := true }) else r
    | .rsq => if m = 0 then (inf n, { dz := true }) else if n then nan else r

def Fmt.approx (f : Fmt) (o : FApprox) (a : Nat) : Nat × FFlags :=
  f.approxBy (Config.vfApprox (o.code + 16 * f.width) (BitVec.ofNat 32 a)).toNat o a

end Sys2Proof.Machine
end

