-- ==== Sys2Proof/Machine/Regs.lean ====
section
/-! DEFINITION. The register pages as tables: which blocks exist (spec 15 R444, R456), the registers of each with their
Access, Kept and Reset columns (R10, R13, R14, R16), and the store that holds them. -/

namespace Sys2Proof.Machine

/-- Access codes (R10). -/
inductive Acc where
  | ro | rw | wo | w1c | w1s
  deriving DecidableEq, Repr

/-- The strongest reset a register survives (R14). -/
inductive Kept where
  | cold | warm | die | core | none
  deriving DecidableEq, Repr

/-- How strong a reset is; a register survives a reset no stronger than its Kept level (R14). -/
def Kept.level : Kept → Nat
  | .none => 0 | .core => 1 | .die => 2 | .warm => 3 | .cold => 4

/-- One line of a register table: `n` registers, `stride` apart, from offset `off` on; `mask` has the bits a write
sets, the others being RO or reserved (R9, R11). -/
structure RegDesc where
  off : Nat
  acc : Acc
  kept : Kept
  reset : W32 := 0
  mask : W32 := 0xFFFFFFFF
  n : Nat := 1
  stride : Nat := 4
  deriving DecidableEq, Repr

/-- The kinds of block (R450, R456). -/
inductive Kind where
  | core | mesh | link | hub | svc | leaf | power | jasper | gddr | msc | port | transport | windows | peers | qps
  | cxl | cxlPort | boot | session | sequencer | flash | smapHead | smapBody | linkRate | softRepair | root | pfCtl
  | pfEntries
  deriving DecidableEq, Repr

/-- The kind of block `b` of die `d`; none where R456 assigns none (R445). -/
def kindOf (d b : Nat) : Option Kind :=
  if d < 40 ∧ b = 0x110 then some .svc
  else if d < 40 ∧ b = 0x111 then some .leaf
  else if d < 40 ∧ b = 0x112 then some .power
  else if d < 20 then
    if b < 256 then some .core else if b = 0x100 then some .mesh else if b = 0x101 then some .hub else none
  else if d < 40 ∧ b = 0x100 then some .link
  else if d < 36 then
    if b < 4 then some .jasper else if b = 0x10 then some .gddr else if b = 0x11 then some .msc
    else if b = 0x101 then some .hub else none
  else if d < 38 then
    if b < 4 then some .port else if b = 0x10 then some .transport else if b = 0x11 then some .windows
    else if b = 0x12 then some .peers else if b = 0x13 then some .qps else none
  else if d = 38 then
    if b < 2 then some .jasper else if b = 0x10 then some .cxl
    else if 0x20 ≤ b ∧ b < 0x24 then some .cxlPort else none
  else if d = 39 then
    if b = 0x10 then some .boot else if b = 0x11 then some .session else if b = 0x12 then some .sequencer
    else if b = 0x14 then some .flash else if b = 0x20 then some .smapHead
    else if (0x21 ≤ b ∧ b < 0x24) ∨ (0x40 ≤ b ∧ b < 0x54) then some .smapBody
    else if b = 0x24 ∨ b = 0x25 then some .linkRate else if b = 0x26 then some .softRepair
    else if b = 0x30 then some .root else if b = 0x32 then some .pfCtl
    else if 0x80 ≤ b ∧ b < 0xC0 then some .pfEntries else none
  else none

/-- Block type codes of BLK_ID (R450). -/
def Kind.code : Kind → Nat
  | .core => 0x01 | .mesh => 0x02 | .link => 0x02 | .hub => 0x03 | .svc => 0x04 | .leaf => 0x05 | .power => 0x06
  | .jasper => 0x10 | .gddr => 0x11 | .msc => 0x12 | .port => 0x20 | .transport => 0x21 | .windows => 0x22
  | .peers => 0x23 | .qps => 0x24 | .cxl => 0x30 | .cxlPort => 0x31 | .boot => 0x40 | .session => 0x41
  | .sequencer => 0x42 | .flash => 0x43 | .smapHead => 0x44 | .smapBody => 0x45 | .linkRate => 0x46
  | .softRepair => 0x47 | .root => 0x48 | .pfCtl => 0x49 | .pfEntries => 0x4A

/-- Blocks that support service changes (R402). -/
def Kind.can : Kind → Bool
  | .core | .jasper | .hub | .port | .cxlPort => true
  | _ => false

/-- The bits of BLK_EVT_EN that a block has: the block event, of a core site, a DMA hub and the site-map header, and the
service event where can is 1; the others are reserved (R9, R454). -/
def Kind.evtMask (k : Kind) : W32 :=
  (if k = .core ∨ k = .hub ∨ k = .smapHead then 0x10003 else 0x3) ||| (if k.can then 0x20000 else 0)

/-- Blocks whose BLK_INJ has targets (R432). -/
def Kind.inj : Kind → Bool
  | .core | .mesh | .msc | .gddr | .port | .cxlPort | .link => true
  | _ => false

/-- Blocks whose BLK_AUDIT has identities (R438). -/
def Kind.audit : Kind → Bool
  | .core | .jasper | .transport | .hub | .windows | .root | .leaf => true
  | _ => false

/-- The common header (R449). -/
def headerRegs : List RegDesc := [
  { off := 0x000, acc := .ro, kept := .cold },
  { off := 0x004, acc := .ro, kept := .cold },
  { off := 0x008, acc := .rw, kept := .core, mask := 0xFF00FFFF },
  { off := 0x00C, acc := .ro, kept := .core },
  { off := 0x010, acc := .w1c, kept := .core, mask := 0x00030003 },
  { off := 0x014, acc := .rw, kept := .core, mask := 0x00030003 },
  { off := 0x018, acc := .w1c, kept := .core, mask := 0x1FF },
  { off := 0x01C, acc := .rw, kept := .core },
  { off := 0x020, acc := .rw, kept := .core, mask := 0x80FF0FFF },
  { off := 0x024, acc := .rw, kept := .core, mask := 0x70 },
  { off := 0x028, acc := .rw, kept := .core },
  { off := 0x02C, acc := .rw, kept := .core, mask := 0xFFFFF }]

/-- A core site (R54, R133, R172, R200, R220, R292). -/
def coreRegs1 : List RegDesc := [
  { off := 0x040, acc := .rw, kept := .none, reset := 0xC0, mask := 0xE0 },
  { off := 0x060, acc := .ro, kept := .none, reset := 1 },
  { off := 0x064, acc := .rw, kept := .none, reset := 0x10000 },
  { off := 0x068, acc := .ro, kept := .none },
  { off := 0x06C, acc := .ro, kept := .none, n := 2 },
  { off := 0x074, acc := .rw, kept := .none, mask := 0x1FFF },
  { off := 0x078, acc := .ro, kept := .none },
  { off := 0x07C, acc := .rw, kept := .none, mask := 0x3FF },
  { off := 0x080, acc := .ro, kept := .none, n := 3 },
  { off := 0x090, acc := .rw, kept := .none, reset := 3, mask := 0x7FF },
  { off := 0x094, acc := .rw, kept := .none },
  { off := 0x098, acc := .ro, kept := .none, n := 2 },
  { off := 0x0A0, acc := .rw, kept := .none, n := 2 },
  { off := 0x0A8, acc := .ro, kept := .none, n := 2 },
  { off := 0x0B0, acc := .rw, kept := .none, mask := 7 },
  { off := 0x0B4, acc := .ro, kept := .none },
  { off := 0x0B8, acc := .rw, kept := .none, n := 2 },
  { off := 0x0C0, acc := .ro, kept := .none },
  { off := 0x0C4, acc := .rw, kept := .none },
  { off := 0x0D0, acc := .rw, kept := .die, reset := 0x000D0010 },
  { off := 0x0D4, acc := .ro, kept := .none },
  { off := 0x0D8, acc := .rw, kept := .die },
  { off := 0x0DC, acc := .rw, kept := .die, mask := 0xFFFF },
  { off := 0x0E0, acc := .rw, kept := .die, mask := 0x83FFFFFF, n := 8 },
  { off := 0x100, acc := .rw, kept := .die, mask := 0x1FFFFF, n := 4, stride := 32 }]

/-- A core site, from its ring controls on (R292, R313, R332, R415, R443). -/
def coreRegs2 : List RegDesc := [
  { off := 0x104, acc := .rw, kept := .die, reset := 0x04000000, mask := 0xFFE00FFF },
  { off := 0x124, acc := .rw, kept := .die, reset := 0x04400000, mask := 0xFFE00FFF },
  { off := 0x144, acc := .rw, kept := .die, reset := 0x04800000, mask := 0xFFE00FFF },
  { off := 0x164, acc := .rw, kept := .die, reset := 0x04C00000, mask := 0xFFE00FFF },
  { off := 0x108, acc := .ro, kept := .die, n := 4, stride := 32 },
  { off := 0x10C, acc := .ro, kept := .die, n := 4, stride := 32 },
  { off := 0x110, acc := .ro, kept := .die, n := 4, stride := 32 },
  { off := 0x114, acc := .ro, kept := .die, n := 4, stride := 32 },
  { off := 0x118, acc := .rw, kept := .die, n := 4, stride := 32 },
  { off := 0x180, acc := .rw, kept := .die, mask := 0x3F },
  { off := 0x184, acc := .ro, kept := .die },
  { off := 0x188, acc := .rw, kept := .die, n := 2 },
  { off := 0x190, acc := .rw, kept := .none, mask := 0x8000F19F },
  { off := 0x1A0, acc := .rw, kept := .none, mask := 0xF00 },
  { off := 0x1A4, acc := .wo, kept := .die },
  { off := 0x1A8, acc := .ro, kept := .die },
  { off := 0x1C0, acc := .rw, kept := .none, n := 8 },
  { off := 0x1E0, acc := .wo, kept := .none, n := 8 },
  { off := 0x200, acc := .rw, kept := .none, mask := 0xFFFE0000, n := 4, stride := 32 },
  { off := 0x204, acc := .rw, kept := .none, mask := 0x1FFFFF, n := 4, stride := 32 },
  { off := 0x208, acc := .ro, kept := .none, n := 4, stride := 32 },
  { off := 0x20C, acc := .ro, kept := .none, n := 4, stride := 32 },
  { off := 0x210, acc := .rw, kept := .none, n := 4, stride := 32 },
  { off := 0x214, acc := .rw, kept := .none, mask := 0xFF, n := 4, stride := 32 },
  { off := 0x218, acc := .ro, kept := .none, n := 4, stride := 32 },
  { off := 0x280, acc := .rw, kept := .core, reset := 0x001F0000, mask := 0xF01F0001 },
  { off := 0x284, acc := .ro, kept := .core },
  { off := 0x288, acc := .rw, kept := .core, reset := 0x1000 },
  { off := 0x28C, acc := .ro, kept := .core },
  { off := 0x290, acc := .wo, kept := .core },
  { off := 0x294, acc := .ro, kept := .core, n := 2 },
  { off := 0x29C, acc := .rw, kept := .core },
  { off := 0x2A0, acc := .wo, kept := .die }]

/-- The blocks every die has: die service, cadence leaf, die power and thermal (R458, R312, R416, R474). -/
def svcRegs : List RegDesc := [
  { off := 0x040, acc := .ro, kept := .die, n := 8 },
  { off := 0x060, acc := .ro, kept := .die, n := 2 }]
def leafRegs : List RegDesc := [
  { off := 0x040, acc := .wo, kept := .core },
  { off := 0x044, acc := .ro, kept := .core, n := 4 },
  { off := 0x054, acc := .rw, kept := .core }]
def powerRegs : List RegDesc := [
  { off := 0x040, acc := .rw, kept := .die, mask := 3 },
  { off := 0x044, acc := .ro, kept := .die },
  { off := 0x048, acc := .rw, kept := .die },
  { off := 0x080, acc := .rw, kept := .die, reset := 0x5F5A, mask := 0xFFFF },
  { off := 0x084, acc := .ro, kept := .die, n := 2 },
  { off := 0x08C, acc := .rw, kept := .die, mask := 0xFF },
  { off := 0x090, acc := .ro, kept := .die },
  { off := 0x094, acc := .rw, kept := .die }]
/-- The module registers of K0's die thermal block (R475). -/
def moduleRegs (v : Variant) : List RegDesc := [
  { off := 0x0C0, acc := .ro, kept := .cold, n := 3 },
  { off := 0x0CC, acc := .rw, kept := .warm, mask := 0xFFFF,
    reset := match v with | .uv48 => 3400 | .uv40 => 2900 },
  { off := 0x0D0, acc := .rw, kept := .cold, mask := 0xFFFF },
  { off := 0x0D4, acc := .ro, kept := .cold, n := 3 }]

/-- Die mesh and die link pages (R294, R443, R457), die DMA hub (R333, R443). -/
def meshRegs : List RegDesc := [
  { off := 0x040, acc := .rw, kept := .die, mask := 0xFF07 },
  { off := 0x044, acc := .rw, kept := .die, n := 2 },
  { off := 0x050, acc := .rw, kept := .die, reset := 0x10, mask := 0xFFFF }]
def linkRegs : List RegDesc := [{ off := 0x050, acc := .rw, kept := .die, reset := 0x10, mask := 0xFFFF }]
def hubRegs : List RegDesc := [
  { off := 0x040, acc := .rw, kept := .die, mask := 0x100 },
  { off := 0x044, acc := .ro, kept := .die },
  { off := 0x048, acc := .wo, kept := .die },
  { off := 0x080, acc := .rw, kept := .die, n := 16 },
  { off := 0x0C0, acc := .wo, kept := .die, n := 16 },
  { off := 0x200, acc := .rw, kept := .die, mask := 0xFFFF8000, n := 32, stride := 32 },
  { off := 0x204, acc := .rw, kept := .die, mask := 0x1FFFFF, n := 32, stride := 32 },
  { off := 0x208, acc := .rw, kept := .die, mask := 0xFFFF, n := 32, stride := 32 },
  { off := 0x20C, acc := .ro, kept := .die, n := 32, stride := 32 },
  { off := 0x210, acc := .ro, kept := .die, n := 32, stride := 32 },
  { off := 0x214, acc := .rw, kept := .die, n := 32, stride := 32 },
  { off := 0x218, acc := .rw, kept := .die, mask := 0xFF, n := 32, stride := 32 },
  { off := 0x21C, acc := .rw, kept := .die, reset := 0x80, mask := 0x1FFF, n := 32, stride := 32 }]

/-- Memory-side dies and X0 (R256–R260, R443). -/
def jasperRegs : List RegDesc := [
  { off := 0x040, acc := .rw, kept := .die, reset := 1, mask := 0x101 },
  { off := 0x044, acc := .ro, kept := .die },
  { off := 0x048, acc := .rw, kept := .die },
  { off := 0x04C, acc := .ro, kept := .die },
  { off := 0x050, acc := .rw, kept := .die },
  { off := 0x060, acc := .rw, kept := .die, mask := 0x83FFFFFF, n := 8 }]
def gddrRegs : List RegDesc := [
  { off := 0x040, acc := .rw, kept := .die, reset := 0x1000, mask := 0xFFFF },
  { off := 0x044, acc := .ro, kept := .die },
  { off := 0x048, acc := .rw, kept := .die, reset := 0x20, mask := 0x1FF },
  { off := 0x04C, acc := .ro, kept := .die },
  { off := 0x050, acc := .rw, kept := .die, n := 4 },
  { off := 0x060, acc := .rw, kept := .die, mask := 0x1FF }]
def mscRegs : List RegDesc := [
  { off := 0x040, acc := .rw, kept := .die, mask := 0x101 },
  { off := 0x044, acc := .ro, kept := .die },
  { off := 0x048, acc := .rw, kept := .die, n := 3 },
  { off := 0x054, acc := .ro, kept := .die }]
def cxlRegs : List RegDesc := [
  { off := 0x040, acc := .rw, kept := .die, mask := 0x101 },
  { off := 0x044, acc := .ro, kept := .die, n := 5 }]
def cxlPortRegs : List RegDesc := [
  { off := 0x040, acc := .ro, kept := .die },
  { off := 0x044, acc := .rw, kept := .die, n := 2 },
  { off := 0x04C, acc := .ro, kept := .die }]

/-- Network dies (R360–R364, R387). -/
def portRegs : List RegDesc := [
  { off := 0x040, acc := .rw, kept := .die, reset := 1, mask := 1 },
  { off := 0x044, acc := .ro, kept := .die },
  { off := 0x048, acc := .ro, kept := .cold, n := 2 },
  { off := 0x050, acc := .rw, kept := .die, n := 4 },
  { off := 0x060, acc := .rw, kept := .die, reset := 0x4000, mask := 0xFF01 },
  { off := 0x070, acc := .rw, kept := .die, n := 6 },
  { off := 0x0A0, acc := .rw, kept := .core, reset := 0x40, mask := 0xFF },
  { off := 0x0A4, acc := .ro, kept := .core, n := 3 },
  { off := 0x0C0, acc := .rw, kept := .core, mask := 0x3F },
  { off := 0x0C4, acc := .rw, kept := .core, mask := 0x80030000 },
  { off := 0x0C8, acc := .rw, kept := .core, n := 3 },
  { off := 0x0D4, acc := .ro, kept := .core, n := 2 },
  { off := 0x0E0, acc := .wo, kept := .core, n := 8 },
  { off := 0x100, acc := .wo, kept := .core, n := 3 }]
def transportRegs : List RegDesc := [
  { off := 0x040, acc := .rw, kept := .die, reset := 0x3240, mask := 0xFFFF },
  { off := 0x044, acc := .rw, kept := .die, reset := 0x00323701 },
  { off := 0x048, acc := .ro, kept := .die },
  { off := 0x04C, acc := .rw, kept := .die, n := 6 },
  { off := 0x064, acc := .ro, kept := .die }]
def windowRegs : List RegDesc := [
  { off := 0x040, acc := .rw, kept := .die, mask := 0x3FF },
  { off := 0x044, acc := .rw, kept := .die, mask := 0xFE3FFFFF },
  { off := 0x048, acc := .rw, kept := .die, mask := 0xFFFF3FFF },
  { off := 0x04C, acc := .rw, kept := .die },
  { off := 0x050, acc := .rw, kept := .die, mask := 0xFFFF },
  { off := 0x054, acc := .rw, kept := .die },
  { off := 0x058, acc := .rw, kept := .die, mask := 0xFF000000 },
  { off := 0x05C, acc := .rw, kept := .die },
  { off := 0x060, acc := .ro, kept := .die },
  { off := 0x064, acc := .rw, kept := .die }]
def peerRegs : List RegDesc := [
  { off := 0x040, acc := .rw, kept := .die, mask := 0x3FFF },
  { off := 0x044, acc := .rw, kept := .die, mask := 0xCFFFFFFF },
  { off := 0x048, acc := .rw, kept := .die, n := 5 }]
def qpRegs : List RegDesc := [
  { off := 0x040, acc := .rw, kept := .die, mask := 0x7FF },
  { off := 0x044, acc := .wo, kept := .die },
  { off := 0x048, acc := .rw, kept := .die, mask := 0x30003FFF },
  { off := 0x04C, acc := .rw, kept := .die, mask := 0xFFFFFF, n := 3 },
  { off := 0x058, acc := .rw, kept := .die, mask := 0xFFFFFFE0 },
  { off := 0x05C, acc := .rw, kept := .die, mask := 0xFFFF0003 },
  { off := 0x060, acc := .rw, kept := .die }]

/-- K0 (R43, R311, R385, R386, R392, R399, R417, R440, R442, R459). -/
def bootRegs : List RegDesc := [
  { off := 0x040, acc := .ro, kept := .die, reset := 0x01000000 },
  { off := 0x044, acc := .ro, kept := .cold, n := 2 },
  { off := 0x050, acc := .ro, kept := .cold, n := 4 },
  { off := 0x080, acc := .wo, kept := .die, n := 16 },
  { off := 0x0C0, acc := .wo, kept := .die, mask := 1 },
  { off := 0x100, acc := .ro, kept := .die, n := 128 }]
def sessionRegs : List RegDesc := [
  { off := 0x040, acc := .ro, kept := .die },
  { off := 0x044, acc := .rw, kept := .die, mask := 1 },
  { off := 0x048, acc := .ro, kept := .die },
  { off := 0x04C, acc := .rw, kept := .die, n := 3 }]
def sequencerRegs : List RegDesc := [
  { off := 0x040, acc := .ro, kept := .die, reset := 0x0200001F },
  { off := 0x044, acc := .wo, kept := .die },
  { off := 0x048, acc := .ro, kept := .cold },
  { off := 0x04C, acc := .rw, kept := .die, mask := 1 },
  { off := 0x050, acc := .ro, kept := .die },
  { off := 0x054, acc := .rw, kept := .die },
  { off := 0x058, acc := .rw, kept := .warm, reset := 0x0D0F, mask := 0xFFFF },
  { off := 0x05C, acc := .ro, kept := .die },
  { off := 0x060, acc := .ro, kept := .warm }]
def flashRegs : List RegDesc := [
  { off := 0x040, acc := .rw, kept := .die, mask := 0x3FFFFFF },
  { off := 0x044, acc := .wo, kept := .die },
  { off := 0x048, acc := .ro, kept := .die },
  { off := 0x100, acc := .rw, kept := .die, n := 64 }]
def smapHeadRegs : List RegDesc := [
  { off := 0x040, acc := .ro, kept := .warm, reset := 1 },
  { off := 0x044, acc := .ro, kept := .cold },
  { off := 0x048, acc := .ro, kept := .die, reset := 1 },
  { off := 0x04C, acc := .ro, kept := .die },
  { off := 0x050, acc := .ro, kept := .warm, n := 3 },
  { off := 0x060, acc := .ro, kept := .warm, n := 4 }]
def rootRegs : List RegDesc := [
  { off := 0x040, acc := .rw, kept := .die, mask := 0xE01FFFFF },
  { off := 0x044, acc := .ro, kept := .die, n := 3 },
  { off := 0x050, acc := .rw, kept := .die, reset := 0x190, mask := 0xFFFF },
  { off := 0x054, acc := .ro, kept := .die, n := 2 },
  { off := 0x05C, acc := .wo, kept := .die },
  { off := 0x060, acc := .rw, kept := .die }]
def pfCtlRegs : List RegDesc := [
  { off := 0x040, acc := .rw, kept := .die, mask := 3 },
  { off := 0x044, acc := .ro, kept := .cold, n := 2 },
  { off := 0x04C, acc := .rw, kept := .cold },
  { off := 0x050, acc := .ro, kept := .cold, n := 2 }]

/-- The words of a body page of the site map: block 0x023 holds units, 0x021 and 0x022 link slots, the others the sites of a
die (R45, R46). -/
def smapBodyRegs (b : Nat) : List RegDesc :=
  if b = 0x023 then
    [{ off := 0x100, acc := .ro, kept := .warm, n := 64 }, { off := 0x200, acc := .ro, kept := .warm, n := 66 },
     { off := 0x400, acc := .ro, kept := .warm, n := 12 }, { off := 0x500, acc := .ro, kept := .warm, n := 16 }]
  else if b < 0x023 then [{ off := 0x100, acc := .ro, kept := .warm, n := 640 }]
  else [{ off := 0x040, acc := .ro, kept := .warm, n := 4 }, { off := 0x100, acc := .ro, kept := .warm, n := 256 }]

/-- The own registers of block `b` of a kind; the tables that hold only RO words (error rates, soft repair, record entries) are
one RO range each. -/
def Kind.regs (v : Variant) (b : Nat) : Kind → List RegDesc
  | .core => coreRegs1 ++ coreRegs2 | .mesh => meshRegs | .link => linkRegs | .hub => hubRegs | .svc => svcRegs
  | .leaf => leafRegs | .power => powerRegs ++ moduleRegs v | .jasper => jasperRegs | .gddr => gddrRegs
  | .msc => mscRegs | .port => portRegs | .transport => transportRegs | .windows => windowRegs | .peers => peerRegs
  | .qps => qpRegs | .cxl => cxlRegs | .cxlPort => cxlPortRegs | .boot => bootRegs | .session => sessionRegs
  | .sequencer => sequencerRegs | .flash => flashRegs | .smapHead => smapHeadRegs
  | .smapBody => smapBodyRegs b
  | .linkRate => [{ off := 0x100, acc := .ro, kept := .warm, n := 640 }]
  | .softRepair => [{ off := 0x100, acc := .ro, kept := .warm, n := 960 }]
  | .root => rootRegs | .pfCtl => pfCtlRegs
  | .pfEntries => [{ off := 0x800, acc := .ro, kept := .cold, n := 512 }]

/-- Whether a table line covers offset `o`. -/
def RegDesc.at (r : RegDesc) (o : Nat) : Bool :=
  decide (r.off ≤ o) && decide ((o - r.off) % r.stride = 0) && decide ((o - r.off) / r.stride < r.n)

/-- The module registers of R475 exist on K0 alone. -/
def moduleOnly (d o : Nat) (k : Kind) : Bool := k == .power && decide (0x0C0 ≤ o) && d != 39

/-- The register at offset `o` of block `b` of die `d`; none where it is reserved or the page unassigned. -/
def regAt (v : Variant) (d b o : Nat) : Option RegDesc :=
  match kindOf d b with
  | none => none
  | some k => if moduleOnly d o k then none else (headerRegs ++ k.regs v b).find? fun r => r.at o

/-- The key of a page register in `Hw.regs`. -/
def regKey (d b o : Nat) : Nat := d * 2 ^ 24 + b * 2 ^ 12 + o

/-- The value a stored page register holds: its entry, or its Reset value where none is listed (R16). -/
def Hw.pg (h : Hw) (d b o : Nat) : W32 :=
  match look h.regs (regKey d b o) with
  | some v => v
  | none => match regAt h.variant d b o with | some r => r.reset | none => 0

/-- A page register set, without any effect a write has. -/
def Hw.setPg (h : Hw) (d b o : Nat) (v : W32) : Hw := { h with regs := put h.regs (regKey d b o) v }

/-- A page register changed by `f`. -/
def Hw.updPg (h : Hw) (d b o : Nat) (f : W32 → W32) : Hw := h.setPg d b o (f (h.pg d b o))

/-- The Kept level of the register with a given key; a word of no table is kept by no reset. -/
def keptOf (v : Variant) (key : Nat) : Kept :=
  match regAt v (key / 2 ^ 24) (key / 2 ^ 12 % 2 ^ 12) (key % 2 ^ 12) with
  | some r => r.kept
  | none => .none

/-- The registers among `p` that do not survive a reset of level `lvl` return to their Reset values (R14, R16). -/
def Hw.resetRegs (h : Hw) (lvl : Nat) (p : Nat → Nat → Bool) : Hw :=
  { h with regs := h.regs.filter fun kv =>
      !(p (kv.1 / 2 ^ 24) (kv.1 / 2 ^ 12 % 2 ^ 12) && decide ((keptOf h.variant kv.1).level < lvl)) }

end Sys2Proof.Machine
end

