-- ==== Sys2Proof/Machine/Links.lean ====
section
/-! DEFINITION. The links of the package: far ends, twins and partners of link slots, and CRC failures (spec 01 R20–R28, R46;
spec 14 R424). -/

namespace Sys2Proof.Machine

/-! ### The global space (R221–R223, R444) -/

/-- Base of the CXL tier, and base and end of the register region (spec 00 "Addresses", R153). -/
def cxlBase : Nat := 0x100000000000
def regBase : Nat := 0xF00000000000
def regTop : Nat := 0xF00028000000

/-- Home die and die offset of a GDDR7 address (R223). -/
def homeOf (v : Variant) (a : Nat) : Nat × Nat :=
  let c := a / 2 ^ 21
  match v with
  | .uv48 => (c % 16, c / 16 * 2 ^ 21 + a % 2 ^ 21)
  | .uv40 => ([0, 1, 3, 4, 5, 7, 8, 9, 11, 12, 13, 15].getD (c % 12) 0, c / 12 * 2 ^ 21 + a % 2 ^ 21)

/-- Die, block and offset of an address of the register region (R444). -/
def pageOf (a : Nat) : Nat × Nat × Nat := ((a - regBase) / 2 ^ 24, (a - regBase) / 2 ^ 12 % 2 ^ 12, a % 2 ^ 12)

/-! ### Links (R20, R21, R46) -/

/-- The far end of link slot `n` = 16d + 4e + p: die, edge and position or link number; none where no link is. -/
def linkPeer (n : Nat) : Option (Nat × Nat × Nat) :=
  let d := n / 16
  let e := n / 4 % 4
  let p := n % 4
  let r := d / 5
  let k := d % 5
  let out (m : Nat) : Option (Nat × Nat × Nat) := if p = 1 ∨ p = 2 then some (m, 0, p - 1) else none
  match e with
  | 0 => if 0 < r then some (d - 5, 2, p) else if d = 0 ∧ p = 0 then some (38, 0, 0) else out (20 + k)
  | 1 => if k < 4 then some (d + 1, 3, p) else if d = 19 ∧ p = 3 then some (39, 0, 1)
    else out ([25, 26, 37, 27].getD r 0)
  | 2 => if r < 3 then some (d + 5, 0, p) else if d = 19 ∧ p = 3 then some (39, 0, 0) else out (32 - k)
  | _ => if 0 < k then some (d - 1, 1, p) else if d = 0 ∧ p = 0 then some (38, 0, 1) else out ([35, 36, 34, 33].getD r 0)

/-- The other slot in which a link between compute dies appears. -/
def linkTwin (n : Nat) : Option Nat :=
  match linkPeer n with
  | some (d, e, p) => if d < 20 then some (16 * d + 4 * e + p) else none
  | none => none

/-- The slot under which a link is kept: the lower of its two. -/
def linkKey (n : Nat) : Nat := match linkTwin n with | some m => Nat.min n m | none => n

/-- The slot of the partner link (R28). -/
def linkPartner (n : Nat) : Option Nat :=
  match linkPeer n with
  | none => none
  | some (d, _, _) =>
    if d < 20 then some (n / 2 * 2 + (1 - n % 2))
    else if d = 38 then some (12 - n)
    else if d = 39 then some (if n = 16 * 19 + 7 then 16 * 19 + 11 else 16 * 19 + 7)
    else some (n / 4 * 4 + (3 - n % 4))

def Hw.link (h : Hw) (n : Nat) : Link := lookD h.links (linkKey n) {}
def Hw.updLink (h : Hw) (n : Nat) (f : Link → Link) : Hw := { h with links := put h.links (linkKey n) (f (h.link n)) }

/-- Both links of a slot's partner pair are DEAD: traffic that depends on the pair is held (R29). -/
def Hw.linkDown (h : Hw) (n : Nat) : Bool :=
  (h.link n).dead && match linkPartner n with | some m => (h.link m).dead | none => true

/-- The link that carries the traffic of slot `n`: the partner of a DEAD one (R28). -/
def Hw.carrier (h : Hw) (n : Nat) : Nat :=
  match linkPartner n with
  | some m => if (h.link n).dead && !(h.link m).dead then m else n
  | none => n

/-- A flit fails its CRC and is replayed; the lanes whose parity failed are counted (R419, R424). -/
def Hw.crcFailure (h : Hw) (n : Nat) (lanes : List Nat) : Hw :=
  h.updLink n fun l =>
    { l with replays := satAdd 32 l.replays 1
             laneErrs := lanes.foldl (fun t i => upd t i 0 fun v => v + 1) l.laneErrs }

end Sys2Proof.Machine
end

