-- ==== Sys2Proof/Machine/Words.lean ====
section
/-! DEFINITION. The encodings that no instruction has (spec 02 R66–R68, R70–R75, R80, R83; spec 04 R148, R159; spec 05 R173,
R181, R187, R192–R196; spec 06 R204, R207, R216; spec 08 R275; spec 10 R325).

The rest of an instruction's word comes with its command (log 14). -/

namespace Sys2Proof.Machine

/-- The fields of R66 that pick an instruction: the major opcode, fn of the R format, and fn5 of the S format. -/
def opField (w : W32) : Nat := fld w 31 26
def fnField (w : W32) : Nat := fld w 10 0
def fn5Field (w : W32) : Nat := fld w 15 11

/-- Whether the fn, fn5, sel or size of a word of an assigned major opcode is assigned. -/
def codeAssigned (w : W32) : Bool :=
  let fn := fnField w
  let low := fld w 4 0
  match opField w with
  | 0x01 => decide (fn ≤ 8) || [0x10, 0x11, 0x12, 0x13, 0x18, 0x19, 0x1A, 0x1B, 0x1C, 0x1D, 0x20, 0x21, 0x22, 0x23, 0x28, 0x29, 0x2A].contains fn
  | 0x02 => decide (fn ≤ 0x00A) || [0x0C, 0x0D, 0x10, 0x11].contains fn
  | 0x03 => decide (fn ≤ 5)
  | 0x04 => decide (fn ≤ 5)
  | 0x05 => decide (fn5Field w ≤ 22)
  | 0x06 => decide (fn ≤ 6)
  | 0x12 => decide (fld w 15 13 ≠ 7)
  | 0x13 => decide (fld w 15 13 ≠ 7)
  | 0x20 => decide (low ≤ 18) && low != 15
  | 0x21 => decide (low ≤ 18) && low != 15
  | 0x23 => decide (fn ≤ 7)
  | 0x24 => decide (fn ≤ 3)
  | 0x25 => decide (low ≤ 6)
  | 0x26 => decide (fld w 25 24 ≠ 3) && decide (low ≤ 1)
  | 0x27 => decide (low ≤ 8)
  | 0x28 => decide (fld w 25 24 % 2 = 0) && low == 0
  | 0x29 => decide (fn ≤ 2)
  | 0x2A => decide (low ≤ 4)
  | 0x2B => decide (low ≤ 2)
  | 0x30 => decide (fn ≤ 5) || [8, 9, 10].contains fn
  | 0x31 => decide (fn ≤ 5) || (decide (0x10 ≤ fn) && decide (fn ≤ 0x15))
  | 0x32 => decide (fn ≤ 2)
  | 0x3E => decide (fld w 20 16 ≤ 5)
  | _ => true

/-- A major opcode that some group has (R67, R173). -/
def opAssigned (op : Nat) : Bool :=
  (decide (1 ≤ op) && decide (op ≤ 0x15) && op != 0x0F) || (decide (0x18 ≤ op) && decide (op ≤ 0x2B)) ||
    [0x30, 0x31, 0x32, 0x3E].contains op

/-- The ILLEGAL reason of a word that is no instruction's encoding: 0 for the major opcode, 1 for its fn, fn5, sel or size code
(R68, R114). -/
def wordIllegal (w : W32) : Option Nat :=
  if opAssigned (opField w) = false then some 0
  else if codeAssigned w = false then some 1 else none

/-- A word that is a REP prefix (R66, R88). -/
def isPrefix (w : W32) : Bool := opField w == 0x07

end Sys2Proof.Machine
end

