-- ==== Sys2Proof/Machine/Ops.lean ====
section
/-! DEFINITION. The named operations over the hardware: cores, threads and registers, events and errors of a block, the
photo-finish record, local memory with its tags, taking an exception (spec 03 R116) and issuing an instruction. -/

namespace Sys2Proof.Machine

/-! ### Cores and threads -/

/-- A thread as CORE reset leaves it: thread 0 always exists, the pool is FREE (R94, R97, THREAD_STATE's reset). -/
def Thread.reset (t : Tid) : Thread := if t = 0 then { state := .run } else {}

def Hw.core (h : Hw) (c : Nat) : Core := lookD h.cores c {}
def Hw.setCore (h : Hw) (c : Nat) (k : Core) : Hw := { h with cores := put h.cores c k }
def Hw.updC (h : Hw) (c : Nat) (f : Core → Core) : Hw := h.setCore c (f (h.core c))
def Core.thr (k : Core) (t : Tid) : Thread := lookD k.threads t.val (Thread.reset t)
def Core.setT (k : Core) (t : Tid) (x : Thread) : Core := { k with threads := put k.threads t.val x }
def Core.updT (k : Core) (t : Tid) (f : Thread → Thread) : Core := k.setT t (f (k.thr t))
def Hw.thr (h : Hw) (c : CoreId) (t : Tid) : Thread := (h.core c.val).thr t
def Hw.updT (h : Hw) (c : CoreId) (t : Tid) (f : Thread → Thread) : Hw := h.updC c.val fun k => k.updT t f

/-- The threads in the order of their numbers. -/
def tids : List Tid := [0, 1, 2, 3]

/-- Die index and site of a core ID. -/
def dieOf (c : Nat) : Nat := c / 256
def siteIx (c : Nat) : Nat := c % 256

/-- A register of the core site's page (R461). -/
def Hw.cpg (h : Hw) (c : Nat) (o : Nat) : W32 := h.pg (dieOf c) (siteIx c) o
def Hw.setCpg (h : Hw) (c : Nat) (o : Nat) (v : W32) : Hw := h.setPg (dieOf c) (siteIx c) o v
def Hw.updCpg (h : Hw) (c : Nat) (o : Nat) (f : W32 → W32) : Hw := h.updPg (dieOf c) (siteIx c) o f

def Hw.die (h : Hw) (d : Nat) : Die := lookD h.dies d {}
def Hw.updDie (h : Hw) (d : Nat) (f : Die → Die) : Hw := { h with dies := upd h.dies d {} f }
def Hw.mem (h : Hw) (m : Nat) : MemDie := lookD h.mems m {}
def Hw.updMem (h : Hw) (m : Nat) (f : MemDie → MemDie) : Hw := { h with mems := upd h.mems m {} f }
def Hw.net (h : Hw) (d : Nat) : NetDie := lookD h.nets d {}
def Hw.updNet (h : Hw) (d : Nat) (f : NetDie → NetDie) : Hw := { h with nets := upd h.nets d {} f }
def Hw.updK (h : Hw) (f : K0 → K0) : Hw := { h with k0 := f h.k0 }

/-- A free value of the run: the counter moves on (log 6). -/
def Hw.free64 (h : Hw) : BitVec 64 × Hw := (Config.free h.free, { h with free := h.free + 1 })
/-- A free choice among `n` outcomes, 0 to n − 1 (log 6). -/
def Hw.choose (h : Hw) (n : Nat) : Nat × Hw := (Config.pick h.free % n, { h with free := h.free + 1 })

/-- Core IDs that name a compute-die site (R22). -/
def isSite (c : Nat) : Bool := decide (c < 5120)

/-- `n` picks out of `l`, none twice. -/
def pickSites (d : Nat) : Nat → List Nat → List Nat
  | 0, _ => []
  | n + 1, l =>
    let i := Config.fusedPick d n % l.length
    l.getD i 0 :: pickSites d n (l.eraseIdx i)

/-- The 40 sites of compute die `d` that a UV40 fuses (R36): any 40 (log 5). -/
def fusedSites (d : Nat) : List Nat := pickSites d 40 (List.range 256)

/-- What K0 knows of a site; a UV40 fuses 40 sites of each die (R36). -/
def Hw.site (h : Hw) (c : Nat) : Site :=
  lookD h.sites c
    { st := if h.variant = .uv40 ∧ (fusedSites (dieOf c)).contains (siteIx c) = true then .fused else .active }

/-- Memory-side dies a UV40 fuses (R36). -/
def fusedMem (m : Nat) : Bool := m == 2 || m == 6 || m == 10 || m == 14

/-- A die that a UV40 fuses (R36): it has no cadence leaf (R295). -/
def Hw.fusedDie (h : Hw) (d : Nat) : Bool := h.variant == .uv40 && decide (20 ≤ d) && decide (d < 36) && fusedMem (d - 20)

/-- A unit of block 0x023 by its offset (R46) is FUSED on this part (R36). -/
def Hw.unitFused (h : Hw) (o : Nat) : Bool :=
  h.variant == .uv40 &&
    (if o < 0x200 then fusedMem ((o - 0x100) / 16)
     else if o < 0x400 then decide ((o - 0x200) / 4 < 64) && fusedMem ((o - 0x200) / 16)
     else if o < 0x500 then o == 0x40C || o == 0x41C else fusedMem ((o - 0x500) / 4))

/-- A unit of block 0x023 is DEAD. -/
def Hw.unitDead (h : Hw) (o : Nat) : Bool := (lookD h.units o {}).dead

/-- Whether block `b` of die `d` belongs to a FUSED unit, whose page reads 0 (R36, R445). -/
def Hw.fused (h : Hw) (d b : Nat) : Bool :=
  if d < 20 then decide (b < 256) && decide ((h.site (d * 256 + b)).st = .fused)
  else if d < 36 then h.variant == .uv40 && fusedMem (d - 20)
  else h.variant == .uv40 && decide (d < 38) && b == 3

/-- Whether the unit of a page is DEAD (R453). -/
def Hw.dead (h : Hw) (d b : Nat) : Bool :=
  if d < 20 then decide (b < 256) && decide ((h.site (d * 256 + b)).st = .dead)
  else if d < 36 then decide (b < 4) && h.unitDead (0x200 + 4 * (4 * (d - 20) + b))
  else if d < 38 then decide (b < 4) && h.unitDead (0x400 + 4 * (4 * (d - 36) + b))
  else d == 38 && (decide (b < 2) && h.unitDead (0x300 + 4 * b) ||
    decide (0x20 ≤ b) && decide (b < 0x24) && h.unitDead (0x420 + 4 * (b - 0x20)))

/-- Service state of a block (R400): 0 IN_SERVICE, 1 DRAINING, 2 OUT, 3 READMIT_PENDING; DEAD units read OUT. -/
def Hw.svc (h : Hw) (d b : Nat) : Nat := if h.dead d b then 2 else fld (h.pg d b 0x024) 2 0

/-- A core whose threads run: IN_SERVICE or DRAINING (R402). -/
def Hw.mayRun (h : Hw) (c : Nat) : Bool := decide ((h.site c).st = .active ∨ (h.site c).st = .spare) &&
  decide (h.svc (dieOf c) (siteIx c) ≤ 1)

/-- A core takes traffic of every class (R287). -/
def Hw.inService (h : Hw) (c : Nat) : Bool := decide ((h.site c).st = .active ∨ (h.site c).st = .spare) &&
  decide (h.svc (dieOf c) (siteIx c) = 0)

/-- Destinations with no endpoint, or at a DEAD or FUSED site (R24, R266). -/
def Hw.goneSite (h : Hw) (c : Nat) : Bool := decide ((h.site c).st = .dead ∨ (h.site c).st = .fused)

/-- A die that is neither asleep nor off (R410, R411). -/
def Hw.awake (h : Hw) (d : Nat) : Bool := decide ((h.die d).sleep = .run)

/-- The sequencer's state (R417): 0 BRINGUP, 1 READY, 2 FAILED, 3 RECOVERY, 4 STANDBY. -/
def Hw.seqSt (h : Hw) : Nat := fld (h.pg 39 0x012 0x040) 31 28

/-- A page that reads 0 and ignores writes: of a FUSED unit (R445), of another die than K0 in RECOVERY (R371), and of a die that
did not complete step 4 in FAILED (R390). -/
def Hw.shut (h : Hw) (d b : Nat) : Bool :=
  h.fused d b || (d != 39 && (h.seqSt == 3 || h.seqSt == 2 && h.k0.late.any fun x => x.val == d))

/-- A page write is performed: none on a page that is shut; one to a sleeping die is held until it wakes (R446). -/
def Hw.onPage (h : Hw) (d b : Nat) (f : Hw → Hw) : Hw := if h.shut d b || !h.awake d then h else f h

/-- The registers Kept NONE of a core page hold their Reset values and ignore writes: in RETAIN (R409), and while the island is
held in CORE reset (R403; log 111). -/
def Hw.noneHeld (h : Hw) (c : Nat) : Bool := let p := fld (h.cpg c 0x284) 2 0; p == 2 || p == 5

/-- A write of a register Kept NONE of a core page. -/
def Hw.onCore (h : Hw) (c : Nat) (f : Hw → Hw) : Hw :=
  h.onPage (dieOf c) (siteIx c) fun h => if h.noneHeld c then h else f h

/-! ### Packets, events and errors -/

/-- Flits of a packet: one per granule of a message, one for any other (R261, R265). -/
def Pkt.flits (p : Pkt) : Nat := match p.body with | .message m => m.n | _ => 1

/-- Global row and column of the router a unit's traffic uses: its own for a site; for another die the edge router of
its link (R20–R22, R26, R481), for a network die the egress row of `port` (R32, R482), with the output that leaves the grid
there. -/
def meshPoint (id : Nat) (port : Nat := 0) : Nat × Nat × Nat :=
  let d := id / 256 % 64
  let s := if id / 16384 = 1 ∨ id / 16384 = 2 then 0x77 else id % 256
  if d < 20 then (16 * (d / 5) + s / 16, 16 * (d % 5) + s % 16, 4)
  else if d < 25 then (0, 16 * (d - 20) + 4, 0)
  else if d < 27 then (16 * (d - 25) + 4, 79, 1)
  else if d = 27 then (52, 79, 1)
  else if d < 33 then (63, 16 * (32 - d) + 4, 2)
  else if d = 33 then (52, 0, 3)
  else if d = 34 then (36, 0, 3)
  else if d = 35 then (4, 0, 3)
  else if d = 36 then (20 + 2 * port, 0, 3)
  else if d = 37 then (36 + 2 * port, 79, 1)
  else if d = 38 then (0, 0, 0)
  else (63, 76, 2)

/-- The router outputs of a route in dimension order, X then Y (R26): (row, column, port), last the way out. -/
def routeOf : Nat → Nat × Nat → Nat × Nat → Nat → List (Nat × Nat × Nat)
  | 0, _, _, _ => []
  | n + 1, (r, c), (r2, c2), out =>
    if c < c2 then (r, c, 1) :: routeOf n (r, c + 1) (r2, c2) out
    else if c2 < c then (r, c, 3) :: routeOf n (r, c - 1) (r2, c2) out
    else if r < r2 then (r, c, 2) :: routeOf n (r + 1, c) (r2, c2) out
    else if r2 < r then (r, c, 0) :: routeOf n (r - 1, c) (r2, c2) out
    else [(r, c, out)]

/-- `n` more flits sent on one router output (R294). -/
def Hw.countFlits (h : Hw) (n : Nat) (p : Nat × Nat × Nat) : Hw :=
  let d := 5 * (p.1 / 16) + p.2.1 / 16
  let s := 16 * (p.1 % 16) + p.2.1 % 16
  h.updDie d fun x => { x with flits := upd x.flits (s * 8 + p.2.2) 0 fun v => v + BitVec.ofNat 32 n }

/-- Where the packets of a source enter the mesh: those of a network die on the ingress row of `port` (R32, R482), any other at
its mesh point. -/
def meshEntry (id : Nat) (port : Nat := 0) : Nat × Nat :=
  if id / 256 % 64 = 36 then (21 + 2 * port, 0) else if id / 256 % 64 = 37 then (37 + 2 * port, 79)
  else ((meshPoint id).1, (meshPoint id).2.1)

/-- A packet is on its way behind every earlier one; the routers of its route count its flits (R263, R294). -/
def Hw.sendRaw (h : Hw) (route : List (Nat × Nat × Nat)) (p : Pkt) : Hw :=
  let h := route.foldl (fun h x => h.countFlits p.flits x) h
  { h with flight := h.flight ++ [p] }

/-- The route of a packet. -/
def Pkt.route (p : Pkt) : List (Nat × Nat × Nat) :=
  let b := meshPoint p.dest.toNat p.port
  routeOf 160 (meshEntry p.src.toNat p.port) (b.1, b.2.1) b.2.2

/-- The src of a message that block `b` of die `d` sends (R481): a core site's own core ID, else the block's name. -/
def srcOf (d b : Nat) : BitVec 16 :=
  BitVec.ofNat 16 (if d < 20 ∧ b < 256 then d * 256 + b
    else (if b < 0x100 then 0x4000 else 0x8000) + d * 256 + b % 256)

/-- Bit `i` of BLK_EVT is set; a rise sends the EVENT of BLK_CTL when enabled (R452, R454). -/
def Hw.blkEvt (h : Hw) (d b i : Nat) : Hw :=
  if (h.pg d b 0x010).getLsbD i then h
  else
    let h := h.updPg d b 0x010 fun v => setBit v i true
    let ctl := h.pg d b 0x008
    if (h.pg d b 0x014).getLsbD i && ctl.getLsbD 31 then
      let t : Tid := ⟨fld ctl 30 29 % 4, Nat.mod_lt _ (by decide)⟩
      let bit : Fin 32 := ⟨fld ctl 28 24 % 32, Nat.mod_lt _ (by decide)⟩
      let e : Pkt := { q := .msg, src := srcOf d b, dest := ctl.setWidth 16, body := .event t bit }
      h.sendRaw e.route e
    else h

/-- Bit `i` of BLK_ERR is set; a rise sets BLK_EVT.err (R431, R454). -/
def Hw.blkErr (h : Hw) (d b i : Nat) : Hw :=
  let old := (h.pg d b 0x018).getLsbD i
  let h := h.updPg d b 0x018 fun v => setBit v i true
  if old then h else h.blkEvt d b 0

/-- One more corrected error: BLK_ERR.ce and BLK_ERR_CNT.corr (R422). -/
def Hw.corrected (h : Hw) (d b : Nat) : Hw :=
  (h.blkErr d b 1).updPg d b 0x01C fun v => setFld v 15 0 (Nat.min (fld v 15 0 + 1) 65535)

/-- One more uncorrectable, parity, poison or discard event of class `i` (R431). -/
def Hw.errCount (h : Hw) (d b i : Nat) : Hw :=
  (h.blkErr d b i).updPg d b 0x01C fun v => setFld v 31 16 (Nat.min (fld v 31 16 + 1) 65535)

/-- An access error of the page (R11, R453). -/
def Hw.accErr (h : Hw) (d b o reason : Nat) : Hw :=
  (h.updPg d b 0x00C fun v => setFld (setFld v 27 24 reason) 11 0 o).blkErr d b 0

/-- A discarded message, request or record of die `d` (R24, R285, R287, R458); `addr` and `info` are the DISC_LAST
words of a message. -/
def Hw.discard (h : Hw) (d : Nat) (last : Option (W32 × W32)) : Hw :=
  let h := h.errCount d 0x110 7
  match last with
  | none => h
  | some (a, i) => (h.setPg d 0x110 0x060 a).setPg d 0x110 0x064 i

/-- Microseconds since POWER (R18, R442). -/
def Hw.us (h : Hw) : Nat := h.now / 12000

/-- An event reaches K0 and becomes an entry of the photo-finish record (R439–R441); a frozen record counts it in
PF_MISSED. -/
def Hw.pf (h : Hw) (code d b : Nat) (d0 d1 : W32) : Hw :=
  if (h.pg 39 0x032 0x040).getLsbD 0 then h.updPg 39 0x032 0x04C fun v => satAdd 32 v 1
  else h.updK fun k =>
    { k with pfTotal := k.pfTotal + 1
             pf := put k.pf (k.pfTotal.toNat % 4096)
               { seq := k.pfTotal, code := BitVec.ofNat 8 code, die := BitVec.ofNat 6 d, block := BitVec.ofNat 12 b
                 boot := h.pg 39 0x010 0x048, beat := k.rootCount.setWidth 32, time := BitVec.ofNat 64 h.us
                 data0 := d0, data1 := d1 } }

/-- A pending event bit of a thread is set (R107); an event of a FREE or EXITED thread is kept (R101). -/
def Hw.setEv (h : Hw) (c : CoreId) (t : Tid) (b : Nat) : Hw :=
  h.updT c t fun x =>
    let m := BitVec.ofNat 32 (2 ^ b)
    { x with evPend := x.evPend ||| m, beatEv := x.beatEv &&& ~~~m }

/-- State of PWR_STAT: 0 RUN, 1 PARK, 2 RETAIN, 3 ENTERING, 4 WAKING, 5 HELD (R415). -/
def Hw.pwr (h : Hw) (c : Nat) : Nat := fld (h.cpg c 0x284) 2 0
def Hw.setPwr (h : Hw) (c n : Nat) : Hw := h.updCpg c 0x284 fun v => setFld v 2 0 n

/-- A wake source strikes a core whose PWR_STAT.state is `st` (R408, R409); one for RETAIN counts from the request on (R413). -/
def Hw.wakeBy (h : Hw) (c : Nat) (st : Nat) (src : BitVec 3) : Hw :=
  if h.pwr c = st ∨ (st = 2 ∧ h.pwr c = 3) then h.updC c fun k => { k with wakeSrc := src } else h

/-- The core's cadence count, that of its die (R53). -/
def Hw.cadence (h : Hw) (c : Nat) : BitVec 48 := (h.die (dieOf c)).count

/-- An armed error of BLK_INJ is consumed by an update of structure `target`, answering its kind (R432). -/
def Hw.inject (h : Hw) (d b target : Nat) : Option Nat × Hw :=
  let v := h.pg d b 0x020
  if v.getLsbD 31 && decide (fld v 7 0 = target) then
    (some (fld v 11 8), (h.setPg d b 0x020 (setBit v 31 false)).blkErr d b 8)
  else (none, h)

/-- A credit fault (R429): structure code and index. -/
def Hw.creditFault (h : Hw) (d b code index : Nat) : Hw := (h.errCount d b 6).pf 0x11 d b (pack 32 [(8, index), (0, code)]) 0

/-- The structure whose count a lost packet leaves wrong, and its index (R423, R441). -/
def PBody.structure : PBody → Option (Nat × Nat)
  | .message m => some (1, m.ring.val)
  | .event _ _ => some (0, 0)
  | .grant _ n _ => some (2, n.val)
  | .ret _ n _ => some (3, n.val)
  | .recallOf _ n => some (3, n.val)
  | _ => none

/-- Codes of the flow queues, in the order of R261. -/
def Queue.code : Queue → Nat
  | .msg => 2 | .fix => 3 | .bnc => 4 | .ctl => 5

/-- A router discards a packet whose header fails its parity (R423). -/
def Hw.headerParity (h : Hw) (d site inPort queue : Nat) (lost : Option PBody) : Hw :=
  let h := (h.errCount d 0x100 4).pf 0x12 d 0x100 (pack 32 [(8, site), (0, inPort)]) (BitVec.ofNat 32 queue)
  match lost.bind PBody.structure with
  | some (code, i) => h.creditFault d 0x100 code i
  | none => h

/-- Whether a packet has a granule of data behind the header granule, and the packet with that granule poisoned (R423). -/
def Pkt.hasData (p : Pkt) : Bool := match p.body with | .message m => m.fixed || decide (2 ≤ m.n) | _ => false
def Pkt.poisoned (p : Pkt) : Pkt :=
  match p.body with
  | .message m => { p with body := .message { m with bad := 1 :: m.bad } }
  | _ => p

/-- The die and site of a router, and the link slot that one of its outputs crosses, if any (R25). -/
def hopSite (x : Nat × Nat × Nat) : Nat × Nat := (5 * (x.1 / 16) + x.2.1 / 16, 16 * (x.1 % 16) + x.2.1 % 16)
def hopLink (x : Nat × Nat × Nat) : Option Nat :=
  let r := x.1 % 16
  let c := x.2.1 % 16
  let d := (hopSite x).1
  match x.2.2 with
  | 0 => if r = 0 then some (16 * d + c / 4) else none
  | 1 => if c = 15 then some (16 * d + 4 + r / 4) else none
  | 2 => if r = 15 then some (16 * d + 8 + c / 4) else none
  | 3 => if c = 0 then some (16 * d + 12 + r / 4) else none
  | _ => none

/-- A flit crosses the link of slot `n`: an injection armed at either end strikes it (R432, R457). -/
def Hw.linkHop (h : Hw) (n : Nat) : Hw :=
  let strike (h : Hw) (d qual : Nat) : Hw :=
    if fld (h.pg d 0x100 0x020) 23 16 = qual then
      match h.inject d 0x100 1 with
      | (some _, h) => h.crcFailure n [0]
      | (none, h) => h
    else h
  let h := strike h (n / 16) (n % 16)
  match linkPeer n with
  | some (d, e, p) => strike h d (if d < 20 then 4 * e + p else p)
  | none => h

/-- The armed injections of the routers and links on a route strike what travels on queue `queue` (R432: core site targets 6
and 7, die mesh and die link target 1): whether its data is poisoned, where it has some; none when it is lost at the next
router. -/
def Hw.injectHops (h : Hw) (queue : Nat) (body : Option PBody) (data bad : Bool) : List (Nat × Nat × Nat) → Hw × Option Bool
  | [] => (h, some bad)
  | x :: rest =>
    let (d, s) := hopSite x
    let h := match hopLink x with
      | some n => h.linkHop (h.carrier n)
      | none => h
    match h.inject d s 6 with
    | (some _, h) =>
      let (d', s') := match rest with | y :: _ => hopSite y | [] => (d, s)
      (h.headerParity d' s' ([2, 3, 0, 1, 4].getD x.2.2 4) queue body, none)
    | (none, h) =>
      if data then
        match h.inject d s 7 with
        | (some _, h) => h.injectHops queue body data true rest
        | (none, h) => h.injectHops queue body data bad rest
      else h.injectHops queue body data bad rest

/-- The link over which a packet of another die than a compute die enters the mesh at router `a`. -/
def entryLink (src : Nat) (a : Nat × Nat) : Option Nat :=
  if src / 256 % 64 < 20 then none else hopLink (a.1, a.2, (meshPoint src).2.2)
def Pkt.entry (p : Pkt) : Option Nat := entryLink p.src.toNat (meshEntry p.src.toNat p.port)

/-- A packet enters the mesh at its source, behind every earlier one. -/
def Hw.send (h : Hw) (p : Pkt) : Hw :=
  let h := match p.entry with
    | some n => h.linkHop (h.carrier n)
    | none => h
  match h.injectHops p.q.code (some p.body) p.hasData false p.route with
  | (h, some bad) => h.sendRaw p.route (if bad then p.poisoned else p)
  | (h, none) => h

/-- A route is held: it meets a die that sleeps (R410) or a pair of DEAD links (R29). -/
def Hw.routeHeld (h : Hw) (entry : Option Nat) (route : List (Nat × Nat × Nat)) : Bool :=
  entry.any h.linkDown || route.any fun x => !h.awake (hopSite x).1 || (hopLink x).any h.linkDown

/-- What the byte that a device stores for a global address is combined with, under the memory key of the current generation: one
that was not written since the key was drawn, or that another address wrote, reads as anything (R234–R236). Before the first POWER
there is no key, and memory reads 0 (log 2). -/
def Hw.pad (h : Hw) (a : Nat) : Byte := if h.k0.keyGen = 0 then 0 else Config.scrambled h.k0.keyGen a
def Hw.padN (h : Hw) (a : Nat) (bs : List Byte) : List Byte := bs.zipIdx.map fun p => p.1 ^^^ h.pad (a + p.2)

/-- Where memory traffic for a global address meets the mesh: a GDDR7 line's at edge router 4 + ((a >> 7) mod 8) of the attach
edge of its home die (R224), the CXL tier's at X0's, a register page's at its unit's. -/
def Hw.memPoint (h : Hw) (a : Nat) : Nat × Nat × Nat :=
  if a < cxlBase then
    let p := meshPoint (256 * (20 + (homeOf h.variant a).1))
    if p.2.2 % 2 = 1 then (p.1 + a / 128 % 8, p.2.1, p.2.2) else (p.1, p.2.1 + a / 128 % 8, p.2.2)
  else if a < regBase then meshPoint 0x2600
  else let (d, b, _) := pageOf a; meshPoint (srcOf d b).toNat

/-- The routes of a core's request for an address and of its answer (R26, R224), and the link over which the answer enters. -/
def Hw.reqRoute (h : Hw) (c a : Nat) : List (Nat × Nat × Nat) :=
  let p := meshPoint c
  let q := h.memPoint a
  routeOf 160 (p.1, p.2.1) (q.1, q.2.1) q.2.2
def Hw.rspRoute (h : Hw) (c a : Nat) : List (Nat × Nat × Nat) :=
  let p := meshPoint c
  let q := h.memPoint a
  routeOf 160 (q.1, q.2.1) (p.1, p.2.1) 4
def Hw.rspEntry (h : Hw) (a : Nat) : Option Nat := hopLink (h.memPoint a)

/-- A request, or its answer, is held on its way. -/
def Hw.reqHeld (h : Hw) (r : MReq) : Bool := h.routeHeld none (h.reqRoute r.core.val r.addr)
def Hw.rspHeld (h : Hw) (r : MRsp) : Bool := h.routeHeld (h.rspEntry r.addr) (h.rspRoute r.core.val r.addr)

/-- A packet does not reach its destination yet: the destination's die sleeps, or its route is held. -/
def Hw.pktHeld (h : Hw) (p : Pkt) : Bool := !h.awake (fld p.dest 13 8) || h.routeHeld p.entry p.route

/-! ### Registers of a thread -/

/-- A scalar register as an operand; g0 reads as INT 0 (R50). -/
def Thread.rd (x : Thread) (r : Reg) : TWord := if r = 0 then ⟨.int, 0⟩ else lookD x.g r.val {}

/-- A scalar register written; writes of g0 are discarded (R50). -/
def Thread.wr (x : Thread) (r : Reg) (v : TWord) : Thread :=
  if r = 0 then x else { x with g := put x.g r.val v, badReg := if x.badReg = some r then none else x.badReg }

def Thread.vec (x : Thread) (r : Reg) : VWord := lookD x.v r.val 0
def Thread.setVec (x : Thread) (r : Reg) (v : VWord) : Thread := { x with v := put x.v r.val v }
def Thread.msk (x : Thread) (k : Nat) : Word := lookD x.k k 0
def Thread.setMsk (x : Thread) (k : Nat) (v : Word) : Thread := { x with k := put x.k k v }
def Thread.setSt (x : Thread) (f : Status → Status) : Thread := { x with st := f x.st }

def int (v : Word) : TWord := ⟨.int, v⟩

/-- A scalar register of a running thread written, with the parity error an armed injection puts there (R432). -/
def Hw.wrG (h : Hw) (c : CoreId) (t : Tid) (r : Reg) (v : TWord) : Hw :=
  if r = 0 then h
  else
    let h := h.updT c t fun x => x.wr r v
    match h.inject (dieOf c.val) (siteIx c.val) 4 with
    | (some _, h) => h.updT c t fun x => { x with badReg := some r }
    | (none, h) => h

/-- The STATUS word (R93). -/
def Status.word (s : Status) (t : Tid) : Word :=
  pack 64 [(56, s.cause.toNat), (40, s.detail.toNat), (35, s.slot.toNat), (33, t.val), (21, s.repLeft.toNat),
    (20, s.repActive.toNat), (19, s.repMode.toNat), (7, s.ss.toNat), (6, s.lr.toNat), (1, s.ie.toNat), (0, s.priv.toNat)]

/-- Codes of the tags (spec 02 "Tags"). -/
def Tag.code : Tag → Nat
  | .nil => 0 | .int => 1 | .fp => 2 | .laddr => 3 | .gaddr => 4 | .stat => 5 | .evh => 6 | .raw => 7
def Tag.ofCode (n : Nat) : Tag :=
  [Tag.nil, .int, .fp, .laddr, .gaddr, .stat, .evh, .raw].getD n .raw
def Tag.isAddr : Tag → Bool
  | .laddr | .gaddr => true
  | _ => false

/-- One past the end of local memory and of the global space (R61). -/
def localTop : Nat := 0x180000
def globalTop : Nat := 0x1000000000000
/-- The end of the space an address tag names. -/
def Tag.top (t : Tag) : Nat := if t = .gaddr then globalTop else localTop

/-! ### Local memory -/

/-- The 64-bit words that bytes [a, a + n) touch. -/
def wordsOf (a n : Nat) : List Nat := if n = 0 then [] else (List.range ((a + n - 1) / 8 + 1 - a / 8)).map (· + a / 8)

/-- A 64-bit word of local memory with its tag (R60); every word starts RAW (R480). -/
def Core.ldWord (k : Core) (a : Nat) : TWord :=
  ⟨lookD k.ltag (a / 8) .raw, BitVec.ofNat 64 (leNat (k.lmem.readN a 8))⟩

/-- The worst error of the words that bytes [a, a + n) touch: 0 none, 1 corrected, 2 uncorrectable, 3 poison. -/
def Core.lmErr (k : Core) (a n : Nat) : Nat :=
  (wordsOf a n).foldl (fun e w => Nat.max e (lookD k.lbad w 0).toNat) 0

/-- The 64-byte lines that bytes [a, a + n) touch, with the lines `l` (R84). -/
def withLines (l : List (Bool × Nat)) (a n : Nat) : List (Bool × Nat) :=
  if n = 0 then l
  else ((List.range ((a + n - 1) / 64 + 1 - a / 64)).map fun i => (false, i + a / 64)).foldl
    (fun l x => if l.contains x then l else x :: l) l

/-- Bytes written by any requester but a 64-bit scalar store: every word touched takes the tag RAW (R59), and a word
written whole loses its error. The instruction cache does not see the write (R84). -/
def Core.lmWrite (k : Core) (a : Nat) (bs : List Byte) : Core :=
  let ws := wordsOf a bs.length
  { k with lmem := k.lmem.writeN a bs
           icache := withLines k.icache a bs.length
           ltag := ws.foldl (fun t w => del t w) k.ltag
           lbad := ws.foldl (fun t w => if a ≤ 8 * w ∧ 8 * w + 8 ≤ a + bs.length then del t w else t) k.lbad }

/-- An armed injection strikes the first local word just written (R432 target 1). -/
def Hw.lmInject (h : Hw) (c : Nat) (a : Nat) : Hw :=
  match h.inject (dieOf c) (siteIx c) 1 with
  | (some kind, h) => h.updC c fun k => { k with lbad := put k.lbad (a / 8) (BitVec.ofNat 2 kind) }
  | (none, h) => h

/-- A write into a core's local memory by any requester but a 64-bit scalar store (R59). -/
def Hw.lmWrite (h : Hw) (c : Nat) (a : Nat) (bs : List Byte) : Hw :=
  if bs = [] then h else (h.updC c fun k => k.lmWrite a bs).lmInject c a

/-- A 64-bit store with its tag (R59), R58 already applied. -/
def Hw.lmStore (h : Hw) (c : Nat) (a : Nat) (w : TWord) : Hw :=
  (h.updC c fun k =>
    let k := k.lmWrite a (leBytes 8 w.val.toNat)
    { k with ltag := if w.tag = .raw then k.ltag else put k.ltag (a / 8) w.tag }).lmInject c a

/-- Words that a poisoned write leaves unreadable (R423). -/
def Hw.lmPoison (h : Hw) (c : Nat) (a n : Nat) : Hw :=
  h.updC c fun k => { k with lbad := (wordsOf a n).foldl (fun t w => put t w 3) k.lbad }

/-- A read of local bytes met only corrected errors: each is counted and written back (R422). -/
def Hw.lmScrub (h : Hw) (c : Nat) (a n : Nat) : Hw :=
  if (h.core c).lmErr a n = 1 then
    (h.updC c fun k => { k with lbad := (wordsOf a n).foldl (fun t w => del t w) k.lbad }).corrected (dieOf c) (siteIx c)
  else h

/-! ### Exceptions -/

/-- A fault or trap: slot, detail and what XADDR receives, if anything (R113, R115). -/
structure Exc where
  cause : Nat
  detail : BitVec 16
  xaddr : Option Word := none
  deriving DecidableEq, Repr

/-- ILLEGAL with a reason (R114); `op` is the major opcode. -/
def illegal (op reason : Nat) : Exc := ⟨5, pack 16 [(10, op), (0, reason)], none⟩
/-- PRIV (R113). -/
def privExc (op fn5 : Nat) : Exc := ⟨4, pack 16 [(10, op), (5, fn5)], none⟩
/-- TAG (R65). -/
def tagExc (reason operand : Nat) (tag : Tag) : Exc := ⟨3, pack 16 [(5, reason), (3, operand), (0, tag.code)], none⟩
/-- TAG with reason 1, whose XADDR is the address refused (R115). -/
def rangeExc (operand : Nat) (tag : Tag) (a : Int) : Exc := { tagExc 1 operand tag with xaddr := some (ofI a) }
/-- ALIGN (R113, R115). -/
def alignExc (log : Nat) (a : Nat) : Exc := ⟨6, BitVec.ofNat 16 log, some (BitVec.ofNat 64 a)⟩
/-- XLATE (R155). -/
def xlateExc (fetch store : Bool) (reason : Nat) (a : Nat) : Exc :=
  ⟨8, pack 16 [(15, fetch.toNat), (14, store.toNat), (0, reason)], some (BitVec.ofNat 64 a)⟩
/-- ECC (R426). -/
def eccExc (source kind unit index : Nat) (a : Nat) : Exc :=
  ⟨10, pack 16 [(12, source), (8, kind), (5, unit), (0, index)], some (BitVec.ofNat 64 a)⟩

/-- What an uncorrectable local error reads as in R426's kind: 1 SECDED, 3 poison. -/
def lmKind (e : Nat) : Nat := if e = 3 then 3 else 1

/-- The first reason of R117 that applies to a push, or 0. -/
def Thread.pushCheck (x : Thread) : Nat :=
  if x.esp.tag ≠ .laddr then 1
  else if x.esp.val.toNat % 8 ≠ 0 then 2
  else if x.espLimit.tag ≠ .laddr then 3
  else if (x.esp.val.toNat : Int) - 16 < x.espLimit.val.toNat then 4
  else if (x.esp.val.toNat : Int) - 16 < 0x0C00 then 5
  else 0

/-- Thread 0 is notified of an exception of pool thread `t` (R124). -/
def Hw.notify (h : Hw) (c : CoreId) (t : Tid) (cause : Nat) (detail : BitVec 16) (ret : Word) (nest : W32)
    (halted : Bool) : Hw :=
  if t = 0 then h
  else if halted || (decide (1 ≤ cause) && decide (cause ≤ 17) && (h.core c.val).threadfEn.getLsbD cause) then
    (h.updC c.val fun k =>
      { k with tfLog := upd k.tfLog t.val 0 fun v =>
                 pack 64 [(56, cause), (40, detail.toNat), (32, Nat.min (fld v 39 32 + 1) 255), (31, halted.toNat),
                   (24, Nat.min nest.toNat 63)]
               tfPc := put k.tfPc t.val ret }).setEv c 0 31
  else h

/-- A LOCK waiter leaves the waiter sets (R95, R104). -/
def Core.dropWaiter (k : Core) (t : Tid) : Core :=
  { k with locks := k.locks.map fun p => (p.1, { p.2 with waiters := p.2.waiters.filter (· ≠ t) }) }

/-- A wait is abandoned and the thread runs (R95). -/
def Hw.abandon (h : Hw) (c : CoreId) (t : Tid) : Hw :=
  h.updC c.val fun k => (k.dropWaiter t).updT t fun x => { x with state := .run, wait := .none }

/-- A second stack fault (R121). -/
def Hw.stackHalt (h : Hw) (c : CoreId) (t : Tid) (cause reason : Nat) (ret : TWord) : Hw :=
  if t = 0 then
    let h := h.updC c.val fun k =>
      { k with locks := k.locks.map (fun p => (p.1, { p.2 with waiters := [] }))
               threads := tids.foldl (fun ts u =>
                 put ts u.val { k.thr u with state := .haltCore, wait := .none }) k.threads }
    let h := h.updT c 0 fun x => { x with pc := ret }
    (h.blkEvt (dieOf c.val) (siteIx c.val) 16).pf 0x18 (dieOf c.val) (siteIx c.val) (ret.val.setWidth 32)
      (pack 32 [(8, cause), (0, reason)])
  else
    let nest := (h.thr c t).nest
    (h.updT c t fun x => { x with state := .haltFault, pc := ret }).notify c t 1 (BitVec.ofNat 16 reason) ret.val nest
      true

/-- An ECC fault counts in the core site's page: uncorrectable, parity or poison (R431); sources 4 and 8 were counted
when they were found, kinds 4 and 5 belong to other blocks. -/
def Hw.noteEcc (h : Hw) (c : CoreId) (e : Exc) : Hw :=
  let src := fld e.detail 15 12
  if e.cause = 10 ∧ src ≠ 4 ∧ src ≠ 8 then
    match fld e.detail 11 8 with
    | 1 => h.errCount (dieOf c.val) (siteIx c.val) 2
    | 2 => h.errCount (dieOf c.val) (siteIx c.val) 4
    | 3 => h.errCount (dieOf c.val) (siteIx c.val) 3
    | _ => h
  else h

/-- Exception entry (R116), with XADDR (R115), the last-resort state (R120, R121), the notice to thread 0
(R124) and the end of R39's watch at a successful entry. XADDR takes the address of the cause that was due, also when the entry
becomes STACK or a second stack fault (DESIGN CHOICE, log 110). -/
def Hw.enter (h : Hw) (c : CoreId) (t : Tid) (e : Exc) (ret : TWord) : Hw :=
  let h := ((h.abandon c t).updT c t fun x => { x with ssDue := false }).noteEcc c e
  let h := match e.xaddr with | some a => h.updT c t fun x => { x with xaddr := a } | none => h
  let x := h.thr c t
  let st : TWord := ⟨.stat,
    ({ x.st with cause := BitVec.ofNat 8 e.cause, detail := e.detail, slot := BitVec.ofNat 5 e.cause }).word t⟩
  let r := x.pushCheck
  let h := if x.nest = 0 then h.updT c t fun x => { x with basePriv := x.st.priv } else h
  let handler (h : Hw) (slot : Nat) (detail : BitVec 16) : Hw :=
    ((h.updC c.val fun k => { k with islandErr := false }).updT c t fun x =>
      { x with
        st := { x.st with cause := BitVec.ofNat 8 slot, detail := detail, slot := BitVec.ofNat 5 slot, priv := true,
                          ie := false, ss := false, repActive := false }
        pc := ⟨.laddr, BitVec.ofNat 64 (0x0400 + 64 * slot)⟩ }).notify c t slot detail ret.val x.nest false
  if r = 0 then
    let sp := x.esp.val.toNat - 16
    let h := (h.lmStore c.val (sp + 8) ret).lmStore c.val sp st
    handler (h.updT c t fun x => { x with esp := ⟨.laddr, BitVec.ofNat 64 sp⟩, nest := x.nest + 1 }) e.cause e.detail
  else if x.st.lr then h.stackHalt c t e.cause r ret
  else
    handler (h.updT c t fun x =>
      { x with xsRa := ret, xsStat := st, nest := x.nest + 1, lrLevel := x.nest + 1, st := { x.st with lr := true } })
      1 (BitVec.ofNat 16 r)

/-! ### Issue -/

/-- How an instruction that commits leaves the PC: at the next instruction, at a target, or, parked, where it is. -/
inductive Nxt where
  | seq
  | jump (pc : TWord)
  | stay
  deriving DecidableEq, Repr

/-- What an instruction does: it commits, or it faults with the state that its finished parts leave (R113, R161). -/
inductive IRes where
  | ok (h : Hw) (n : Nxt)
  | exc (h : Hw) (e : Exc)
  /-- A trap taken after the instruction commits. -/
  | trap (h : Hw) (e : Exc)

/-- An instruction that changes nothing when it faults (R78). -/
def IRes.ofE (h : Hw) : Except Exc (Hw × Nxt) → IRes
  | .ok (h, n) => .ok h n
  | .error e => .exc h e

/-- A core whose clock runs and whose image is accepted: BOOT_CORE_STAT is RUNNING and PWR_STAT is RUN (R97, R407). -/
def Hw.coreRuns (h : Hw) (c : Nat) : Bool :=
  decide (fld (h.cpg c 0x28C) 2 0 = 5) && decide (fld (h.cpg c 0x284) 2 0 = 0)

/-- The thread issues in its own slots (R85, R94); one held at an accumulator instruction does not (R180). -/
def Hw.canIssue (h : Hw) (c : CoreId) (t : Tid) : Bool :=
  h.coreRuns c.val && decide ((h.thr c t).state = .run) && decide ((h.thr c t).wait = .none)

/-- An address PC-relative to `pc`, with its tag; TAG when it leaves the range of R61. -/
def relPc (pc : TWord) (d : Int) : Except Exc TWord :=
  let a := (pc.val.toNat : Int) + d
  if 0 ≤ a ∧ a ≤ pc.tag.top then .ok ⟨pc.tag, ofI a⟩ else .error (rangeExc 3 pc.tag a)

/-- DEBUG for STATUS.ss (R113). -/
def ssExc : Exc := ⟨17, 0x8000, none⟩

/-- The word at a local PC can be the prefix that rep_active belongs to: it is one, or the cache may still hold another word
there; a global PC is taken to hold it (R84, R91). -/
def Hw.prefixHere (h : Hw) (c : CoreId) (t : Tid) : Bool :=
  let k := h.core c.val
  let pc := (h.thr c t).pc
  pc.tag != .laddr || isPrefix (BitVec.ofNat 32 (leNat (k.lmem.readN pc.val.toNat 4))) ||
    k.icache.contains (false, pc.val.toNat / 64)

/-- A thread in the middle of a REP.N (R91). -/
def Hw.midN (h : Hw) (c : CoreId) (t : Tid) : Bool :=
  let x := h.thr c t
  x.st.repActive && x.st.repMode && h.prefixHere c t

/-- BANK due behind the last iteration of a REP.N (R142). -/
def Hw.bankNow (h : Hw) (c : CoreId) (t : Tid) : Option Exc :=
  let x := h.thr c t
  match x.bankDue with
  | some (n, d, a) => if x.nest = n ∧ h.midN c t = false then some ⟨7, d, some a⟩ else none
  | none => none

/-- The entry due at a boundary, first in the order of R123, R327 and R427, with its slot, detail and XADDR. -/
def Hw.dueEvent (h : Hw) (c : CoreId) (t : Tid) : Option Exc :=
  let x := h.thr c t
  match x.arrayEcc, h.bankNow c t with
  | some (tile, row), _ => some (eccExc 4 2 tile.val row.val (tile.val * 32 + row.val))
  | none, some e => some e
  | none, none =>
    if x.ssDue then some ssExc
    else if !x.st.ie then none
    else if t = 0 ∧ x.evPend.getLsbD 31 then
      let log (n : Nat) := decide (fld (lookD (h.core c.val).tfLog n 0) 39 31 ≠ 0)
      some ⟨20, pack 16 [(1, (log 1).toNat), (2, (log 2).toNat), (3, (log 3).toNat)], none⟩
    else match x.dmaErrs with
    | (s, r) :: _ => some ⟨15, pack 16 [(8, s.val), (0, r.toNat)], none⟩
    | [] =>
      let m := if t = 0 then x.intEn &&& 0x7FFFFFFF else x.intEn
      if x.evPend &&& m ≠ 0 then some ⟨18, 0, none⟩ else none

/-- The same between iterations too, where REP.N holds its interrupts (R91). -/
def Hw.dueHere (h : Hw) (c : CoreId) (t : Tid) : Option Exc :=
  let x := h.thr c t
  (h.dueEvent c t).filter fun e => e.cause == 10 || !(x.state == .run && h.midN c t)

/-- rep_active is cleared at an address that holds no prefix (R91). -/
def Hw.settleRep (h : Hw) (c : CoreId) (t : Tid) : Hw :=
  if (h.thr c t).st.repActive && !h.prefixHere c t then h.updT c t fun x => x.setSt fun s => { s with repActive := false }
  else h

/-- An asynchronous entry of `dueEvent` is taken: its source is served and the return address is the PC (R113). -/
def Hw.takeEvent (h : Hw) (c : CoreId) (t : Tid) (e : Exc) : Hw :=
  let h := (h.settleRep c t).updT c t fun x =>
    if e.cause = 10 then { x with arrayEcc := none }
    else if e.cause = 7 then { x with bankDue := none }
    else if e.cause = 20 then { x with evPend := x.evPend &&& 0x7FFFFFFF }
    else if e.cause = 15 then { x with dmaErrs := x.dmaErrs.tail }
    else x
  h.enter c t e (h.thr c t).pc

/-- The halt request that lands at a boundary: a debugger's, then THREAD_CTL's (R102, R129). In a debugger step the halt_req bit
that let it begin does not count (R130). -/
def Hw.haltDue (h : Hw) (c : CoreId) (t : Tid) : Option TState :=
  let x := h.thr c t
  if x.stepping then if x.stopReq then some .haltStop else none
  else if (h.cpg c.val 0x074).getLsbD t.val then some .haltDbg
  else if x.stopReq then some .haltStop else none

/-- A halt lands: the wait is abandoned (R95, R102, R129). -/
def Hw.landHalt (h : Hw) (c : CoreId) (t : Tid) (s : TState) : Hw :=
  ((h.settleRep c t).abandon c t).updT c t fun x =>
    { x with state := s, stopReq := if s = .haltStop then false else x.stopReq, stepping := false }

/-- After an instruction commits or an entry, a debugger step is over (R130). -/
def Hw.endStep (h : Hw) (c : CoreId) (t : Tid) : Hw :=
  if (h.thr c t).stepping then
    if (h.thr c t).state = .run then h.updT c t fun x => { x with state := .haltDbg, stepping := false } else h
  else h

/-- The rest of an instruction of `len` bytes: the PC moves, or the fault is entered; then the single-step trap is due when ss
was set before and still is, and is taken at once before a debugger step halts (R123, log 13). -/
def Hw.finish (h : Hw) (c : CoreId) (t : Tid) (len : Nat) (r : IRes) : Hw :=
  let pc := (h.thr c t).pc
  let nextPc : TWord := ⟨pc.tag, pc.val + BitVec.ofNat 64 len⟩
  let ss := (h.thr c t).st.ss
  let stepTrap (h : Hw) : Hw :=
    if ss && (h.thr c t).st.ss then
      if (h.thr c t).stepping then h.enter c t ssExc (h.thr c t).pc else h.updT c t fun x => { x with ssDue := true }
    else h
  match r with
  | .ok h .seq => (stepTrap (h.updT c t fun x => { x with pc := nextPc })).endStep c t
  | .ok h (.jump p) => (stepTrap (h.updT c t fun x => { x with pc := p })).endStep c t
  | .ok h .stay => h
  | .exc h e => (h.enter c t e pc).endStep c t
  | .trap h e =>
    let h := h.updT c t fun x => { x with pc := nextPc }
    (h.enter c t e nextPc).endStep c t

/-- A source register with bad parity faults the instruction unless an earlier fault of R69 does (R426 source 5). -/
def Hw.parity (h : Hw) (c : CoreId) (t : Tid) (srcs : List Reg) (r : IRes) : IRes :=
  match (h.thr c t).badReg with
  | none => r
  | some b =>
    if srcs.contains b then
      match r with
      | .exc h' e => if e.cause = 13 then .exc h (eccExc 5 2 0 b.val b.val) else .exc h' e
      | _ => .exc h (eccExc 5 2 0 b.val b.val)
    else r

end Sys2Proof.Machine
end

