-- ==== Sys2Proof/Machine/Operands.lean ====
section
/-! DEFINITION. The operand kinds of spec 02 R63 and R64, the checks of instruction fields (R68, R483), effective
addresses (R77), and translation and permission of addresses (spec 04 R62, R135, R151–R155). -/

namespace Sys2Proof.Machine

/-- A field that must be 0 or g0 (R68, R483): ILLEGAL with reason 2 otherwise. -/
def mbz (op : Nat) (ok : Bool) : Except Exc Unit := if ok then .ok () else .error (illegal op 2)
/-- A value inside its range: ILLEGAL with reason 4 otherwise (R114). -/
def inRange (op : Nat) (ok : Bool) : Except Exc Unit := if ok then .ok () else .error (illegal op 4)
/-- An unassigned code: ILLEGAL with reason 1 (R114). -/
def assigned (op : Nat) (ok : Bool) : Except Exc Unit := if ok then .ok () else .error (illegal op 1)

/-- Whether the thread runs in supervisor mode (R96). -/
def needPriv (x : Thread) (op fn5 : Nat) : Except Exc Unit := if x.st.priv then .ok () else .error (privExc op fn5)

/-- Kind int. -/
def Tag.isInt : Tag → Bool
  | .int | .raw => true
  | _ => false
def Tag.isBits : Tag → Bool
  | .int | .fp | .raw => true
  | _ => false

/-- An operand whose tag is accepted, or TAG with reason 0 (R63, R65). -/
def need (ok : Tag → Bool) (operand : Nat) (w : TWord) : Except Exc Word :=
  if ok w.tag then .ok w.val else .error (tagExc 0 operand w.tag)
def needInt (operand : Nat) (w : TWord) : Except Exc Word := need Tag.isInt operand w
def needFp (operand : Nat) (w : TWord) : Except Exc Word := need (· == .fp) operand w
def needBits (operand : Nat) (w : TWord) : Except Exc Word := need Tag.isBits operand w
/-- Kinds addr, mem and target. -/
def needAddr (operand : Nat) (w : TWord) : Except Exc TWord :=
  if w.tag.isAddr then .ok w else .error (tagExc 0 operand w.tag)

/-- Kind cmp: each operand on its own, then the pair (R63, R64). -/
def needCmp (a b : TWord) : Except Exc (Word × Word) :=
  let one (w : TWord) := w.tag.isInt || w.tag.isAddr
  if !one a then .error (tagExc 0 0 a.tag)
  else if !one b then .error (tagExc 0 1 b.tag)
  else if (a.tag.isAddr || b.tag.isAddr) && a.tag != b.tag then .error (tagExc 0 1 b.tag)
  else .ok (a.val, b.val)

/-- Kind apair: each operand on its own, then the pair (R63, R64). -/
def needPair (a b : TWord) : Except Exc (Word × Word) :=
  if !a.tag.isAddr then .error (tagExc 0 0 a.tag)
  else if !b.tag.isAddr then .error (tagExc 0 1 b.tag)
  else if a.tag ≠ b.tag then .error (tagExc 0 1 b.tag)
  else .ok (a.val, b.val)

/-- Two operands of kind int, ra then rb (R64). -/
def int2 (x : Thread) (f : RF) : Except Exc (Word × Word) := do
  let a ← needInt 0 (x.rd f.ra)
  let b ← needInt 1 (x.rd f.rb)
  .ok (a, b)

/-- The address `a + d` with a's tag, or TAG with reason 1 (R61). -/
def addAddr (operand : Nat) (a : TWord) (d : Int) : Except Exc TWord :=
  let r := (a.val.toNat : Int) + d
  if 0 ≤ r ∧ r ≤ a.tag.top then .ok ⟨a.tag, ofI r⟩ else .error (rangeExc operand a.tag r)

/-- An access of `n` bytes at `a` stays inside its space (R62); its XADDR is the data address (R115). -/
def inSpace (operand : Nat) (tag : Tag) (a : Int) (n : Nat) : Except Exc Unit :=
  if 0 ≤ a ∧ a + n ≤ tag.top then .ok () else .error (rangeExc operand tag a)

/-- An address aligned to 2^log bytes (R77). -/
def aligned (log : Nat) (a : Nat) : Except Exc Unit := if a % 2 ^ log = 0 then .ok () else .error (alignExc log a)

/-- The first address user code may write: LM_GUARD.top_kib × 1,024, larger values acting as 1,536 KiB (R135, R172). -/
def Hw.guardTop (h : Hw) (c : Nat) : Nat := Nat.min (fld (h.cpg c 0x090) 10 0) 1536 * 1024

/-- A user-mode write of local bytes from `a` on (R135); `op` names the instruction. -/
def Hw.guard (h : Hw) (c : CoreId) (x : Thread) (op a : Nat) : Except Exc Unit :=
  if x.st.priv = false ∧ a < h.guardTop c.val then .error (privExc op 0) else .ok ()

/-! ### Translation -/

/-- Fields of a translation-buffer entry (R152). -/
def TbEnt.valid (e : TbEnt) : Bool := e.v.getLsbD 0
def TbEnt.size (e : TbEnt) : Nat := if e.v.getLsbD 1 then 0x200000 else 0x10000
def TbEnt.vbase (e : TbEnt) : Nat := fld e.v 47 16 * 65536
def TbEnt.pbase (e : TbEnt) : Nat := fld e.p 47 16 * 65536
def TbEnt.uncached (e : TbEnt) : Bool := e.p.getLsbD 0
def TbEnt.maps (e : TbEnt) (a : Nat) : Bool := e.valid && decide (e.vbase ≤ a) && decide (a < e.vbase + e.size)

def Core.tbEnt (k : Core) (i : Nat) : TbEnt := lookD k.tb i {}

/-- The index and the entry that map an address (R151); entries never overlap (R153). -/
def Core.tbFind (k : Core) (a : Nat) : Option (Nat × TbEnt) :=
  (k.tb.find? fun p => p.2.maps a)

/-- What an access does to memory (R151). -/
inductive Use where
  | read | write | fetch
  deriving DecidableEq, Repr

/-- Permission of an entry in a mode (R151). -/
def TbEnt.allows (e : TbEnt) (priv : Bool) : Use → Bool
  | .read => priv || e.p.getLsbD 7
  | .write => if priv then e.p.getLsbD 4 else e.p.getLsbD 6
  | .fetch => if priv then e.p.getLsbD 3 else e.p.getLsbD 5

/-- End of GDDR7 (R153). -/
def Hw.gddrTop (h : Hw) : Nat := match h.variant with | .uv48 => 0x3000000000 | .uv40 => 0x2400000000
/-- End of the capacity X0 has mapped, CXL_CAP × 256 MiB (R153, R238). -/
def Hw.cxlTop (h : Hw) : Nat := cxlBase + fld (h.pg 38 0x010 0x048) 15 0 * 0x10000000

/-- Where the XLATE reason-1 faults are counted (R172). -/
def tbMiss (e : Exc) : Bool := decide (e.cause = 8) && decide (fld e.detail 3 0 = 1)

/-- Translation of one address: physical address and whether uncached, or XLATE (R151, R154, R155). -/
def Hw.xlate (h : Hw) (c : CoreId) (priv : Bool) (u : Use) (a : Nat) : Except Exc (Nat × Bool) :=
  let fetch := decide (u = .fetch)
  let store := decide (u = .write)
  match (h.core c.val).tbFind a with
  | none => .error (xlateExc fetch store 1 a)
  | some (_, e) =>
    if !e.allows priv u then
      .error (xlateExc fetch store (match u with | .read => 2 | .write => 3 | .fetch => 4) a)
    else
      let p := e.pbase + (a - e.vbase)
      if cxlBase ≤ p ∧ p < regBase ∧ h.cxlTop ≤ p then .error (xlateExc fetch store 5 a) else .ok (p, e.uncached)

/-- Translation of an access of n bytes: the pages of its first and its last byte; a failure of the second page reports
its first byte (R155). -/
def Hw.xlateN (h : Hw) (c : CoreId) (priv : Bool) (u : Use) (a n : Nat) : Except Exc (Nat × Bool) := do
  let r ← h.xlate c priv u a
  let next := (a / 65536 + 1) * 65536
  if a + n ≤ next then .ok r
  else do
    let _ ← h.xlate c priv u next
    .ok r

/-- A word of GDDR7 as its memory-side die holds it. -/
def Hw.globalWord (h : Hw) (p : Nat) : W32 :=
  BitVec.ofNat 32 (leNat (match h.mems.findSome? fun m => m.2.lines.find? fun l => l.line == p / 128 with
    | some l => sub l.bytes (p % 128) 4
    | none => h.padN p (h.gddr.readN p 4)))

/-- A fetched word that no instruction has is ILLEGAL (R67, R68, R114), unless the line was written since the cache last dropped
it and the fetch returns the old word (R84); for a global line that is always open (log 14). -/
def Hw.wordCheck (h : Hw) (c : CoreId) (pc : TWord) (w : W32) : Except Exc Unit :=
  match wordIllegal w with
  | some r =>
    if (pc.tag = .gaddr ∨ (h.core c.val).icache.contains (false, pc.val.toNat / 64) = true) ∧
        Config.oldWord c.val pc.val.toNat h.free = true then .ok ()
    else .error (illegal (opField w) r)
  | none => .ok ()

/-- The fetch of the instruction at the PC (R62, R67–R69, R145, R151, R426): range, translation, the local word's check, and
that some instruction has the word; which one, and its operands, come with the command (log 14). -/
def Hw.fetch (h : Hw) (c : CoreId) (t : Tid) (len : Nat) : Except Exc Unit := do
  let x := h.thr c t
  let a := x.pc.val.toNat
  inSpace 3 x.pc.tag a len
  if x.pc.tag = .gaddr then do
    let (p, _) ← h.xlateN c x.st.priv .fetch a len
    if p + 4 ≤ h.gddrTop then h.wordCheck c x.pc (h.globalWord p) else .ok ()
  else
    let e := (h.core c.val).lmErr a len
    if 2 ≤ e then .error (eccExc 0 (lmKind e) 0 0 a)
    else h.wordCheck c x.pc (BitVec.ofNat 32 (leNat ((h.core c.val).lmem.readN a 4)))

/-- An XLATE of reason 1 counts in TB_MISS_CNT (R172). -/
def Hw.countMiss (h : Hw) (c : CoreId) (e : Exc) : Hw :=
  if tbMiss e then h.updCpg c.val 0x0A4 fun v => satAdd 32 v 1 else h

/-- One instruction of `len` bytes offered to a thread's slot (R85, R123): the slot idles unless the thread runs; an
entry or a halt that is due at this boundary comes first; then the fetch is checked; then the instruction runs. `srcs`
are its scalar source registers. An instruction that is no REP prefix (`rep`) clears rep_active; a prefix in the middle of
REP.N holds its interrupts (R91). -/
def Hw.issue (h : Hw) (c : CoreId) (t : Tid) (len : Nat) (srcs : List Reg) (ins : Hw → IRes) (rep : Bool := false) : Hw :=
  if !h.canIssue c t then h
  else
  let g := if rep then h else h.updT c t fun x => x.setSt fun s => { s with repActive := false }
  match (if rep then h.dueHere c t else h.dueEvent c t) with
  | some e => (g.takeEvent c t e).endStep c t
  | none => match h.haltDue c t with
  | some s => g.landHalt c t s
  | none =>
    match h.fetch c t len with
    | .error e => (((if e.cause = 5 then g else h).countMiss c e).enter c t e (h.thr c t).pc).endStep c t
    | .ok _ =>
      let h := g
      let r := h.parity c t srcs (ins h)
      match r with
      | .exc h' e => h.finish c t len (.exc (h'.countMiss c e) e)
      | r => h.finish c t len r

/-! ### Commands -/

/-- A command that changes the hardware and leaves the queue of waiting commands. -/
def State.run (s : State) (f : Hw → Hw) : Host.Outcome State Fault Refusal := .next { s with hw := f s.hw }

/-- A REP prefix and the instruction behind it offered to thread `t` of core `c`; the prefix's fetch is checked. -/
def State.issueRep (s : State) (c : CoreId) (t : Tid) (srcs : List Reg) (ins : Hw → CoreId → Tid → IRes) :
    Host.Outcome State Fault Refusal :=
  s.run fun h => h.issue c t 8 srcs (fun h => ins h c t) true

/-- An instruction of `len` bytes offered to thread `t` of core `c`. -/
def State.issue (s : State) (c : CoreId) (t : Tid) (len : Nat) (srcs : List Reg)
    (ins : Hw → CoreId → Tid → IRes) : Host.Outcome State Fault Refusal :=
  s.run fun h => h.issue c t len srcs fun h => ins h c t

end Sys2Proof.Machine
end

