-- ==== Sys2Proof/Machine/Flags.lean ====
section
/-! DEFINITION. The floating-point flags: FPCSR (spec 02 R55, R56) and the sticky flags of the arrays (spec 05 R183,
R199). -/

namespace Sys2Proof.Machine

/-- Rounding mode of a thread (R55). -/
def Thread.rm (x : Thread) : RM := fld x.fpcsr 17 16
/-- trap_en UF (R55). -/
def Thread.ufTrap (x : Thread) : Bool := x.fpcsr.getLsbD 9

/-- The flags an instruction raises are set; those with trap_en raise FPX and no destination is written (R56). -/
def Hw.fpDone (h : Hw) (c : CoreId) (t : Tid) (fl : FFlags) (commit : Hw → Hw) : IRes :=
  let x := h.thr c t
  let bits := fl.bits x.ufTrap
  let trapped := bits &&& fld x.fpcsr 12 8
  let h := h.updT c t fun x => { x with fpcsr := x.fpcsr ||| BitVec.ofNat 64 bits }
  if trapped ≠ 0 then .exc h ⟨13, BitVec.ofNat 16 trapped, none⟩ else .ok (commit h) .seq

/-- ARR_FLAGS bits set: [0] nv, [1] of, [2] nanscale (R199). -/
def Hw.arrFlags (h : Hw) (c : Nat) (nv of nanscale : Bool) : Hw :=
  if nv || of || nanscale then
    h.updCpg c 0x0B0 fun v => v ||| BitVec.ofNat 32 (nv.toNat + 2 * of.toNat + 4 * nanscale.toNat)
  else h

end Sys2Proof.Machine
end

