-- ==== Sys2Proof/Machine/Alu.lean ====
section
/-! DEFINITION. Integer, immediate, floating-point, tag and address instructions (spec 02 R70–R76, R82). Each `…Ins` is
what one instruction does; REP runs the same function once per iteration (R88). -/

namespace Sys2Proof.Machine

/-- Integer results (R70, R71). -/
def aluVal (op : AluOp) (a b : Word) : Word :=
  let n := b.toNat % 64
  match op with
  | .add => a + b
  | .sub => a - b
  | .mul => a * b
  | .mulh => BitVec.ofInt 64 (a.toInt * b.toInt / 2 ^ 64)
  | .mulhu => BitVec.ofNat 64 (a.toNat * b.toNat / 2 ^ 64)
  | .div => if b = 0 then BitVec.allOnes 64 else a.sdiv b
  | .divu => if b = 0 then BitVec.allOnes 64 else a / b
  | .rem => if b = 0 then a else a.srem b
  | .remu => if b = 0 then a else a % b
  | .and => a &&& b
  | .or => a ||| b
  | .xor => a ^^^ b
  | .andn => a &&& ~~~b
  | .shl => a <<< n
  | .shr => a >>> n
  | .sar => a.sshiftRight n
  | .rol => a.rotateLeft n
  | .clz => BitVec.ofNat 64 (clz64 a)
  | .popc => BitVec.ofNat 64 (popCount a)
  | .min => if a.slt b then a else b
  | .max => if a.slt b then b else a
  | .minu => if a.ult b then a else b
  | .maxu => if a.ult b then b else a
  | .seq => bit 64 (decide (a = b))
  | .slt => bit 64 (a.slt b)
  | .sltu => bit 64 (a.ult b)

/-- CLZ and POPC read no rb (R70). -/
def aluUnary : AluOp → Bool
  | .clz | .popc => true
  | _ => false

/-- An integer ALU instruction (R70). -/
def Hw.aluIns (op : AluOp) (f : RF) (h : Hw) (c : CoreId) (t : Tid) : IRes :=
  IRes.ofE h do
    mbz 0x01 (!aluUnary op || f.rb = 0)
    let (a, b) ← int2 (h.thr c t) f
    .ok (h.wrG c t f.rd (int (aluVal op a b)), .seq)

/-- Major opcode of an immediate form (R72). -/
def immOpc : ImmOp → Nat
  | .addi => 0x08 | .andi => 0x09 | .ori => 0x0A | .xori => 0x0B | .shi => 0x0C | .slti => 0x0D | .li => 0x0E

/-- Immediate results (R72). -/
def immVal (op : ImmOp) (a : Word) (i : BitVec 16) : Word :=
  match op with
  | .addi => a + sx i
  | .andi => a &&& zx i
  | .ori => a ||| zx i
  | .xori => a ^^^ zx i
  | .shi =>
    let n := fld i 5 0
    match fld i 7 6 with
    | 0 => a <<< n
    | 1 => a >>> n
    | 2 => a.sshiftRight n
    | _ => a.rotateLeft n
  | .slti => bit 64 (a.slt (sx i))
  | .li => sx i

/-- An immediate form (R72). -/
def Hw.immIns (op : ImmOp) (f : IF) (h : Hw) (c : CoreId) (t : Tid) : IRes :=
  IRes.ofE h do
    mbz (immOpc op) ((op != .shi || decide (fld f.imm 15 8 = 0)) && (op != .li || f.ra = 0))
    let a ← needInt 0 ((h.thr c t).rd f.ra)
    .ok (h.wrG c t f.rd (int (immVal op a f.imm)), .seq)

/-- FP instructions that read rb (R73). -/
def fpBinary : FpOp → Bool
  | .fsqrt | .fneg | .fabs | .cvtif | .cvtfi => false
  | _ => true

/-- The value a floating-point instruction writes, with its flags (R73, R56). -/
def fpVal (op : FpOp) (rm : RM) (a b d : Word) : TWord × FFlags :=
  let fp (r : Nat × FFlags) : TWord × FFlags := (⟨.fp, BitVec.ofNat 64 r.1⟩, r.2)
  let cmp (r : Bool × FFlags) : TWord × FFlags := (int (bit 64 r.1), r.2)
  let (x, y, z) := (a.toNat, b.toNat, d.toNat)
  match op with
  | .fadd => fp (fp64.op rm .add x y 0)
  | .fsub => fp (fp64.op rm .sub x y 0)
  | .fmul => fp (fp64.op rm .mul x y 0)
  | .fdiv => fp (fp64.op rm .div x y 0)
  | .fsqrt => fp (fp64.op rm .sqrt x 0 0)
  | .fmin => fp (fp64.op rm .min x y 0)
  | .fmax => fp (fp64.op rm .max x y 0)
  | .fma => fp (fp64.op rm .fma x y z)
  | .feq => cmp (fp64.cmp .eq x y)
  | .flt => cmp (fp64.cmp .lt x y)
  | .fle => cmp (fp64.cmp .le x y)
  | .fneg => (⟨.fp, a ^^^ 0x8000000000000000⟩, {})
  | .fabs => (⟨.fp, a &&& 0x7FFFFFFFFFFFFFFF⟩, {})
  | .cvtif => fp (fp64.enc rm false (FV.ofZ a.toInt))
  | .cvtfi => let (v, g) := cvtFI 64 rm (fp64.dec x); (int (ofI v), g)

/-- The operands of a floating-point instruction: ra, rb, then rd for FMA (R64, R73); an operand it does not read is 0. -/
def fpArgs (op : FpOp) (f : RF) (x : Thread) : Except Exc (Word × Word × Word) := do
  mbz 0x02 (fpBinary op || f.rb = 0)
  let a ← if op = .cvtif then needInt 0 (x.rd f.ra) else needFp 0 (x.rd f.ra)
  let b ← if fpBinary op then needFp 1 (x.rd f.rb) else .ok 0
  let d ← if op = .fma then needFp 2 (x.rd f.rd) else .ok 0
  .ok (a, b, d)

/-- A scalar floating-point instruction (R73). -/
def Hw.fpIns (op : FpOp) (f : RF) (h : Hw) (c : CoreId) (t : Tid) : IRes :=
  match fpArgs op f (h.thr c t) with
  | .error e => .exc h e
  | .ok (a, b, d) =>
    let (v, fl) := fpVal op (h.thr c t).rm a b d
    h.fpDone c t fl fun h => h.wrG c t f.rd v

/-- A well-formed event handle (R92). -/
def evHandle (v : Word) : Bool :=
  decide (fld v 63 32 = 0) && v.getLsbD 31 && decide (fld v 23 16 = 0) && decide (fld v 15 14 = 0) &&
    decide (fld v 13 8 ≤ 19)

/-- Tag and move instructions (R74). -/
def Hw.tagIns (op : TagOp) (f : RF) (h : Hw) (c : CoreId) (t : Tid) : IRes :=
  let a := (h.thr c t).rd f.ra
  IRes.ofE h do
    mbz 0x03 (f.rb = 0 && (op != .clr || f.ra = 0))
    let v : TWord ← match op with
      | .mov => .ok a
      | .retagI => do let v ← needBits 0 a; .ok ⟨.int, v⟩
      | .retagF => do let v ← needBits 0 a; .ok ⟨.fp, v⟩
      | .tagof => .ok (int (BitVec.ofNat 64 a.tag.code))
      | .clr => .ok {}
      | .evhnd => do
        let v ← needInt 0 a
        if evHandle v then .ok ⟨.evh, v⟩ else .error (illegal 0x03 10)
    .ok (h.wrG c t f.rd v, .seq)

/-- Address arithmetic of op 0x04 (R75). -/
def Hw.addrIns (op : AddrOp) (f : RF) (h : Hw) (c : CoreId) (t : Tid) : IRes :=
  let x := h.thr c t
  let a := x.rd f.ra
  let b := x.rd f.rb
  IRes.ofE h do
    let v : TWord ← match op with
      | .adda => do let a ← needAddr 0 a; let i ← needInt 1 b; addAddr 0 a i.toInt
      | .suba => do let a ← needAddr 0 a; let i ← needInt 1 b; addAddr 0 a (-i.toInt)
      | .difa => do let (a, b) ← needPair a b; .ok (int (a - b))
      | .aeq => do let (a, b) ← needPair a b; .ok (int (bit 64 (decide (a = b))))
      | .alt => do let (a, b) ← needPair a b; .ok (int (bit 64 (a.ult b)))
      | .aligna => do
        let a ← needAddr 0 a
        let i ← needInt 1 b
        inRange 0x04 (decide (i.toNat ≤ 47))
        .ok ⟨a.tag, BitVec.ofNat 64 (a.val.toNat / 2 ^ i.toNat * 2 ^ i.toNat)⟩
    .ok (h.wrG c t f.rd v, .seq)

/-- ADDAI (R75). -/
def Hw.addaiIns (f : IF) (h : Hw) (c : CoreId) (t : Tid) : IRes :=
  IRes.ofE h do
    let a ← needAddr 0 ((h.thr c t).rd f.ra)
    let v ← addAddr 0 a f.imm.toInt
    .ok (h.wrG c t f.rd v, .seq)

/-- LEAPC and LEAPC.L (R75, R82). -/
def Hw.leapcIns (op : Nat) (rd : Reg) (ok : Bool) (d : Int) (h : Hw) (c : CoreId) (t : Tid) : IRes :=
  IRes.ofE h do
    mbz op ok
    let v ← relPc (h.thr c t).pc d
    .ok (h.wrG c t rd v, .seq)

/-- LI.L, ADDI.L and ADDAI.L (R82). -/
def Hw.liLIns (f : LF) (h : Hw) (c : CoreId) (t : Tid) : IRes := .ok (h.wrG c t f.rd (int (sx f.imm))) .seq
def Hw.addiLIns (f : LF) (h : Hw) (c : CoreId) (t : Tid) : IRes :=
  IRes.ofE h do
    let a ← needInt 2 ((h.thr c t).rd f.rd)
    .ok (h.wrG c t f.rd (int (a + sx f.imm)), .seq)
def Hw.addaiLIns (f : LF) (h : Hw) (c : CoreId) (t : Tid) : IRes :=
  IRes.ofE h do
    let a ← needAddr 2 ((h.thr c t).rd f.rd)
    let v ← addAddr 2 a f.imm.toInt
    .ok (h.wrG c t f.rd v, .seq)

/-! ### The meanings -/

/-- ADD (R70). Integer add of ra and rb into rd as INT. -/
def execAdd (c : CoreId) (t : Tid) (f : RF) (s : State) : Host.Outcome State Fault Refusal :=
  s.issue c t 4 [f.ra, f.rb] (Hw.aluIns .add f)
/-- SUB (R70). Integer subtract of rb from ra into rd. -/
def execSub (c : CoreId) (t : Tid) (f : RF) (s : State) : Host.Outcome State Fault Refusal :=
  s.issue c t 4 [f.ra, f.rb] (Hw.aluIns .sub f)
/-- MUL (R70). Low 64 bits of the product of ra and rb. -/
def execMul (c : CoreId) (t : Tid) (f : RF) (s : State) : Host.Outcome State Fault Refusal :=
  s.issue c t 4 [f.ra, f.rb] (Hw.aluIns .mul f)
/-- MULH (R70). High 64 bits of the signed product. -/
def execMulh (c : CoreId) (t : Tid) (f : RF) (s : State) : Host.Outcome State Fault Refusal :=
  s.issue c t 4 [f.ra, f.rb] (Hw.aluIns .mulh f)
/-- MULHU (R70). High 64 bits of the unsigned product. -/
def execMulhu (c : CoreId) (t : Tid) (f : RF) (s : State) : Host.Outcome State Fault Refusal :=
  s.issue c t 4 [f.ra, f.rb] (Hw.aluIns .mulhu f)
/-- DIV (R71). Signed quotient rounded toward zero, with no fault on division by zero. -/
def execDiv (c : CoreId) (t : Tid) (f : RF) (s : State) : Host.Outcome State Fault Refusal :=
  s.issue c t 4 [f.ra, f.rb] (Hw.aluIns .div f)
/-- DIVU (R71). Unsigned quotient, with no fault on division by zero. -/
def execDivu (c : CoreId) (t : Tid) (f : RF) (s : State) : Host.Outcome State Fault Refusal :=
  s.issue c t 4 [f.ra, f.rb] (Hw.aluIns .divu f)
/-- REM (R71). Signed remainder with the sign of ra. -/
def execRem (c : CoreId) (t : Tid) (f : RF) (s : State) : Host.Outcome State Fault Refusal :=
  s.issue c t 4 [f.ra, f.rb] (Hw.aluIns .rem f)
/-- REMU (R71). Unsigned remainder. -/
def execRemu (c : CoreId) (t : Tid) (f : RF) (s : State) : Host.Outcome State Fault Refusal :=
  s.issue c t 4 [f.ra, f.rb] (Hw.aluIns .remu f)
/-- AND (R70). Bitwise AND of ra and rb. -/
def execAndOp (c : CoreId) (t : Tid) (f : RF) (s : State) : Host.Outcome State Fault Refusal :=
  s.issue c t 4 [f.ra, f.rb] (Hw.aluIns .and f)
/-- OR (R70). Bitwise OR of ra and rb. -/
def execOrOp (c : CoreId) (t : Tid) (f : RF) (s : State) : Host.Outcome State Fault Refusal :=
  s.issue c t 4 [f.ra, f.rb] (Hw.aluIns .or f)
/-- XOR (R70). Bitwise XOR of ra and rb. -/
def execXorOp (c : CoreId) (t : Tid) (f : RF) (s : State) : Host.Outcome State Fault Refusal :=
  s.issue c t 4 [f.ra, f.rb] (Hw.aluIns .xor f)
/-- ANDN (R70). ra AND NOT rb. -/
def execAndn (c : CoreId) (t : Tid) (f : RF) (s : State) : Host.Outcome State Fault Refusal :=
  s.issue c t 4 [f.ra, f.rb] (Hw.aluIns .andn f)
/-- SHL (R70). Shift ra left by rb mod 64. -/
def execShl (c : CoreId) (t : Tid) (f : RF) (s : State) : Host.Outcome State Fault Refusal :=
  s.issue c t 4 [f.ra, f.rb] (Hw.aluIns .shl f)
/-- SHR (R70). Logical right shift of ra. -/
def execShr (c : CoreId) (t : Tid) (f : RF) (s : State) : Host.Outcome State Fault Refusal :=
  s.issue c t 4 [f.ra, f.rb] (Hw.aluIns .shr f)
/-- SAR (R70). Arithmetic right shift of ra. -/
def execSar (c : CoreId) (t : Tid) (f : RF) (s : State) : Host.Outcome State Fault Refusal :=
  s.issue c t 4 [f.ra, f.rb] (Hw.aluIns .sar f)
/-- ROL (R70). Rotate ra left. -/
def execRol (c : CoreId) (t : Tid) (f : RF) (s : State) : Host.Outcome State Fault Refusal :=
  s.issue c t 4 [f.ra, f.rb] (Hw.aluIns .rol f)
/-- CLZ (R70). Count leading zeros of ra. -/
def execClz (c : CoreId) (t : Tid) (f : RF) (s : State) : Host.Outcome State Fault Refusal :=
  s.issue c t 4 [f.ra] (Hw.aluIns .clz f)
/-- POPC (R70). Count set bits of ra. -/
def execPopc (c : CoreId) (t : Tid) (f : RF) (s : State) : Host.Outcome State Fault Refusal :=
  s.issue c t 4 [f.ra] (Hw.aluIns .popc f)
/-- MIN (R70). Signed minimum. -/
def execMin (c : CoreId) (t : Tid) (f : RF) (s : State) : Host.Outcome State Fault Refusal :=
  s.issue c t 4 [f.ra, f.rb] (Hw.aluIns .min f)
/-- MAX (R70). Signed maximum. -/
def execMax (c : CoreId) (t : Tid) (f : RF) (s : State) : Host.Outcome State Fault Refusal :=
  s.issue c t 4 [f.ra, f.rb] (Hw.aluIns .max f)
/-- MINU (R70). Unsigned minimum. -/
def execMinu (c : CoreId) (t : Tid) (f : RF) (s : State) : Host.Outcome State Fault Refusal :=
  s.issue c t 4 [f.ra, f.rb] (Hw.aluIns .minu f)
/-- MAXU (R70). Unsigned maximum. -/
def execMaxu (c : CoreId) (t : Tid) (f : RF) (s : State) : Host.Outcome State Fault Refusal :=
  s.issue c t 4 [f.ra, f.rb] (Hw.aluIns .maxu f)
/-- SEQ (R70). 1 if ra equals rb, else 0. -/
def execSeq (c : CoreId) (t : Tid) (f : RF) (s : State) : Host.Outcome State Fault Refusal :=
  s.issue c t 4 [f.ra, f.rb] (Hw.aluIns .seq f)
/-- SLT (R70). 1 if ra is less than rb, signed. -/
def execSlt (c : CoreId) (t : Tid) (f : RF) (s : State) : Host.Outcome State Fault Refusal :=
  s.issue c t 4 [f.ra, f.rb] (Hw.aluIns .slt f)
/-- SLTU (R70). 1 if ra is less than rb, unsigned. -/
def execSltu (c : CoreId) (t : Tid) (f : RF) (s : State) : Host.Outcome State Fault Refusal :=
  s.issue c t 4 [f.ra, f.rb] (Hw.aluIns .sltu f)
/-- ADDI (R72). Add a sign-extended immediate. -/
def execAddi (c : CoreId) (t : Tid) (f : IF) (s : State) : Host.Outcome State Fault Refusal :=
  s.issue c t 4 [f.ra] (Hw.immIns .addi f)
/-- ANDI (R72). AND with a zero-extended immediate. -/
def execAndi (c : CoreId) (t : Tid) (f : IF) (s : State) : Host.Outcome State Fault Refusal :=
  s.issue c t 4 [f.ra] (Hw.immIns .andi f)
/-- ORI (R72). OR with a zero-extended immediate. -/
def execOri (c : CoreId) (t : Tid) (f : IF) (s : State) : Host.Outcome State Fault Refusal :=
  s.issue c t 4 [f.ra] (Hw.immIns .ori f)
/-- XORI (R72). XOR with a zero-extended immediate. -/
def execXori (c : CoreId) (t : Tid) (f : IF) (s : State) : Host.Outcome State Fault Refusal :=
  s.issue c t 4 [f.ra] (Hw.immIns .xori f)
/-- SHI (R72). Shift or rotate by an immediate amount. -/
def execShi (c : CoreId) (t : Tid) (f : IF) (s : State) : Host.Outcome State Fault Refusal :=
  s.issue c t 4 [f.ra] (Hw.immIns .shi f)
/-- SLTI (R72). Signed compare with an immediate. -/
def execSlti (c : CoreId) (t : Tid) (f : IF) (s : State) : Host.Outcome State Fault Refusal :=
  s.issue c t 4 [f.ra] (Hw.immIns .slti f)
/-- LI (R72). Load a sign-extended immediate. -/
def execLi (c : CoreId) (t : Tid) (f : IF) (s : State) : Host.Outcome State Fault Refusal :=
  s.issue c t 4 [] (Hw.immIns .li f)
/-- FADD (R73). Binary64 addition rounded per FPCSR.rm. -/
def execFadd (c : CoreId) (t : Tid) (f : RF) (s : State) : Host.Outcome State Fault Refusal :=
  s.issue c t 4 [f.ra, f.rb] (Hw.fpIns .fadd f)
/-- FSUB (R73). Binary64 subtraction. -/
def execFsub (c : CoreId) (t : Tid) (f : RF) (s : State) : Host.Outcome State Fault Refusal :=
  s.issue c t 4 [f.ra, f.rb] (Hw.fpIns .fsub f)
/-- FMUL (R73). Binary64 multiplication. -/
def execFmul (c : CoreId) (t : Tid) (f : RF) (s : State) : Host.Outcome State Fault Refusal :=
  s.issue c t 4 [f.ra, f.rb] (Hw.fpIns .fmul f)
/-- FDIV (R73). Binary64 division. -/
def execFdiv (c : CoreId) (t : Tid) (f : RF) (s : State) : Host.Outcome State Fault Refusal :=
  s.issue c t 4 [f.ra, f.rb] (Hw.fpIns .fdiv f)
/-- FSQRT (R73). Binary64 square root. -/
def execFsqrt (c : CoreId) (t : Tid) (f : RF) (s : State) : Host.Outcome State Fault Refusal :=
  s.issue c t 4 [f.ra] (Hw.fpIns .fsqrt f)
/-- FMIN (R73). IEEE minimumNumber. -/
def execFmin (c : CoreId) (t : Tid) (f : RF) (s : State) : Host.Outcome State Fault Refusal :=
  s.issue c t 4 [f.ra, f.rb] (Hw.fpIns .fmin f)
/-- FMAX (R73). IEEE maximumNumber. -/
def execFmax (c : CoreId) (t : Tid) (f : RF) (s : State) : Host.Outcome State Fault Refusal :=
  s.issue c t 4 [f.ra, f.rb] (Hw.fpIns .fmax f)
/-- FMA (R73). Fused multiply-add into rd, rounded once. -/
def execFma (c : CoreId) (t : Tid) (f : RF) (s : State) : Host.Outcome State Fault Refusal :=
  s.issue c t 4 [f.ra, f.rb, f.rd] (Hw.fpIns .fma f)
/-- FEQ (R73). Floating-point equality compare giving INT. -/
def execFeq (c : CoreId) (t : Tid) (f : RF) (s : State) : Host.Outcome State Fault Refusal :=
  s.issue c t 4 [f.ra, f.rb] (Hw.fpIns .feq f)
/-- FLT (R73). Floating-point less-than compare. -/
def execFlt (c : CoreId) (t : Tid) (f : RF) (s : State) : Host.Outcome State Fault Refusal :=
  s.issue c t 4 [f.ra, f.rb] (Hw.fpIns .flt f)
/-- FLE (R73). Floating-point less-or-equal compare. -/
def execFle (c : CoreId) (t : Tid) (f : RF) (s : State) : Host.Outcome State Fault Refusal :=
  s.issue c t 4 [f.ra, f.rb] (Hw.fpIns .fle f)
/-- FNEG (R73). Invert the sign bit, with no flag. -/
def execFneg (c : CoreId) (t : Tid) (f : RF) (s : State) : Host.Outcome State Fault Refusal :=
  s.issue c t 4 [f.ra] (Hw.fpIns .fneg f)
/-- FABS (R73). Clear the sign bit, with no flag. -/
def execFabs (c : CoreId) (t : Tid) (f : RF) (s : State) : Host.Outcome State Fault Refusal :=
  s.issue c t 4 [f.ra] (Hw.fpIns .fabs f)
/-- CVTIF (R73). Signed integer to binary64. -/
def execCvtif (c : CoreId) (t : Tid) (f : RF) (s : State) : Host.Outcome State Fault Refusal :=
  s.issue c t 4 [f.ra] (Hw.fpIns .cvtif f)
/-- CVTFI (R73). Binary64 to signed integer per rm. -/
def execCvtfi (c : CoreId) (t : Tid) (f : RF) (s : State) : Host.Outcome State Fault Refusal :=
  s.issue c t 4 [f.ra] (Hw.fpIns .cvtfi f)
/-- MOV (R74). Copy ra with its tag. -/
def execMov (c : CoreId) (t : Tid) (f : RF) (s : State) : Host.Outcome State Fault Refusal :=
  s.issue c t 4 [f.ra] (Hw.tagIns .mov f)
/-- RETAG_I (R74). Copy the payload tagged INT. -/
def execRetagI (c : CoreId) (t : Tid) (f : RF) (s : State) : Host.Outcome State Fault Refusal :=
  s.issue c t 4 [f.ra] (Hw.tagIns .retagI f)
/-- RETAG_F (R74). Copy the payload tagged FP. -/
def execRetagF (c : CoreId) (t : Tid) (f : RF) (s : State) : Host.Outcome State Fault Refusal :=
  s.issue c t 4 [f.ra] (Hw.tagIns .retagF f)
/-- TAGOF (R74). Write the tag code of ra as INT. -/
def execTagof (c : CoreId) (t : Tid) (f : RF) (s : State) : Host.Outcome State Fault Refusal :=
  s.issue c t 4 [f.ra] (Hw.tagIns .tagof f)
/-- CLR (R74). Set rd to NIL with payload 0. -/
def execClr (c : CoreId) (t : Tid) (f : RF) (s : State) : Host.Outcome State Fault Refusal :=
  s.issue c t 4 [] (Hw.tagIns .clr f)
/-- EVHND (R74). Turn a well-formed event handle into an EVH word. -/
def execEvhnd (c : CoreId) (t : Tid) (f : RF) (s : State) : Host.Outcome State Fault Refusal :=
  s.issue c t 4 [f.ra] (Hw.tagIns .evhnd f)
/-- ADDA (R75). Address plus integer, keeping the address tag. -/
def execAdda (c : CoreId) (t : Tid) (f : RF) (s : State) : Host.Outcome State Fault Refusal :=
  s.issue c t 4 [f.ra, f.rb] (Hw.addrIns .adda f)
/-- SUBA (R75). Address minus integer. -/
def execSuba (c : CoreId) (t : Tid) (f : RF) (s : State) : Host.Outcome State Fault Refusal :=
  s.issue c t 4 [f.ra, f.rb] (Hw.addrIns .suba f)
/-- DIFA (R75). Signed difference of two addresses of one space. -/
def execDifa (c : CoreId) (t : Tid) (f : RF) (s : State) : Host.Outcome State Fault Refusal :=
  s.issue c t 4 [f.ra, f.rb] (Hw.addrIns .difa f)
/-- AEQ (R75). Address equality. -/
def execAeq (c : CoreId) (t : Tid) (f : RF) (s : State) : Host.Outcome State Fault Refusal :=
  s.issue c t 4 [f.ra, f.rb] (Hw.addrIns .aeq f)
/-- ALT (R75). Unsigned address less-than. -/
def execAlt (c : CoreId) (t : Tid) (f : RF) (s : State) : Host.Outcome State Fault Refusal :=
  s.issue c t 4 [f.ra, f.rb] (Hw.addrIns .alt f)
/-- ALIGNA (R75). Round an address down to a power-of-two multiple. -/
def execAligna (c : CoreId) (t : Tid) (f : RF) (s : State) : Host.Outcome State Fault Refusal :=
  s.issue c t 4 [f.ra, f.rb] (Hw.addrIns .aligna f)
/-- ADDAI (R75). Address plus signed immediate. -/
def execAddai (c : CoreId) (t : Tid) (f : IF) (s : State) : Host.Outcome State Fault Refusal :=
  s.issue c t 4 [f.ra] (Hw.addaiIns f)
/-- LEAPC (R75). PC-relative address tagged as the PC. -/
def execLeapc (c : CoreId) (t : Tid) (f : IF) (s : State) : Host.Outcome State Fault Refusal :=
  s.issue c t 4 [] (Hw.leapcIns 0x11 f.rd (f.ra = 0) f.imm.toInt)
/-- LI_L (R82). Load a 48-bit sign-extended immediate. -/
def execLiL (c : CoreId) (t : Tid) (f : LF) (s : State) : Host.Outcome State Fault Refusal :=
  s.issue c t 8 [] (Hw.liLIns f)
/-- ADDI_L (R82). Add a 48-bit immediate to rd. -/
def execAddiL (c : CoreId) (t : Tid) (f : LF) (s : State) : Host.Outcome State Fault Refusal :=
  s.issue c t 8 [f.rd] (Hw.addiLIns f)
/-- ADDAI_L (R82). Add a 48-bit immediate to an address in rd. -/
def execAddaiL (c : CoreId) (t : Tid) (f : LF) (s : State) : Host.Outcome State Fault Refusal :=
  s.issue c t 8 [f.rd] (Hw.addaiLIns f)
/-- LEAPC_L (R82). Long PC-relative address. -/
def execLeapcL (c : CoreId) (t : Tid) (f : LF) (s : State) : Host.Outcome State Fault Refusal :=
  s.issue c t 8 [] (Hw.leapcIns 0x3E f.rd true f.imm.toInt)

end Sys2Proof.Machine
end

