-- ==== Sys2Proof/Machine/Cache.lean ====
section
/-! DEFINITION. The global data cache and a core's requests into the mesh (spec 04 R145–R150), the cache and
translation-buffer instructions (R148, R153), FENCE.G (R149) and the instruction cache (spec 02 R84). -/

namespace Sys2Proof.Machine

/-- Bytes of a data-cache line. -/
def lineBytes : Nat := 128

def Core.dcFind (k : Core) (pline : Nat) : Option DLine := k.dcache.find? fun l => l.pline == pline
def Core.dcDrop (k : Core) (pline : Nat) : Core := { k with dcache := k.dcache.filter fun l => l.pline != pline }
/-- The line put in its way; any line of that set and way leaves. -/
def Core.dcPut (k : Core) (l : DLine) : Core :=
  { k with dcache := l :: k.dcache.filter fun m =>
      m.pline != l.pline && !(decide (m.pline % 128 = l.pline % 128) && m.way == l.way) }

/-- Requests of a core that are outstanding, by kind (R146, R147). -/
def OutKind.isFill : OutKind → Bool | .fill _ => true | _ => false
def OutKind.isFillOf (p : Nat) : OutKind → Bool | .fill q => p == q | _ => false
def Core.fills (k : Core) : Nat := (k.outs.filter fun o => o.kind.isFill).length
def Core.posts (k : Core) : Nat := (k.outs.filter fun o => o.kind == .post).length
def Core.wbacks (k : Core) : Nat := (k.outs.filter fun o => o.kind == .wback).length
def Core.hasRead (k : Core) (t : Tid) : Bool := k.outs.any fun o => o.kind == .read && o.thread == t
def Core.hasFill (k : Core) (pline : Nat) : Bool := k.outs.any fun o => o.kind.isFillOf pline

/-- A request enters the mesh, behind every earlier one (R231); the core expects its answer (R127), also of one that an armed
injection loses on its way (R432). -/
def Hw.request (h : Hw) (c : CoreId) (t : Tid) (kind : OutKind) (write : Bool) (addr len : Nat) (data : List (Nat × Byte))
    (poison : Bool) : Hw :=
  let id := h.nextId
  let r : MReq := { id := id, core := c, thread := t, write := write, addr := addr, len := len, data := data, poison := poison
                    unc := decide (kind = .read ∨ kind = .post) }
  let o : OutReq := { id := id, thread := t, kind := kind }
  let h := { h with nextId := id + 1 }.updC c.val fun k => { k with outs := k.outs ++ [o] }
  match h.injectHops 0 none (!data.isEmpty) false (h.reqRoute c.val addr) with
  | (h, some bad) => { h with reqs := h.reqs ++ [{ r with poison := poison || bad }] }
  | (h, none) => h

/-- The dirty bytes of a line as one masked write, by physical address (R146). -/
def DLine.dirtyBytes (l : DLine) : List (Nat × Byte) :=
  (bitsOf 128 l.dirty).map fun i => (l.pline * 128 + i, l.bytes.getD i 0)

/-- A write-back of the dirty bytes of a line; the caller has seen a free slot (R146). -/
def Hw.writeBack (h : Hw) (c : CoreId) (t : Tid) (l : DLine) (poison : Bool) : Hw :=
  h.request c t .wback true (l.pline * 128) 128 l.dirtyBytes poison

/-- A piece of a global access inside one line. -/
structure Piece where
  v : Nat
  p : Nat
  n : Nat
  unc : Bool
  deriving DecidableEq, Repr

/-- A global access of `n` bytes at `a` cut at line boundaries and translated, lowest address first; through a register
page it is an aligned 32-bit word or ALIGN (R145, R151, R153, R155). `log` is ALIGN's detail. A fault's XADDR is the first byte
of the piece that fails, which R155 states only of a tile row (DESIGN CHOICE, log 110). -/
def Hw.piecesGo (h : Hw) (c : CoreId) (priv : Bool) (u : Use) (word : Bool) (log : Nat) :
    Nat → Nat → Nat → Except Exc (List Piece)
  | 0, _, _ => .ok []
  | fuel + 1, a, n =>
    if n = 0 then .ok []
    else
      let m := Nat.min n (128 - a % 128)
      let regPage := match (h.core c.val).tbFind a with
        | some (_, e) => decide (regBase ≤ e.pbase) && decide (e.pbase < regTop)
        | none => false
      if regPage && !word then .error (alignExc log a)
      else do
        let (p, unc) ← h.xlate c priv u a
        let r ← h.piecesGo c priv u word log fuel (a + m) (n - m)
        .ok ({ v := a, p := p, n := m, unc := unc } :: r)

def Hw.pieces (h : Hw) (c : CoreId) (priv : Bool) (u : Use) (log a n : Nat) : Except Exc (List Piece) :=
  h.piecesGo c priv u (decide (n = 4) && decide (a % 4 = 0)) log 4 a n

/-- The outcome of a global access: the bytes, a wait for requests, or ECC. -/
inductive GRes where
  | data (h : Hw) (bs : List Byte)
  | wait (h : Hw)
  | err (h : Hw) (e : Exc)

/-- A cached line is made present: a hit, a fill that is under way or now requested (at most 8, R146), or a dirty line
with an uncorrectable error, which leaves as poisoned once a write-back slot is free (R146, R430). A clean line with one is
filled again, a corrected error counted (R422, R430). The result is `none` while the line is missing. DC_MISS_CNT counts the
misses that send a fill, not those that meet one under way: R172 leaves it open (DESIGN CHOICE, log 110). -/
def Hw.dcTouch (h : Hw) (c : CoreId) (t : Tid) (pline : Nat) : Except (Hw × Nat) (Hw × Option DLine) :=
  let miss (h : Hw) : Hw :=
    if (h.core c.val).hasFill pline || decide (8 ≤ (h.core c.val).fills) then h
    else (h.request c t (.fill pline) false (pline * 128) 128 [] false).updCpg c.val 0x0A0 fun v => satAdd 32 v 1
  match (h.core c.val).dcFind pline with
  | none => .ok (miss h, none)
  | some l =>
    if l.bad = 1 then
      let l := { l with bad := 0 }
      .ok ((h.updC c.val fun k => k.dcPut l).corrected (dieOf c.val) (siteIx c.val), some l)
    else if 2 ≤ l.bad.toNat then
      if l.dirty = 0 then
        .ok (miss ((h.updC c.val fun k => k.dcDrop pline).corrected (dieOf c.val) (siteIx c.val)), none)
      else if 8 ≤ (h.core c.val).wbacks then .ok (h, none)
      else .error (((h.updC c.val fun k => k.dcDrop pline).writeBack c t l true).errCount (dieOf c.val) (siteIx c.val) 2,
        pline)
    else .ok (h, some l)

/-- A global read: cached pieces from the cache, uncached ones by requests in order (R145, R147). `unc` are the uncached
bytes that have arrived, `acc` the bytes read so far, none once a piece is missing. -/
def Hw.greadGo (h : Hw) (c : CoreId) (t : Tid) : List Piece → List Byte → Option (List Byte) → GRes
  | [], _, some acc => .data h acc
  | [], _, none => .wait h
  | q :: qs, unc, acc =>
    if q.unc then
      if q.n ≤ unc.length then h.greadGo c t qs (unc.drop q.n) (acc.map (· ++ unc.take q.n))
      else if (h.core c.val).hasRead t then .wait h
      else .wait (h.request c t .read false q.p q.n [] false)
    else
      match h.dcTouch c t (q.p / 128) with
      | .error (h, l) => .err h (eccExc 8 1 0 0 (l * 128 + q.p % 128))
      | .ok (h, none) => h.greadGo c t qs unc none
      | .ok (h, some l) => h.greadGo c t qs unc (acc.map (· ++ sub l.bytes (q.p % 128) q.n))

/-- The error an answer of the thread's requests brought, taken once (R426 source 7). -/
def Hw.takeErr (h : Hw) (c : CoreId) (t : Tid) : Option (BitVec 4) × Hw :=
  ((h.thr c t).respErr, h.updT c t fun x => { x with respErr := none })

/-- Two spans, address and length, share a byte. -/
def spanMeet (a b : Nat × Nat) : Bool := decide (a.1 < b.1 + b.2) && decide (b.1 < a.1 + a.2)

/-- An access issued earlier by another thread waits, and one of the two is a store to bytes of the other: issue order holds
this one back (R147). -/
def Core.behind (k : Core) (t : Tid) (write : Bool) (ps : List Piece) : Bool :=
  (k.gwaits.takeWhile fun g => g.thread != t).any fun g =>
    (write || g.write) && decide ((k.thr g.thread).state = .waitReq) &&
      g.spans.any fun s => ps.any fun q => spanMeet s (q.p, q.n)

/-- The bytes of a read for which nothing is on its way: `got` uncached bytes have arrived, and one request may be out. -/
def openSpans : Nat → Bool → List Piece → List (Nat × Nat)
  | _, _, [] => []
  | got, out, q :: qs =>
    if !q.unc then (q.p, q.n) :: openSpans got out qs
    else if q.n ≤ got then openSpans (got - q.n) out qs
    else if out then openSpans 0 false qs
    else (q.p, q.n) :: openSpans 0 false qs

/-- The access of a thread takes its place among those that wait, or leaves them when it is done (R147). -/
def GRes.placed (r : GRes) (c : CoreId) (t : Tid) (write : Bool) (ps : List Piece) : GRes :=
  let off (h : Hw) : Hw := h.updC c.val fun k => { k with gwaits := k.gwaits.filter fun g => g.thread != t }
  match r with
  | .data h bs => .data (off h) bs
  | .err h e => .err (off h) e
  | .wait h =>
    let k := h.core c.val
    let g : GWait := ⟨t, write,
      if write then ps.map fun q => (q.p, q.n) else openSpans ((h.thr c t).resp.getD []).length (k.hasRead t) ps⟩
    .wait (h.updC c.val fun k => { k with gwaits :=
      if (k.gwaits.any fun e => e.thread == t) = true then k.gwaits.map fun e => if e.thread = t then g else e
      else k.gwaits ++ [g] })

/-- A global read of the pieces of an access, behind those that issue order puts before it (R147). -/
def Hw.gread (h : Hw) (c : CoreId) (t : Tid) (ps : List Piece) : GRes :=
  let a := match ps with | q :: _ => q.v | [] => 0
  GRes.placed (c := c) (t := t) (write := false) (ps := ps) <|
  if (h.core c.val).behind t false ps then .wait h
  else
  match h.takeErr c t with
  | (some k, h) => .err (h.updT c t fun x => { x with resp := none }) (eccExc 7 k.toNat 0 0 a)
  | (none, _) =>
    match h.greadGo c t ps ((h.thr c t).resp.getD []) (some []) with
    | .data h bs => .data (h.updT c t fun x => { x with resp := none }) bs
    | r => r

/-- Every cached line of a store is present, or its fill is requested (R146: a store miss fills first). -/
def Hw.gwriteReady (h : Hw) (c : CoreId) (t : Tid) : List Piece → Bool → Except (Hw × Nat) (Hw × Bool)
  | [], ok => .ok (h, ok)
  | q :: qs, ok =>
    if q.unc then h.gwriteReady c t qs ok
    else match h.dcTouch c t (q.p / 128) with
      | .error e => .error e
      | .ok (h, l) => h.gwriteReady c t qs (ok && l.isSome)

/-- Bytes of a line replaced and marked dirty; an absent byte is not written. -/
def DLine.write (l : DLine) : Nat → List (Option Byte) → DLine
  | _, [] => l
  | i, none :: bs => l.write (i + 1) bs
  | i, some b :: bs => ({ l with bytes := l.bytes.set i b, dirty := l.dirty ||| BitVec.ofNat 128 (2 ^ i) }).write (i + 1) bs

/-- The bytes of a store performed: into lines, or posted (R145–R147). -/
def Hw.gwriteGo (h : Hw) (c : CoreId) (t : Tid) : List Piece → List (Option Byte) → Hw
  | [], _ => h
  | q :: qs, bs =>
    let mine := bs.take q.n
    let h :=
      if q.unc then
        let d := (mine.zipIdx).filterMap fun b => b.1.map fun x => (q.p + b.2, x)
        if d = [] then h else h.request c t .post true q.p q.n d false
      else match (h.core c.val).dcFind (q.p / 128) with
        | some l => h.updC c.val fun k => k.dcPut (l.write (q.p % 128) mine)
        | none => h
    h.gwriteGo c t qs (bs.drop q.n)

/-- A global store; up to 16 uncached stores are posted (R147). -/
def Hw.gwrite (h : Hw) (c : CoreId) (t : Tid) (ps : List Piece) (bs : List (Option Byte)) : GRes :=
  let a := match ps with | q :: _ => q.v | [] => 0
  GRes.placed (c := c) (t := t) (write := true) (ps := ps) <|
  if (h.core c.val).behind t true ps then .wait h
  else
  match h.takeErr c t with
  | (some k, h) => .err h (eccExc 7 k.toNat 0 0 a)
  | (none, _) =>
    match h.gwriteReady c t ps true with
    | .error (h, l) => .err h (eccExc 8 1 0 0 (l * 128))
    | .ok (h, false) => .wait h
    | .ok (h, true) =>
      if 16 < (h.core c.val).posts + (ps.filter (·.unc)).length then .wait h
      else .data (h.gwriteGo c t ps bs) []

/-- A thread waits for its requests (R95). -/
def Hw.park (h : Hw) (c : CoreId) (t : Tid) (s : TState) (w : Wait) : Hw :=
  h.updT c t fun x => { x with state := s, wait := w }
def Hw.waitReq (h : Hw) (c : CoreId) (t : Tid) (p : Pend) : IRes := .ok (h.park c t .waitReq (.req p)) .stay

/-! ### Cache-line and translation-buffer instructions (R148) -/

/-- Write a line back if dirty; `inv` also invalidates it. None while no write-back slot is free (R146). -/
def Hw.flushLine (h : Hw) (c : CoreId) (t : Tid) (inv : Bool) (l : DLine) : Option Hw :=
  let done (h : Hw) : Hw := h.updC c.val fun k => if inv then k.dcDrop l.pline else k.dcPut { l with dirty := 0 }
  if l.dirty = 0 then some (if inv then done h else h)
  else if 8 ≤ (h.core c.val).wbacks then none
  else some (done (h.writeBack c t l (decide (2 ≤ l.bad.toNat))))

/-- The same for every line, as far as slots are free; answers whether it is finished. -/
def Hw.flushAll (h : Hw) (c : CoreId) (t : Tid) (inv : Bool) : List DLine → Hw × Bool
  | [] => (h, true)
  | l :: ls =>
    match h.flushLine c t inv l with
    | none => (h, false)
    | some h => h.flushAll c t inv ls

/-- A global line operand: the physical line, read permission for DCFLUSH.L and write permission for the others (R148). R62's
range check takes it as an access of 1 byte, which no rule says (DESIGN CHOICE, log 110). -/
def Hw.lineOf (h : Hw) (c : CoreId) (t : Tid) (write : Bool) (a : TWord) : Except Exc (Option Nat) := do
  inSpace 0 a.tag a.val.toNat 1
  if a.tag = .laddr then .ok none
  else do
    let (p, _) ← h.xlate c (h.thr c t).st.priv (if write then .write else .read) a.val.toNat
    .ok (some (p / 128))

/-- DCFLUSH.L, DCFI.L, DCFLUSH and DCFI; each waits in WAIT_REQ for a write-back slot and then goes on (R146, R148). -/
def Hw.dcIns (op : DcOp) (f : RF) (h : Hw) (c : CoreId) (t : Tid) : IRes :=
  let inv := op == .fiL || op == .fi
  if op == .flushL || op == .fiL then
    match (do
      mbz 0x31 (f.rd = 0 && f.rb = 0)
      let a ← needAddr 0 ((h.thr c t).rd f.ra)
      h.lineOf c t inv a : Except Exc (Option Nat)) with
    | .error e => .exc h e
    | .ok none => .ok h .seq
    | .ok (some pl) =>
      match (h.core c.val).dcFind pl with
      | none => .ok h .seq
      | some l =>
        match h.flushLine c t inv l with
        | some h => .ok h .seq
        | none => h.waitReq c t (.dc op f)
  else
    match mbz 0x31 (f.rd = 0 && f.ra = 0 && f.rb = 0) with
    | .error e => .exc h e
    | .ok _ =>
      match h.flushAll c t inv (h.core c.val).dcache with
      | (h, true) => .ok h .seq
      | (h, false) => h.waitReq c t (.dc op f)

/-- DCINV.L and DCINV (R148). -/
def Hw.dcinvLIns (f : RF) (h : Hw) (c : CoreId) (t : Tid) : IRes :=
  IRes.ofE h do
    mbz 0x31 (f.rd = 0 && f.rb = 0)
    let a ← needAddr 0 ((h.thr c t).rd f.ra)
    let l ← h.lineOf c t true a
    .ok (match l with | none => h | some pl => h.updC c.val fun k => k.dcDrop pl, .seq)
def Hw.dcinvIns (f : RF) (h : Hw) (c : CoreId) (t : Tid) : IRes :=
  IRes.ofE h do
    mbz 0x31 (f.rd = 0 && f.ra = 0 && f.rb = 0)
    needPriv (h.thr c t) 0x31 0
    .ok (h.updC c.val fun k => { k with dcache := [] }, .seq)

/-- A page lies wholly within one populated region (R153). -/
def Hw.pageOk (h : Hw) (e : TbEnt) : Bool :=
  let a := e.pbase
  let b := a + e.size
  decide (b ≤ h.gddrTop) || (decide (cxlBase ≤ a) && decide (b ≤ h.cxlTop)) ||
    (decide (regBase ≤ a) && decide (b ≤ regTop) && decide (fld e.p 1 0 = 1))

/-- What TBWR refuses of a valid entry (R153). -/
def Hw.tbOk (h : Hw) (e : TbEnt) : Bool :=
  decide (fld e.v 63 48 = 0) && decide (fld e.v 15 2 = 0) && decide (fld e.p 63 48 = 0) && decide (fld e.p 15 8 = 0) &&
    !e.p.getLsbD 2 && (!e.v.getLsbD 1 || (decide (fld e.v 20 16 = 0) && decide (fld e.p 20 16 = 0))) &&
    decide (fld e.p 1 0 < 2) && h.pageOk e

/-- Two entries whose pages overlap. -/
def TbEnt.overlaps (a b : TbEnt) : Bool :=
  a.valid && b.valid && decide (a.vbase < b.vbase + b.size) && decide (b.vbase < a.vbase + a.size)

/-- TBWR (R153); reserved bits of an entry read 0 (R152). -/
def Hw.tbwrIns (f : RF) (h : Hw) (c : CoreId) (t : Tid) : IRes :=
  IRes.ofE h do
    let x := h.thr c t
    needPriv x 0x31 0
    let v ← needInt 0 (x.rd f.ra)
    let p ← needInt 1 (x.rd f.rb)
    let i ← needInt 2 (x.rd f.rd)
    inRange 0x31 (decide (i.toNat < 64))
    inRange 0x31 (!v.getLsbD 0 || h.tbOk ⟨v, p⟩)
    let e : TbEnt := ⟨v &&& 0xFFFFFFFF0003, p &&& 0xFFFFFFFF00FB⟩
    .ok (h.updC c.val fun k =>
      { k with tb := put (if e.valid then k.tb.map fun q => (q.1, if e.overlaps q.2 then { q.2 with v := setBit q.2.v 0 false }
                                                                 else q.2) else k.tb) i.toNat e }, .seq)

/-- TBRD.V and TBRD.P (R148). -/
def Hw.tbrdIns (p : Bool) (f : RF) (h : Hw) (c : CoreId) (t : Tid) : IRes :=
  IRes.ofE h do
    mbz 0x31 (f.rb = 0)
    needPriv (h.thr c t) 0x31 0
    let i ← needInt 0 ((h.thr c t).rd f.ra)
    inRange 0x31 (decide (i.toNat < 64))
    let e := (h.core c.val).tbEnt i.toNat
    .ok (h.wrG c t f.rd (int (if p then e.p else e.v)), .seq)

/-- TBINV and TBINVA (R148). -/
def Hw.tbinvIns (f : RF) (h : Hw) (c : CoreId) (t : Tid) : IRes :=
  IRes.ofE h do
    mbz 0x31 (f.rd = 0 && f.rb = 0)
    needPriv (h.thr c t) 0x31 0
    let a ← needInt 0 ((h.thr c t).rd f.ra)
    .ok (h.updC c.val fun k =>
      { k with tb := k.tb.map fun q => (q.1, if q.2.maps a.toNat then { q.2 with v := setBit q.2.v 0 false } else q.2) },
      .seq)
def Hw.tbinvaIns (f : RF) (h : Hw) (c : CoreId) (t : Tid) : IRes :=
  IRes.ofE h do
    mbz 0x31 (f.rd = 0 && f.ra = 0 && f.rb = 0)
    needPriv (h.thr c t) 0x31 0
    .ok (h.updC c.val fun k => { k with tb := k.tb.map fun q => (q.1, { q.2 with v := setBit q.2.v 0 false }) }, .seq)

/-- TBPROBE (R148). -/
def Hw.tbprobeIns (f : RF) (h : Hw) (c : CoreId) (t : Tid) : IRes :=
  IRes.ofE h do
    mbz 0x31 (f.rb = 0)
    needPriv (h.thr c t) 0x31 0
    let a ← needInt 0 ((h.thr c t).rd f.ra)
    let r : Word := match (h.core c.val).tbFind a.toNat with | some (i, _) => BitVec.ofNat 64 i | none => BitVec.allOnes 64
    .ok (h.wrG c t f.rd (int r), .seq)

/-- FENCE (R149): FENCE.G waits for the thread's stores, uncached accesses and write-backs. -/
def Hw.fenceGo (h : Hw) (c : CoreId) (t : Tid) : IRes :=
  match h.takeErr c t with
  | (some k, h) => .exc h (eccExc 7 k.toNat 0 0 0)
  | (none, _) =>
    if (h.core c.val).outs.any fun o => o.thread == t && !o.kind.isFill then h.waitReq c t .fence else .ok h .seq
def Hw.fenceIns (f : SF) (h : Hw) (c : CoreId) (t : Tid) : IRes :=
  match (do
    mbz 0x05 (f.rd = 0 && f.ra = 0)
    assigned 0x05 (f.x = 0) : Except Exc Unit) with
  | .error e => .exc h e
  | .ok _ => h.fenceGo c t

/-- ICINV and ICINV.L (R83, R84): the lines of the instruction cache, 64 bytes each. -/
def Hw.icinvIns (f : SF) (h : Hw) (c : CoreId) (t : Tid) : IRes :=
  IRes.ofE h do
    mbz 0x05 (f.rd = 0 && f.ra = 0 && f.x = 0)
    needPriv (h.thr c t) 0x05 21
    .ok (h.updC c.val fun k => { k with icache := [] }, .seq)
/-- ICINV.L. The tag and the range of the address are checked, and it is not translated: the line dropped is the one of that
address as it is fetched by, whatever its page. R84 does not say whether it is translated (DESIGN CHOICE, log 110). -/
def Hw.icinvLIns (f : SF) (h : Hw) (c : CoreId) (t : Tid) : IRes :=
  IRes.ofE h do
    mbz 0x05 (f.rd = 0 && f.x = 0)
    let a ← needAddr 0 ((h.thr c t).rd f.ra)
    inSpace 0 a.tag a.val.toNat 1
    .ok (h.updC c.val fun k =>
      { k with icache := k.icache.filter fun l => l != (decide (a.tag = .gaddr), a.val.toNat / 64) }, .seq)

/-! ### The meanings -/

/-- DCFLUSH_L (R148). Write back the dirty bytes of one data-cache line. -/
def execDcflushL (c : CoreId) (t : Tid) (f : RF) (s : State) : Host.Outcome State Fault Refusal :=
  s.issue c t 4 [f.ra] (Hw.dcIns .flushL f)
/-- DCINV_L (R148). Invalidate one data-cache line. -/
def execDcinvL (c : CoreId) (t : Tid) (f : RF) (s : State) : Host.Outcome State Fault Refusal :=
  s.issue c t 4 [f.ra] (Hw.dcinvLIns f)
/-- DCFI_L (R148). Write back and invalidate one line. -/
def execDcfiL (c : CoreId) (t : Tid) (f : RF) (s : State) : Host.Outcome State Fault Refusal :=
  s.issue c t 4 [f.ra] (Hw.dcIns .fiL f)
/-- DCFLUSH (R148). Write back every dirty line. -/
def execDcflush (c : CoreId) (t : Tid) (f : RF) (s : State) : Host.Outcome State Fault Refusal :=
  s.issue c t 4 [] (Hw.dcIns .flush f)
/-- DCFI (R148). Write back and invalidate every line. -/
def execDcfi (c : CoreId) (t : Tid) (f : RF) (s : State) : Host.Outcome State Fault Refusal :=
  s.issue c t 4 [] (Hw.dcIns .fi f)
/-- DCINV (R148). Invalidate every line, discarding dirty bytes. -/
def execDcinv (c : CoreId) (t : Tid) (f : RF) (s : State) : Host.Outcome State Fault Refusal :=
  s.issue c t 4 [] (Hw.dcinvIns f)
/-- TBWR (R153). Write a translation-buffer entry, invalidating overlaps. -/
def execTbwr (c : CoreId) (t : Tid) (f : RF) (s : State) : Host.Outcome State Fault Refusal :=
  s.issue c t 4 [f.ra, f.rb, f.rd] (Hw.tbwrIns f)
/-- TBRD_V (R148). Read word V of an entry. -/
def execTbrdV (c : CoreId) (t : Tid) (f : RF) (s : State) : Host.Outcome State Fault Refusal :=
  s.issue c t 4 [f.ra] (Hw.tbrdIns false f)
/-- TBRD_P (R148). Read word P of an entry. -/
def execTbrdP (c : CoreId) (t : Tid) (f : RF) (s : State) : Host.Outcome State Fault Refusal :=
  s.issue c t 4 [f.ra] (Hw.tbrdIns true f)
/-- TBINV (R148). Invalidate entries mapping an address. -/
def execTbinv (c : CoreId) (t : Tid) (f : RF) (s : State) : Host.Outcome State Fault Refusal :=
  s.issue c t 4 [f.ra] (Hw.tbinvIns f)
/-- TBINVA (R148). Invalidate all entries. -/
def execTbinva (c : CoreId) (t : Tid) (f : RF) (s : State) : Host.Outcome State Fault Refusal :=
  s.issue c t 4 [] (Hw.tbinvaIns f)
/-- TBPROBE (R148). Return the index of the entry mapping an address. -/
def execTbprobe (c : CoreId) (t : Tid) (f : RF) (s : State) : Host.Outcome State Fault Refusal :=
  s.issue c t 4 [f.ra] (Hw.tbprobeIns f)
/-- FENCE_G (R149). Wait until the thread's global stores and write-backs are acknowledged. -/
def execFenceG (c : CoreId) (t : Tid) (f : SF) (s : State) : Host.Outcome State Fault Refusal :=
  s.issue c t 4 [] (Hw.fenceIns f)
/-- ICINV (R84). Invalidate the whole instruction cache. -/
def execIcinv (c : CoreId) (t : Tid) (f : SF) (s : State) : Host.Outcome State Fault Refusal :=
  s.issue c t 4 [] (Hw.icinvIns f)
/-- ICINV_L (R84). Invalidate one instruction-cache line. -/
def execIcinvL (c : CoreId) (t : Tid) (f : SF) (s : State) : Host.Outcome State Fault Refusal :=
  s.issue c t 4 [f.ra] (Hw.icinvLIns f)

end Sys2Proof.Machine
end

