-- ==== Sys2Proof/Machine/LoadStore.lean ====
section
/-! DEFINITION. Scalar and vector loads and stores (spec 02 R58–R60, R62, R77, R78; spec 05 R194), in local memory and
through the data cache or uncached (spec 04 R145–R147). -/

namespace Sys2Proof.Machine

/-- log₂ of the access size of a size code (R77). -/
def sizeLog (s : BitVec 3) : Nat := s.toNat / 2
def sizeBytes (s : BitVec 3) : Nat := 2 ^ sizeLog s

/-- Sign or zero extension of a loaded value (R77): odd codes are unsigned. -/
def extend (s : BitVec 3) (bs : List Byte) : Word :=
  let n := leNat bs
  if s.toNat % 2 = 1 ∨ s.toNat = 6 then BitVec.ofNat 64 n else ofI (sgn (8 * sizeBytes s) n)

/-- An effective address: where the access lies, and what a post-increment writes to ra (R77). -/
structure Eff where
  a : TWord
  post : Option TWord
  deriving DecidableEq, Repr

/-- The effective address of an access of `n` bytes with offset `d` (R61, R62, R77). -/
def effAddr (ra : TWord) (d : Int) (post : Bool) (n : Nat) : Except Exc Eff := do
  let ra ← needAddr 0 ra
  let a := (ra.val.toNat : Int) + (if post then 0 else d)
  inSpace 0 ra.tag a n
  let p ← if post then (do let p ← addAddr 0 ra d; .ok (some p)) else .ok none
  .ok ⟨⟨ra.tag, ofI a⟩, p⟩

/-- The guard of a local user-mode write of bytes from the effective address on, which stands before TAG (R69, R135);
`at'` is the offset of the lowest byte written, none when no byte is. -/
def Hw.guardEff (h : Hw) (c : CoreId) (x : Thread) (op : Nat) (ra : TWord) (d : Int) (post : Bool) (at' : Option Nat) :
    Except Exc Unit :=
  match at' with
  | none => .ok ()
  | some k =>
    let a := (ra.val.toNat : Int) + (if post then 0 else d) + k
    if ra.tag = .laddr ∧ 0 ≤ a then h.guard c x op a.toNat else .ok ()

/-- ra after a post-increment (R77). -/
def Hw.postInc (h : Hw) (c : CoreId) (t : Tid) (ra : Reg) (e : Eff) : Hw :=
  match e.post with | some p => h.wrG c t ra p | none => h

/-- Bytes of a read: local with the word's check (R426 source 1), or global. -/
def Hw.readBytes (h : Hw) (c : CoreId) (t : Tid) (log : Nat) (a : TWord) (n : Nat) : GRes :=
  let p := a.val.toNat
  if a.tag = .laddr then
    let e := (h.core c.val).lmErr p n
    if 2 ≤ e then .err h (eccExc 1 (lmKind e) 0 0 p)
    else .data (h.lmScrub c.val p n) ((h.core c.val).lmem.readN p n)
  else
    match h.pieces c (h.thr c t).st.priv .read log p n with
    | .error e => .err h e
    | .ok ps => h.gread c t ps

/-- The checks of LD in the order of R69 (R63, R68, R77). -/
def ldEff (x : Thread) (f : MF) : Except Exc Eff := do
  assigned 0x12 (f.size ≠ 7)
  if f.post ∧ f.r = f.ra then .error (illegal 0x12 3)
  let e ← effAddr (x.rd f.ra) (f.off.toInt * sizeBytes f.size) f.post (sizeBytes f.size)
  aligned (sizeLog f.size) e.a.val.toNat
  .ok e

/-- LD (R60, R77). -/
def Hw.ldIns (f : MF) (h : Hw) (c : CoreId) (t : Tid) : IRes :=
  match ldEff (h.thr c t) f with
  | .error e => .exc h e
  | .ok e =>
    match h.readBytes c t (sizeLog f.size) e.a (sizeBytes f.size) with
    | .err h x => .exc h x
    | .wait h => h.waitReq c t (.rep (.ld f))
    | .data h' bs =>
      let tag : Tag :=
        if e.a.tag = .gaddr then .raw
        else if f.size = 6 then ((h.core c.val).ldWord e.a.val.toNat).tag else .int
      .ok ((h'.wrG c t f.r ⟨tag, extend f.size bs⟩).postInc c t f.ra e) .seq

/-- A size code of ST: 1, 3 and 5 act as 0, 2 and 4 (R77). -/
def stSize (s : BitVec 3) : BitVec 3 := if s.toNat % 2 = 1 ∧ s ≠ 7 then s - 1 else s

/-- The checks of ST (R63, R77, R135). -/
def Hw.stEff (h : Hw) (c : CoreId) (x : Thread) (f : MF) : Except Exc Eff := do
  assigned 0x13 (f.size ≠ 7)
  let d := f.off.toInt * sizeBytes f.size
  h.guardEff c x 0x13 (x.rd f.ra) d f.post (some 0)
  let e ← effAddr (x.rd f.ra) d f.post (sizeBytes f.size)
  aligned (sizeLog f.size) e.a.val.toNat
  .ok e

/-- The tag a 64-bit local store writes: STAT becomes RAW in user mode (R58, R59). -/
def storeTag (priv : Bool) (t : Tag) : Tag := if t = .stat ∧ priv = false then .raw else t

/-- ST (R58, R59, R77). -/
def Hw.stIns (f : MF) (h : Hw) (c : CoreId) (t : Tid) : IRes :=
  let x := h.thr c t
  match h.stEff c x f with
  | .error e => .exc h e
  | .ok e =>
    let v := x.rd f.r
    let a := e.a.val.toNat
    let n := sizeBytes f.size
    if e.a.tag = .laddr then
      let h := if n = 8 then h.lmStore c.val a ⟨storeTag x.st.priv v.tag, v.val⟩ else h.lmWrite c.val a (leBytes n v.val.toNat)
      .ok (h.postInc c t f.ra e) .seq
    else
      match h.pieces c x.st.priv .write (sizeLog f.size) a n with
      | .error e => .exc h e
      | .ok ps =>
        match h.gwrite c t ps ((leBytes n v.val.toNat).map some) with
        | .err h x => .exc h x
        | .wait h => h.waitReq c t (.rep (.st f))
        | .data h _ => .ok (h.postInc c t f.ra e) .seq

/-! ### Vector loads and stores (R194) -/

/-- The byte mask of a vector instruction: km 0 is all bytes (R190). -/
def Thread.kmask (x : Thread) (km : BitVec 3) : Word := if km = 0 then BitVec.allOnes 64 else x.msk km.toNat

/-- The 64 bytes of a vector register, and back. -/
def vecBytes (v : VWord) : List Byte := leBytes 64 v.toNat
def vecOf (bs : List Byte) : VWord := BitVec.ofNat 512 (leNat bs)

/-- The bytes of `new` where the mask is set; elsewhere the old byte, or 0 under z (R190). -/
def maskBytes (m : Word) (z : Bool) (old new : List Byte) : List Byte :=
  (new.zip old).zipIdx.map fun p => if m.getLsbD p.2 then p.1.1 else if z then 0 else p.1.2

/-- VLD (R194). -/
def Hw.vldIns (f : VMF) (h : Hw) (c : CoreId) (t : Tid) : IRes :=
  match effAddr ((h.thr c t).rd f.ra) (f.off.toInt * 64) f.post 64 with
  | .error e => .exc h e
  | .ok e =>
    match h.readBytes c t 6 e.a 64 with
    | .err h x => .exc h x
    | .wait h => h.waitReq c t (.rep (.vld f))
    | .data h bs =>
      let h := h.updT c t fun x =>
        x.setVec f.v (vecOf (maskBytes (x.kmask f.km) f.z (vecBytes (x.vec f.v)) bs))
      .ok (h.postInc c t f.ra e) .seq

/-- The local bytes of a masked store, run by run of consecutive active bytes (R194). -/
def maskedWrite (h : Hw) (c a : Nat) : List (Option Byte) → Nat → List Byte → Hw
  | [], at', run => h.lmWrite c (a + at' - run.length) run.reverse
  | none :: bs, at', run => maskedWrite (h.lmWrite c (a + at' - run.length) run.reverse) c a bs (at' + 1) []
  | some b :: bs, at', run => maskedWrite h c a bs (at' + 1) (b :: run)

/-- VST (R194): PRIV over the bytes that the active lanes write, everything else over all 64 bytes. -/
def Hw.vstIns (f : VMF) (h : Hw) (c : CoreId) (t : Tid) : IRes :=
  let x := h.thr c t
  let m := x.kmask f.km
  let d := f.off.toInt * 64
  match (do
    mbz 0x22 (!f.z)
    h.guardEff c x 0x22 (x.rd f.ra) d f.post ((bitsOf 64 m).head?)
    effAddr (x.rd f.ra) d f.post 64 : Except Exc Eff) with
  | .error e => .exc h e
  | .ok e =>
    let bs := (vecBytes (x.vec f.v)).zipIdx.map fun p => if m.getLsbD p.2 then some p.1 else none
    let a := e.a.val.toNat
    if e.a.tag = .laddr then .ok ((maskedWrite h c.val a bs 0 []).postInc c t f.ra e) .seq
    else
      match h.pieces c x.st.priv .write 6 a 64 with
      | .error e => .exc h e
      | .ok ps =>
        match h.gwrite c t ps bs with
        | .err h x => .exc h x
        | .wait h => h.waitReq c t (.rep (.vst f))
        | .data h _ => .ok (h.postInc c t f.ra e) .seq

/-! ### The meanings -/

/-- LD (R77). Scalar load with optional post-increment. -/
def execLd (c : CoreId) (t : Tid) (f : MF) (s : State) : Host.Outcome State Fault Refusal :=
  s.issue c t 4 [f.ra] (Hw.ldIns f)
/-- ST (R77). Scalar store with optional post-increment. -/
def execSt (c : CoreId) (t : Tid) (f : MF) (s : State) : Host.Outcome State Fault Refusal :=
  s.issue c t 4 [f.ra, f.r] (Hw.stIns f)
/-- VLD (R194). Vector load of 64 bytes. -/
def execVld (c : CoreId) (t : Tid) (f : VMF) (s : State) : Host.Outcome State Fault Refusal :=
  s.issue c t 4 [f.ra] (Hw.vldIns f)
/-- VST (R194). Vector store of active lanes. -/
def execVst (c : CoreId) (t : Tid) (f : VMF) (s : State) : Host.Outcome State Fault Refusal :=
  s.issue c t 4 [f.ra] (Hw.vstIns f)

end Sys2Proof.Machine
end

