-- ==== Sys2Proof/Machine/Flow.lean ====
section
/-! DEFINITION. Branches, jumps and the return stack (spec 02 R79–R82). The head of `Thread.rs` is its top. -/

namespace Sys2Proof.Machine

/-- The conditions of the B format (R79). -/
inductive Cond where
  | eq | ne | lt | ge | ltu | geu | nil | nnil
  deriving DecidableEq, Repr

/-- Major opcode of a conditional branch (R67). -/
def condOpc : Cond → Nat
  | .eq => 0x1A | .ne => 0x1B | .lt => 0x1C | .ge => 0x1D | .ltu => 0x1E | .geu => 0x1F | .nil => 0x14 | .nnil => 0x15

/-- Whether a branch is taken, its operands checked (R63, R64, R79). -/
def condTaken (op : Cond) (a b : TWord) (rb : Reg) : Except Exc Bool :=
  let ints (f : Word → Word → Bool) : Except Exc Bool := do
    let x ← needInt 0 a
    let y ← needInt 1 b
    .ok (f x y)
  let cmps (f : Word → Word → Bool) : Except Exc Bool := do
    let (x, y) ← needCmp a b
    .ok (f x y)
  match op with
  | .eq => cmps fun x y => decide (x = y)
  | .ne => cmps fun x y => decide (x ≠ y)
  | .lt => ints fun x y => x.slt y
  | .ge => ints fun x y => !x.slt y
  | .ltu => cmps fun x y => x.ult y
  | .geu => cmps fun x y => !x.ult y
  | .nil => do mbz 0x14 (rb = 0); .ok (decide (a.tag = .nil))
  | .nnil => do mbz 0x15 (rb = 0); .ok (decide (a.tag ≠ .nil))

/-- A conditional branch (R79). -/
def Hw.branchIns (op : Cond) (f : BF) (h : Hw) (c : CoreId) (t : Tid) : IRes :=
  let x := h.thr c t
  IRes.ofE h do
    let taken ← condTaken op (x.rd f.ra) (x.rd f.rb) f.rb
    if taken then do
      let p ← relPc x.pc (f.off.toInt * 4)
      .ok (h, .jump p)
    else .ok (h, .seq)

/-- CORE_CTL.rs_trap (R54). -/
def Hw.rsTrap (h : Hw) (c : Nat) : Bool := (h.cpg c 0x040).getLsbD 5

/-- A push on the return stack: a full one drops its oldest entry or raises RSTACK (R81). -/
def pushRs (trap : Bool) (rs : List TWord) (v : TWord) : Except Exc (List TWord) :=
  if rs.length < 16 then .ok (v :: rs)
  else if trap then .error ⟨11, 1, none⟩ else .ok (v :: rs.take 15)

/-- A thread with a new return stack. -/
def Hw.setRs (h : Hw) (c : CoreId) (t : Tid) (rs : List TWord) : Hw := h.updT c t fun x => { x with rs := rs }

/-- B, CALL and their long forms: a relative jump over `d` bytes, with a push of the address `len` bytes on (R79–R82). -/
def Hw.jumpIns (op : Nat) (ok : Bool) (d : Int) (push : Option Nat) (h : Hw) (c : CoreId) (t : Tid) : IRes :=
  let x := h.thr c t
  IRes.ofE h do
    mbz op ok
    let p ← relPc x.pc d
    match push with
    | none => .ok (h, .jump p)
    | some len => do
      let rs ← pushRs (h.rsTrap c.val) x.rs ⟨x.pc.tag, x.pc.val + BitVec.ofNat 64 len⟩
      .ok (h.setRs c t rs, .jump p)

/-- JR and CALLR (R80, R81). -/
def Hw.jrIns (push : Bool) (f : RF) (h : Hw) (c : CoreId) (t : Tid) : IRes :=
  let x := h.thr c t
  IRes.ofE h do
    mbz 0x06 (f.rd = 0 && f.rb = 0)
    let p ← needAddr 0 (x.rd f.ra)
    if push then do
      let rs ← pushRs (h.rsTrap c.val) x.rs ⟨x.pc.tag, x.pc.val + 4⟩
      .ok (h.setRs c t rs, .jump p)
    else .ok (h, .jump p)

/-- RET (R80, R82): an empty stack yields NIL, which is no target. -/
def Hw.retIns (f : RF) (h : Hw) (c : CoreId) (t : Tid) : IRes :=
  IRes.ofE h do
    mbz 0x06 (f.rd = 0 && f.ra = 0 && f.rb = 0)
    match (h.thr c t).rs with
    | [] => .error (tagExc 3 3 .nil)
    | p :: rs => if p.tag.isAddr then .ok (h.setRs c t rs, .jump p) else .error (tagExc 0 3 p.tag)

/-- RSSAVE and RSSAVE.B (R80). -/
def Hw.rssaveIns (bottom : Bool) (f : RF) (h : Hw) (c : CoreId) (t : Tid) : IRes :=
  let rs := (h.thr c t).rs
  IRes.ofE h do
    mbz 0x06 (f.ra = 0 && f.rb = 0)
    if bottom then .ok ((h.setRs c t rs.dropLast).wrG c t f.rd (rs.getLastD {}), .seq)
    else .ok ((h.setRs c t rs.tail).wrG c t f.rd (rs.headD {}), .seq)

/-- RSLOAD and RSLOAD.B (R80, R81). -/
def Hw.rsloadIns (bottom : Bool) (f : RF) (h : Hw) (c : CoreId) (t : Tid) : IRes :=
  let x := h.thr c t
  IRes.ofE h do
    mbz 0x06 (f.rd = 0 && f.rb = 0)
    let p ← needAddr 0 (x.rd f.ra)
    if bottom then
      if x.rs.length < 16 then .ok (h.setRs c t (x.rs ++ [p]), .seq) else .error ⟨11, 2, none⟩
    else do
      let rs ← pushRs (h.rsTrap c.val) x.rs p
      .ok (h.setRs c t rs, .seq)

/-! ### The meanings -/

/-- BEQ (R79). Branch if payloads are equal. -/
def execBeq (c : CoreId) (t : Tid) (f : BF) (s : State) : Host.Outcome State Fault Refusal :=
  s.issue c t 4 [f.ra, f.rb] (Hw.branchIns .eq f)
/-- BNE (R79). Branch if payloads differ. -/
def execBne (c : CoreId) (t : Tid) (f : BF) (s : State) : Host.Outcome State Fault Refusal :=
  s.issue c t 4 [f.ra, f.rb] (Hw.branchIns .ne f)
/-- BLT (R79). Branch if signed less. -/
def execBlt (c : CoreId) (t : Tid) (f : BF) (s : State) : Host.Outcome State Fault Refusal :=
  s.issue c t 4 [f.ra, f.rb] (Hw.branchIns .lt f)
/-- BGE (R79). Branch if signed greater or equal. -/
def execBge (c : CoreId) (t : Tid) (f : BF) (s : State) : Host.Outcome State Fault Refusal :=
  s.issue c t 4 [f.ra, f.rb] (Hw.branchIns .ge f)
/-- BLTU (R79). Branch if unsigned less. -/
def execBltu (c : CoreId) (t : Tid) (f : BF) (s : State) : Host.Outcome State Fault Refusal :=
  s.issue c t 4 [f.ra, f.rb] (Hw.branchIns .ltu f)
/-- BGEU (R79). Branch if unsigned greater or equal. -/
def execBgeu (c : CoreId) (t : Tid) (f : BF) (s : State) : Host.Outcome State Fault Refusal :=
  s.issue c t 4 [f.ra, f.rb] (Hw.branchIns .geu f)
/-- BNIL (R79). Branch if ra is NIL. -/
def execBnil (c : CoreId) (t : Tid) (f : BF) (s : State) : Host.Outcome State Fault Refusal :=
  s.issue c t 4 [f.ra] (Hw.branchIns .nil f)
/-- BNNIL (R79). Branch if ra is not NIL. -/
def execBnnil (c : CoreId) (t : Tid) (f : BF) (s : State) : Host.Outcome State Fault Refusal :=
  s.issue c t 4 [f.ra] (Hw.branchIns .nnil f)
/-- B (R79). Unconditional relative jump. -/
def execBr (c : CoreId) (t : Tid) (off : BitVec 26) (s : State) : Host.Outcome State Fault Refusal :=
  s.issue c t 4 [] (Hw.jumpIns 0x18 true (off.toInt * 4) none)
/-- CALL (R80). Push the return address and jump relative. -/
def execCall (c : CoreId) (t : Tid) (off : BitVec 26) (s : State) : Host.Outcome State Fault Refusal :=
  s.issue c t 4 [] (Hw.jumpIns 0x19 true (off.toInt * 4) (some 4))
/-- JR (R80). Jump to an address register. -/
def execJr (c : CoreId) (t : Tid) (f : RF) (s : State) : Host.Outcome State Fault Refusal :=
  s.issue c t 4 [f.ra] (Hw.jrIns false f)
/-- CALLR (R80). Push the return address and jump to a register. -/
def execCallr (c : CoreId) (t : Tid) (f : RF) (s : State) : Host.Outcome State Fault Refusal :=
  s.issue c t 4 [f.ra] (Hw.jrIns true f)
/-- RET (R82). Pop the return stack and jump, faulting on an empty stack. -/
def execRet (c : CoreId) (t : Tid) (f : RF) (s : State) : Host.Outcome State Fault Refusal :=
  s.issue c t 4 [] (Hw.retIns f)
/-- RSSAVE (R80). Pop the top return-stack entry into rd. -/
def execRssave (c : CoreId) (t : Tid) (f : RF) (s : State) : Host.Outcome State Fault Refusal :=
  s.issue c t 4 [] (Hw.rssaveIns false f)
/-- RSSAVE_B (R80). Remove the bottom return-stack entry into rd. -/
def execRssaveB (c : CoreId) (t : Tid) (f : RF) (s : State) : Host.Outcome State Fault Refusal :=
  s.issue c t 4 [] (Hw.rssaveIns true f)
/-- RSLOAD (R81). Push ra onto the top of the return stack. -/
def execRsload (c : CoreId) (t : Tid) (f : RF) (s : State) : Host.Outcome State Fault Refusal :=
  s.issue c t 4 [f.ra] (Hw.rsloadIns false f)
/-- RSLOAD_B (R81). Insert ra at the bottom of the return stack. -/
def execRsloadB (c : CoreId) (t : Tid) (f : RF) (s : State) : Host.Outcome State Fault Refusal :=
  s.issue c t 4 [f.ra] (Hw.rsloadIns true f)
/-- B_L (R82). Long relative jump. -/
def execBL (c : CoreId) (t : Tid) (f : LF) (s : State) : Host.Outcome State Fault Refusal :=
  s.issue c t 8 [] (Hw.jumpIns 0x3E (f.rd = 0) f.imm.toInt none)
/-- CALL_L (R82). Long relative call. -/
def execCallL (c : CoreId) (t : Tid) (f : LF) (s : State) : Host.Outcome State Fault Refusal :=
  s.issue c t 8 [] (Hw.jumpIns 0x3E (f.rd = 0) f.imm.toInt (some 8))

end Sys2Proof.Machine
end

