-- ==== Sys2Proof/Machine/Threads.lean ====
section
/-! DEFINITION. The thread pool, locks, events and waits, system calls and the return from an exception (spec 02
R76, R86, R87, R89, R90; spec 03 R94–R112, R122, R131). -/

namespace Sys2Proof.Machine

/-- Waits that an exception or a halt abandons (R95). -/
def TState.canAbandon : TState → Bool
  | .waitEv | .waitCnt | .waitJoin | .waitLock => true
  | _ => false
/-- Parked states (R95). -/
def TState.parked (s : TState) : Bool := s.canAbandon || s == .waitReq
/-- The HALT_ states (R94). -/
def TState.halted : TState → Bool
  | .haltFault | .haltStop | .haltDbg | .haltCore => true
  | _ => false
/-- Codes of THREAD_STATE (R94). -/
def TState.code : TState → Nat
  | .free => 0 | .run => 1 | .waitEv => 2 | .waitCnt => 3 | .waitJoin => 4 | .waitLock => 5 | .waitReq => 6
  | .exited => 7 | .haltFault => 8 | .haltStop => 9 | .haltDbg => 10 | .haltCore => 11

/-- A handle (R92). -/
def handleWord (event : Bool) (gen bit' : Nat) (t : Tid) (core : Nat) : TWord :=
  ⟨.evh, pack 64 [(32, gen), (31, event.toNat), (26, bit'), (24, t.val), (0, core)]⟩

/-- A field of a word as a thread number. -/
def tidOf (n : Nat) : Tid := ⟨n % 4, Nat.mod_lt _ (by decide)⟩

/-- A waiting instruction of 4 bytes goes on: the thread runs and the instruction ends as `r` says (R95). -/
def Hw.complete (h : Hw) (c : CoreId) (t : Tid) (r : Hw → IRes) : Hw :=
  let h := h.updT c t fun x => { x with state := .run, wait := .none }
  h.finish c t 4 (r h)

/-! ### Conversions of R76 -/

/-- MINT.L and MINT.G. -/
def Hw.mintIns (tag : Tag) (fn5 : Nat) (f : SF) (h : Hw) (c : CoreId) (t : Tid) : IRes :=
  let x := h.thr c t
  IRes.ofE h do
    mbz 0x05 (f.x = 0)
    needPriv x 0x05 fn5
    let v ← needInt 0 (x.rd f.ra)
    if v.toNat ≤ tag.top then .ok (h.wrG c t f.rd ⟨tag, v⟩, .seq)
    else .error (rangeExc 0 (x.rd f.ra).tag v.toNat)

/-- MKSTAT. -/
def Hw.mkstatIns (f : SF) (h : Hw) (c : CoreId) (t : Tid) : IRes :=
  let x := h.thr c t
  IRes.ofE h do
    mbz 0x05 (f.x = 0)
    needPriv x 0x05 4
    let v ← needInt 0 (x.rd f.ra)
    .ok (h.wrG c t f.rd ⟨.stat, v⟩, .seq)

/-! ### Events and waits -/

/-- A 32-bit mask operand: the upper half must be 0 (R86, R483). -/
def maskOf (v : Word) : Except Exc W32 := do
  inRange 0x05 (decide (v.toNat < 2 ^ 32))
  .ok (v.setWidth 32)

/-- The bits `b` of EV_PEND are taken into rd (R86, R87). -/
def Hw.takeEvents (h : Hw) (c : CoreId) (t : Tid) (rd : Reg) (b : W32) : Hw :=
  (h.updT c t fun x => { x with evPend := x.evPend &&& ~~~b }).wrG c t rd (int (b.setWidth 64))

/-- A sample of WFE (R86): the events it takes, if there are any. -/
def Hw.wfeSample (h : Hw) (c : CoreId) (t : Tid) (rd : Reg) (mask : W32) : Option Hw :=
  let b := (h.thr c t).evPend &&& mask
  if b = 0 then none else some (h.takeEvents c t rd b)

/-- WFE (R86). -/
def Hw.wfeIns (f : SF) (h : Hw) (c : CoreId) (t : Tid) : IRes :=
  match (do
    mbz 0x05 (f.x = 0)
    let v ← needInt 0 ((h.thr c t).rd f.ra)
    let m ← maskOf v
    inRange 0x05 (m ≠ 0)
    .ok m : Except Exc W32) with
  | .error e => .exc h e
  | .ok m =>
    match h.wfeSample c t f.rd m with
    | some h => .ok h .seq
    | none => .ok (h.park c t .waitEv (.wfe f.rd m)) .stay

/-- Whether the counter of a WAITC has reached its target (R87). -/
def Hw.reached (h : Hw) (c : CoreId) (cad : Bool) (target : Word) : Bool :=
  if cad then decide ((h.cadence c - target.setWidth 48).toNat < 2 ^ 47)
  else decide (((h.core c.val).cycle - target).toNat < 2 ^ 63)

/-- A sample of WAITC (R87). -/
def Hw.waitcSample (h : Hw) (c : CoreId) (t : Tid) (cad : Bool) (rd : Reg) (target : Word) (mask : W32) : Option Hw :=
  match h.wfeSample c t rd mask with
  | some h => some h
  | none => if h.reached c cad target then some (h.wrG c t rd (int 0)) else none

/-- WAITC.C and WAITC.B (R87). -/
def Hw.waitcIns (cad : Bool) (f : SF) (h : Hw) (c : CoreId) (t : Tid) : IRes :=
  let x := h.thr c t
  match (do
    mbz 0x05 (fld f.x 10 5 = 0)
    let v ← needInt 0 (x.rd f.ra)
    let w ← needInt 1 (x.rd ⟨fld f.x 4 0 % 32, Nat.mod_lt _ (by decide)⟩)
    let m ← maskOf w
    .ok (v, m) : Except Exc (Word × W32)) with
  | .error e => .exc h e
  | .ok (v, m) =>
    match h.waitcSample c t cad f.rd v m with
    | some h => .ok h .seq
    | none => .ok (h.park c t .waitCnt (.waitc cad f.rd v m)) .stay

/-- SEV (R89): an own thread's bit at once, another core's by an EVENT message (R284). -/
def Hw.sevIns (f : SF) (h : Hw) (c : CoreId) (t : Tid) : IRes :=
  IRes.ofE h do
    mbz 0x05 (f.rd = 0 && f.x = 0)
    let a := (h.thr c t).rd f.ra
    if a.tag ≠ .evh then .error (tagExc 0 0 a.tag)
    if a.val.getLsbD 31 = false then .error (tagExc 2 0 a.tag)
    let dest := fld a.val 15 0
    let b := fld a.val 30 26
    let u := tidOf (fld a.val 25 24)
    if dest = c.val then .ok (h.setEv c u b, .seq)
    else .ok (h.send { q := .msg, src := BitVec.ofNat 16 c.val, dest := BitVec.ofNat 16 dest,
                       body := .event u ⟨b % 32, Nat.mod_lt _ (by decide)⟩ }, .seq)

/-- SEVL (R90). -/
def Hw.sevlIns (f : SF) (h : Hw) (c : CoreId) (_t : Tid) : IRes :=
  IRes.ofE h do
    mbz 0x05 (f.rd = 0 && f.ra = 0 && decide (fld f.x 10 7 = 0))
    .ok (h.setEv c (tidOf (fld f.x 6 5)) (fld f.x 4 0), .seq)

/-! ### The thread pool -/

/-- The generation of a pool entry (R99). -/
def Core.gen (k : Core) (t : Tid) : BitVec 8 := lookD k.gens t.val 0

/-- The state in which FORK starts pool thread `n` (R98); `x` is the forking thread. -/
def forkThread (k : Core) (x : Thread) (n : Tid) (pc handle : TWord) : Thread :=
  let la (t : Tab TWord) : TWord := let w := lookD t n.val {}; if w.tag = .laddr then w else {}
  let g : Tab TWord := [(2, handle)]
  { g := if x.rd 1 = {} then g else (1, x.rd 1) :: g
    pc := pc
    st := { ie := x.st.ie, priv := x.st.priv }
    esp := la k.poolEsp
    espLimit := la k.poolLimit
    scEntry := x.scEntry
    fpcsr := x.fpcsr &&& 0x31F00
    state := .run }

/-- FORK (R98). -/
def Hw.forkIns (f : SF) (h : Hw) (c : CoreId) (t : Tid) : IRes :=
  let x := h.thr c t
  IRes.ofE h do
    mbz 0x05 (f.x = 0)
    let pc ← needAddr 0 (x.rd f.ra)
    let k := h.core c.val
    match ([1, 2, 3] : List Tid).find? fun n => (k.thr n).state == .free with
    | none => .ok (h.wrG c t f.rd {}, .seq)
    | some n =>
      let hd := handleWord false (k.gen n).toNat 0 n c.val
      .ok ((h.updC c.val fun k => k.setT n (forkThread k x n pc hd)).wrG c t f.rd hd, .seq)

/-- The completion of a JOIN on entry `n`: FREE, with a new generation (R99, R100). -/
def Hw.joined (h : Hw) (c : CoreId) (n : Tid) : Hw :=
  (h.updC c.val fun k => { k with gens := put k.gens n.val (k.gen n + 1) }).updT c n fun x => { x with state := .free }

/-- JOIN (R100). -/
def Hw.joinIns (f : SF) (h : Hw) (c : CoreId) (t : Tid) : IRes :=
  let a := (h.thr c t).rd f.ra
  let n := tidOf (fld a.val 25 24)
  let g : BitVec 8 := BitVec.ofNat 8 (fld a.val 39 32)
  match (do
    mbz 0x05 (f.rd = 0 && f.x = 0)
    if a.tag ≠ .evh then .error (tagExc 0 0 a.tag)
    if a.val.getLsbD 31 = true then .error (tagExc 2 0 a.tag)
    if fld a.val 15 0 ≠ c.val ∨ n = 0 ∨ g ≠ (h.core c.val).gen n then .error (tagExc 2 0 a.tag)
    inRange 0x05 (n ≠ t) : Except Exc Unit) with
  | .error e => .exc h e
  | .ok _ =>
    if (h.thr c n).state = .exited then .ok (h.joined c n) .seq
    else .ok (h.park c t .waitJoin (.join n g)) .stay

/-- Whether a thread waits in a JOIN on `n`. -/
def Thread.joins (x : Thread) (n : Tid) : Bool :=
  x.state == .waitJoin && (match x.wait with | .join m _ => m == n | _ => false)

/-- Pool thread `n` becomes EXITED; the lowest waiter of a JOIN on it completes, the others find it stale (R100). -/
def Hw.exited (h : Hw) (c : CoreId) (n : Tid) : Hw :=
  let h := h.updT c n fun x =>
    { x with state := .exited, wait := .none, stopReq := false, stepping := false,
             comp := { x.comp with isOpen := false, hdrSet := false } }
  match tids.filter fun t => (h.thr c t).joins n with
  | [] => h
  | t :: ts =>
    let h := (h.joined c n).complete c t fun h => .ok h .seq
    ts.foldl (fun h u => h.finish c u 4 (.exc h (tagExc 2 0 .evh))) h

/-- The lowest cell a thread holds (R101). -/
def Core.heldCell (k : Core) (t : Tid) : Option Nat := (k.locks.find? fun p => p.2.owner == t).map (·.1)

/-- LOCK exceptions (R103). -/
def lockExc (cell reason : Nat) : Exc := ⟨16, pack 16 [(8, cell), (0, reason)], none⟩

/-- EXIT (R101). -/
def Hw.exitIns (f : SF) (h : Hw) (c : CoreId) (t : Tid) : IRes :=
  IRes.ofE h do
    mbz 0x05 (f.rd = 0 && f.ra = 0 && f.x = 0)
    if t = 0 then .error (illegal 0x05 9)
    match (h.core c.val).heldCell t with
    | some cell => .error (lockExc cell 3)
    | none => .ok (h.exited c t, .stay)

/-! ### Locks (R103, R104) -/

/-- A lock cell of an operand. -/
def lockCell (x : Thread) (f : SF) : Except Exc (Fin 64) := do
  let v ← needInt 0 (x.rd f.ra)
  inRange 0x05 (decide (v.toNat < 64))
  .ok ⟨v.toNat % 64, Nat.mod_lt _ (by decide)⟩

/-- The cell acquired by a thread. -/
def Hw.acquire (h : Hw) (c : CoreId) (t : Tid) (cell : Fin 64) : Hw :=
  h.updC c.val fun k => { k with locks := put k.locks cell.val { owner := t } }

/-- LOCK. -/
def Hw.lockIns (f : SF) (h : Hw) (c : CoreId) (t : Tid) : IRes :=
  IRes.ofE h do
    mbz 0x05 (f.rd = 0 && f.x = 0)
    let cell ← lockCell (h.thr c t) f
    match look (h.core c.val).locks cell.val with
    | none => .ok (h.acquire c t cell, .seq)
    | some l =>
      if l.owner = t then .error (lockExc cell.val 1)
      else
        let h := h.updC c.val fun k => { k with locks := put k.locks cell.val { l with waiters := l.waiters ++ [t] } }
        .ok (h.park c t .waitLock (.lock cell), .stay)

/-- TRYLOCK. -/
def Hw.trylockIns (f : SF) (h : Hw) (c : CoreId) (t : Tid) : IRes :=
  IRes.ofE h do
    mbz 0x05 (f.x = 0)
    let cell ← lockCell (h.thr c t) f
    match look (h.core c.val).locks cell.val with
    | none => .ok ((h.acquire c t cell).wrG c t f.rd (int 1), .seq)
    | some l => if l.owner = t then .error (lockExc cell.val 1) else .ok (h.wrG c t f.rd (int 0), .seq)

/-- The waiter to which a release by `t` hands the cell (R104). -/
def LockCell.next (l : LockCell) (t : Tid) : Option Tid := [t + 1, t + 2, t + 3].find? fun w => l.waiters.contains w

/-- A release: the cell is free, or passes to a waiter, whose LOCK completes (R104). -/
def Hw.release (h : Hw) (c : CoreId) (t : Tid) (cell : Nat) : Hw :=
  match look (h.core c.val).locks cell with
  | none => h
  | some l =>
    match l.next t with
    | none => h.updC c.val fun k => { k with locks := del k.locks cell }
    | some w =>
      (h.updC c.val fun k =>
        { k with locks := put k.locks cell { owner := w, waiters := l.waiters.filter (· ≠ w) } }).complete c w
        fun h => .ok h .seq

/-- UNLOCK. -/
def Hw.unlockIns (f : SF) (h : Hw) (c : CoreId) (t : Tid) : IRes :=
  IRes.ofE h do
    mbz 0x05 (f.rd = 0 && f.x = 0)
    let cell ← lockCell (h.thr c t) f
    match look (h.core c.val).locks cell.val with
    | none => .error (lockExc cell.val 2)
    | some l => if l.owner = t then .ok (h.release c t cell.val, .seq) else .error (lockExc cell.val 2)

/-! ### System calls and returns -/

/-- RETCHK (R111, R122). -/
def retchk (sret : Bool) (reason : Nat) : Exc := ⟨2, pack 16 [(8, sret.toNat), (0, reason)], none⟩

/-- The fields of STATUS that SRET and ERET restore from a saved word (R111, R122). -/
def Status.restore (s : Status) (w : Word) (priv : Bool) : Status :=
  { s with priv := priv, ie := w.getLsbD 1, ss := w.getLsbD 7, repLeft := BitVec.ofNat 12 (fld w 32 21),
           repActive := w.getLsbD 20, repMode := w.getLsbD 19 }

/-- SCALL (R110). -/
def Hw.scallIns (f : SF) (h : Hw) (c : CoreId) (t : Tid) : IRes :=
  let x := h.thr c t
  IRes.ofE h do
    mbz 0x05 (f.rd = 0 && f.ra = 0)
    if x.st.priv then .error (illegal 0x05 7)
    if !x.scEntry.tag.isAddr then .error (tagExc 0 3 x.scEntry.tag)
    let st : Status := { x.st with cause := 0x20, slot := 0, detail := f.x.setWidth 16 }
    .ok (h.updT c t fun x =>
      { x with scRa := ⟨x.pc.tag, x.pc.val + 4⟩, scStat := ⟨.stat, st.word t⟩,
               st := { x.st with priv := true, ie := false, ss := false, repActive := false } }, .jump x.scEntry)

/-- SRET (R111). -/
def Hw.sretIns (f : SF) (h : Hw) (c : CoreId) (t : Tid) : IRes :=
  let x := h.thr c t
  IRes.ofE h do
    mbz 0x05 (f.rd = 0 && f.ra = 0 && f.x = 0)
    if x.nest ≠ 0 then .error (illegal 0x05 8)
    needPriv x 0x05 7
    if x.scStat.tag ≠ .stat then .error (retchk true 1)
    if x.scStat.val.getLsbD 0 then .error (retchk true 2)
    if !x.scRa.tag.isAddr then .error (retchk true 3)
    .ok (h.updT c t fun x => x.setSt fun s => s.restore x.scStat.val false, .jump x.scRa)

/-- The frame ERET pops: from the last-resort shadows or from the exception stack (R122), with its ECC check (R426
source 6). -/
def Hw.eretFrame (h : Hw) (c : CoreId) (x : Thread) : Except Exc (TWord × TWord × Bool) :=
  if x.st.lr = true ∧ x.nest = x.lrLevel then .ok (x.xsRa, x.xsStat, true)
  else
    let a := x.esp.val.toNat
    if x.esp.tag ≠ .laddr ∨ a % 8 ≠ 0 ∨ localTop < a + 16 then .error (retchk false 4)
    else
      let k := h.core c.val
      let e1 := k.lmErr (a + 8) 8
      let e0 := k.lmErr a 8
      if 2 ≤ e1 then .error (eccExc 6 (lmKind e1) 0 0 (a + 8))
      else if 2 ≤ e0 then .error (eccExc 6 (lmKind e0) 0 0 a)
      else .ok (k.ldWord (a + 8), k.ldWord a, false)

/-- ERET (R122). -/
def Hw.eretIns (f : SF) (h : Hw) (c : CoreId) (t : Tid) : IRes :=
  let x := h.thr c t
  IRes.ofE h do
    mbz 0x05 (f.rd = 0 && f.ra = 0 && f.x = 0)
    if x.nest = 0 then .error (illegal 0x05 8)
    needPriv x 0x05 5
    let (ra, st, xs) ← h.eretFrame c x
    if st.tag ≠ .stat then .error (retchk false 1)
    if st.val.getLsbD 0 ≠ (if x.nest = 1 then x.basePriv else true) then .error (retchk false 2)
    if !ra.tag.isAddr then .error (retchk false 3)
    let h := if xs then h else h.lmScrub c.val x.esp.val.toNat 16
    .ok (h.updT c t fun x =>
      { x with
        esp := if xs then x.esp else ⟨.laddr, x.esp.val + 16⟩
        lrLevel := if xs then 0 else x.lrLevel
        nest := x.nest - 1
        st := ({ x.st with lr := if xs then false else x.st.lr } : Status).restore st.val (st.val.getLsbD 0) }, .jump ra)

/-- BRK (R113, R131). -/
def Hw.brkIns (f : SF) (h : Hw) (c : CoreId) (t : Tid) : IRes :=
  match mbz 0x05 (f.rd = 0 && f.ra = 0) with
  | .error e => .exc h e
  | .ok _ =>
    if (h.cpg c.val 0x074).getLsbD 12 then
      .ok ((h.updT c t fun x =>
        { x with pc := ⟨x.pc.tag, x.pc.val + 4⟩, state := .haltDbg, stepping := false }).updCpg c.val 0x074
        fun v => setBit v t.val true) .stay
    else .trap h ⟨17, f.x.setWidth 16, none⟩

/-! ### THREAD_CTL (R102) -/

/-- STOP (R102). Of a thread in the middle of a debugger step too: the halt lands at its next boundary. -/
def Hw.threadStop (h : Hw) (c : CoreId) (n : Tid) : Hw :=
  let s := (h.thr c n).state
  if s = .run ∨ s.parked then h.updT c n fun x => { x with stopReq := true } else h

/-- RESUME. TF_LOGn.halted stays as it is until the next event of the thread or an MTSR: R124 does not say that it clears
(DESIGN CHOICE, log 110); ABANDON likewise. -/
def Hw.threadResume (h : Hw) (c : CoreId) (n : Tid) : Option Hw :=
  match (h.thr c n).state with
  | .haltStop => some (h.updT c n fun x => { x with state := .run })
  | .haltFault => some (h.updT c n fun x =>
      { x with state := .run, nest := 0, lrLevel := 0,
               st := { x.st with priv := true, ie := false, ss := false, lr := false } })
  | _ => none

/-- ABANDON. -/
def Hw.threadAbandon (h : Hw) (c : CoreId) (n : Tid) : Option Hw :=
  match (h.thr c n).state with
  | .haltStop | .haltFault =>
    let cells := ((h.core c.val).locks.filter fun p => p.2.owner == n).map (·.1)
    some ((cells.foldl (fun h cell => h.release c n cell) h).exited c n)
  | _ => none

/-- The special-register number of THREAD_CTL, which XADDR receives (R115). -/
def srExc (n : Nat) (e : Exc) : Exc := { e with xaddr := some (BitVec.ofNat 64 n) }

/-- MTSR to THREAD_CTL with a thread and an operation (R102). -/
def Hw.threadCtl (op : Nat) (n : Tid) (h : Hw) (c : CoreId) (t : Tid) : IRes :=
  IRes.ofE h (match (do
    assigned 0x05 (decide (1 ≤ op ∧ op ≤ 3))
    needPriv (h.thr c t) 0x05 1
    inRange 0x05 (n ≠ 0) : Except Exc Unit) with
  | .error e => .error (srExc 0x044 e)
  | .ok _ =>
    match (match op with | 1 => some (h.threadStop c n) | 2 => h.threadResume c n | _ => h.threadAbandon c n) with
    | some h => .ok (h, .seq)
    | none => .error (srExc 0x044 (illegal 0x05 4)))

/-! ### The meanings -/

/-- MINT_L (R76). Supervisor conversion of an integer to LADDR. -/
def execMintL (c : CoreId) (t : Tid) (f : SF) (s : State) : Host.Outcome State Fault Refusal :=
  s.issue c t 4 [f.ra] (Hw.mintIns .laddr 2 f)
/-- MINT_G (R76). Supervisor conversion of an integer to GADDR. -/
def execMintG (c : CoreId) (t : Tid) (f : SF) (s : State) : Host.Outcome State Fault Refusal :=
  s.issue c t 4 [f.ra] (Hw.mintIns .gaddr 3 f)
/-- MKSTAT (R76). Supervisor conversion of an integer to STAT. -/
def execMkstat (c : CoreId) (t : Tid) (f : SF) (s : State) : Host.Outcome State Fault Refusal :=
  s.issue c t 4 [f.ra] (Hw.mkstatIns f)
/-- ERET (R122). Return from an exception with checks of the popped frame. -/
def execEret (c : CoreId) (t : Tid) (f : SF) (s : State) : Host.Outcome State Fault Refusal :=
  s.issue c t 4 [] (Hw.eretIns f)
/-- SCALL (R110). User system call into SC_ENTRY. -/
def execScall (c : CoreId) (t : Tid) (f : SF) (s : State) : Host.Outcome State Fault Refusal :=
  s.issue c t 4 [] (Hw.scallIns f)
/-- SRET (R111). Return from a system call to user mode. -/
def execSret (c : CoreId) (t : Tid) (f : SF) (s : State) : Host.Outcome State Fault Refusal :=
  s.issue c t 4 [] (Hw.sretIns f)
/-- WFE (R86). Take masked pending events or park until one is set. -/
def execWfe (c : CoreId) (t : Tid) (f : SF) (s : State) : Host.Outcome State Fault Refusal :=
  s.issue c t 4 [f.ra] (Hw.wfeIns f)
/-- SEV (R89). Set an event bit in the thread named by a handle. -/
def execSev (c : CoreId) (t : Tid) (f : SF) (s : State) : Host.Outcome State Fault Refusal :=
  s.issue c t 4 [f.ra] (Hw.sevIns f)
/-- SEVL (R90). Set an event bit of a thread of the own core. -/
def execSevl (c : CoreId) (t : Tid) (f : SF) (s : State) : Host.Outcome State Fault Refusal :=
  s.issue c t 4 [] (Hw.sevlIns f)
/-- WAITC_C (R87). Wait for CYCLE to reach a target or for masked events. -/
def execWaitcC (c : CoreId) (t : Tid) (f : SF) (s : State) : Host.Outcome State Fault Refusal :=
  s.issue c t 4 [f.ra, ⟨fld f.x 4 0 % 32, Nat.mod_lt _ (by decide)⟩] (Hw.waitcIns false f)
/-- WAITC_B (R87). Wait for CADENCE to reach a target or for masked events. -/
def execWaitcB (c : CoreId) (t : Tid) (f : SF) (s : State) : Host.Outcome State Fault Refusal :=
  s.issue c t 4 [f.ra, ⟨fld f.x 4 0 % 32, Nat.mod_lt _ (by decide)⟩] (Hw.waitcIns true f)
/-- FORK (R98). Start the lowest FREE pool thread at an address. -/
def execFork (c : CoreId) (t : Tid) (f : SF) (s : State) : Host.Outcome State Fault Refusal :=
  s.issue c t 4 [f.ra] (Hw.forkIns f)
/-- JOIN (R100). Wait for a pool thread to reach EXITED and free it. -/
def execJoin (c : CoreId) (t : Tid) (f : SF) (s : State) : Host.Outcome State Fault Refusal :=
  s.issue c t 4 [f.ra] (Hw.joinIns f)
/-- EXIT (R101). End a pool thread. -/
def execExit (c : CoreId) (t : Tid) (f : SF) (s : State) : Host.Outcome State Fault Refusal :=
  s.issue c t 4 [] (Hw.exitIns f)
/-- LOCK (R103). Acquire a lock cell or join its waiter set. -/
def execLock (c : CoreId) (t : Tid) (f : SF) (s : State) : Host.Outcome State Fault Refusal :=
  s.issue c t 4 [f.ra] (Hw.lockIns f)
/-- TRYLOCK (R103). Acquire a lock cell if free, reporting the result. -/
def execTrylock (c : CoreId) (t : Tid) (f : SF) (s : State) : Host.Outcome State Fault Refusal :=
  s.issue c t 4 [f.ra] (Hw.trylockIns f)
/-- UNLOCK (R104). Release a lock cell or hand it to a waiter. -/
def execUnlock (c : CoreId) (t : Tid) (f : SF) (s : State) : Host.Outcome State Fault Refusal :=
  s.issue c t 4 [f.ra] (Hw.unlockIns f)
/-- BRK (R131). Raise DEBUG or halt the thread when brk_halt is set. -/
def execBrk (c : CoreId) (t : Tid) (f : SF) (s : State) : Host.Outcome State Fault Refusal :=
  s.issue c t 4 [] (Hw.brkIns f)
/-- THREAD_STOP (R102). THREAD_CTL STOP requests a halt of a pool thread. -/
def execThreadStop (c : CoreId) (t : Tid) (n : Tid) (s : State) : Host.Outcome State Fault Refusal :=
  s.issue c t 4 [] (Hw.threadCtl 1 n)
/-- THREAD_RESUME (R102). THREAD_CTL RESUME restarts a halted pool thread. -/
def execThreadResume (c : CoreId) (t : Tid) (n : Tid) (s : State) : Host.Outcome State Fault Refusal :=
  s.issue c t 4 [] (Hw.threadCtl 2 n)
/-- THREAD_ABANDON (R102). THREAD_CTL ABANDON releases locks and makes the thread EXITED. -/
def execThreadAbandon (c : CoreId) (t : Tid) (n : Tid) (s : State) : Host.Outcome State Fault Refusal :=
  s.issue c t 4 [] (Hw.threadCtl 3 n)

end Sys2Proof.Machine
end

