-- ==== Sys2Proof/WellFormed.lean ====
section
/-! DEFINITION. Which commands the outside can bring: operand lists that a unit of the module could meet.  Every other
field of every command is bounded by its type. -/

namespace Sys2Proof

/-- A broadcast brings 1 to 15 whole granules that fit local memory (R264, R286); an OPERAND message has three records
(R285).  An incoming WRITE carries the bytes its length names (R350). -/
def Instr.wf : Instr → Bool
  | .broadcastArrival _ a data =>
    decide (data.length % 64 = 0 ∧ data.length ≠ 0 ∧ data.length ≤ 960 ∧ a.toNat % 64 = 0 ∧
      a.toNat + data.length ≤ 0x180000)
  | .operandArrival _ recs => decide (recs.length = 3)
  | .incomingRdmaWrite _ _ r data => decide (data.length = r.length)
  | .incomingWriteImm _ _ r data _ => decide (data.length = r.length)
  | _ => true

end Sys2Proof
end

