-- ==== Sys2Proof/Machine/Message.lean ====
section
/-! DEFINITION. Messages: formats, receive rings, credits, composition, fixed routes and bounces (spec 08 R261–R293). -/

namespace Sys2Proof.Machine

/-! ### Destinations (R266, R241, R344) -/

/-- What a destination core ID and ring name. -/
inductive Endp where
  | core (c : CoreId)
  | eng (e : Eng)
  | net (d : NetId)
  | none
  deriving DecidableEq, Repr

def engOf (n : Nat) : Eng := ⟨n % 66, Nat.mod_lt _ (by decide)⟩

def endpOf (dest : BitVec 16) (ring : Fin 4) : Endp :=
  let n := dest.toNat
  if hn : n < 5120 then .core ⟨n, hn⟩
  else if ring ≠ 0 then .none
  else if 20 ≤ n / 256 ∧ n / 256 < 36 ∧ n % 256 < 4 then .eng (engOf (4 * (n / 256 - 20) + n % 256))
  else if n / 256 = 38 ∧ n % 256 < 2 then .eng (engOf (64 + n % 256))
  else if n = 0x2400 then .net 0 else if n = 0x2500 then .net 1 else .none

/-- Die and block of an engine, and its core ID (R241). -/
def engDie (e : Eng) : Nat := if e.val < 64 then 20 + e.val / 4 else 38
def engBlk (e : Eng) : Nat := if e.val < 64 then e.val % 4 else e.val - 64
def engId (e : Eng) : BitVec 16 := BitVec.ofNat 16 (engDie e * 256 + engBlk e)
def netId (d : NetId) : BitVec 16 := BitVec.ofNat 16 ((36 + d.val) * 256)

/-- Where the packets of a holder of credits enter the mesh (R277, R322, R241, R344, R481). -/
def holderSrc : Holder → BitVec 16
  | .core c => BitVec.ofNat 16 c.val
  | .hub d _ => srcOf d.val 0x101
  | .eng e => engId e
  | .net d => netId d

/-- Whether a destination takes traffic (R287): 0, or the bcause with which it refuses. -/
def Hw.refuses (h : Hw) : Endp → BitVec 2
  | .core c => if h.goneSite c.val then 2 else if h.svc (dieOf c.val) (siteIx c.val) = 0 then 0 else 1
  | .eng e => if h.fused (engDie e) (engBlk e) || h.dead (engDie e) (engBlk e) then 2
    else if h.svc (engDie e) (engBlk e) = 0 then 0 else 1
  | .net _ => 0
  | .none => 2

/-- A discard of R24 and R287 at the die of the destination; no die has an index above 39. -/
def Hw.discardAt (h : Hw) (dest src : BitVec 16) (cls ring tag : Nat) : Hw :=
  let d := dest.toNat / 256 % 64
  if d < 40 then h.discard d (some (pack 32 [(16, src.toNat), (0, dest.toNat)], pack 32 [(22, cls), (20, ring), (0, tag)]))
  else h

/-! ### Message format (R264, R265, R283) -/

/-- Bytes 0x00–0x0F of a header. -/
def headerBytes (src dest : Nat) (bcause cls ring len tag cw0 : Nat) : List Byte :=
  leBytes 4 (src * 65536 + dest) ++
    leBytes 4 (pack 32 [(26, bcause), (22, cls), (20, ring), (16, len), (0, tag)]).toNat ++ leBytes 4 cw0 ++ leBytes 4 0

/-- Granules of a message's record in a ring (R281). -/
def Msg.gran (m : Msg) : Nat := if m.fixed then m.n + 1 else m.n

/-- A NORMAL message of `n` granules; `data` are its bytes from 0x10 on. -/
def normalMsg (src dest : BitVec 16) (ring : Fin 4) (n : Nat) (tag : BitVec 16) (data : List Byte) : Msg :=
  { src := src, dest := dest, ring := ring, n := n, tag := tag,
    bytes := sub (headerBytes src.toNat dest.toNat 0 0 ring.val (n - 1) tag.toNat 0 ++ data) 0 (64 * n) }

/-- A FIXED message of `n` payload granules with the header that the receiving router writes (R283). -/
def fixedMsg (src dest : BitVec 16) (ring : Fin 4) (n : Nat) (tag : BitVec 16) (route : Nat) (data : List Byte) : Msg :=
  { src := src, dest := dest, fixed := true, ring := ring, n := n, tag := tag,
    bytes := sub (headerBytes src.toNat dest.toNat 0 1 ring.val n tag.toNat route ++ List.replicate 48 0 ++ data) 0
      (64 * (n + 1)) }

/-- The message as a bounce (R288). -/
def Msg.bounce (m : Msg) (b : BitVec 2) : Msg :=
  { m with bcause := b
           bytes := headerBytes m.src.toNat m.dest.toNat b.toNat 0 m.ring.val (m.n - 1) m.tag.toNat 0 ++ m.bytes.drop 16 }

/-! ### Rings (R267, R281) -/

def ringKey (dest : BitVec 16) (ring : Fin 4) : Nat := dest.toNat * 4 + ring.val
/-- A job ring has 128 granules and an endpoint's 256, always enabled (R242, R344). -/
def ringInit : Endp → Ring
  | .eng _ => { free := 128 }
  | .net _ => { free := 256 }
  | _ => {}
def Hw.ring (h : Hw) (dest : BitVec 16) (n : Fin 4) : Ring := lookD h.rings (ringKey dest n) (ringInit (endpOf dest n))
/-- An armed injection strikes a credit-table or ring-count update of a core (R432 target 5). -/
def Hw.creditInject (h : Hw) (c code index : Nat) : Hw :=
  match h.inject (dieOf c) (siteIx c) 5 with
  | (some 1, h) => h.corrected (dieOf c) (siteIx c)
  | (some _, h) => h.creditFault (dieOf c) (siteIx c) code index
  | (none, h) => h
def Hw.updRing (h : Hw) (dest : BitVec 16) (n : Fin 4) (f : Ring → Ring) : Hw :=
  let h := { h with rings := put h.rings (ringKey dest n) (f (h.ring dest n)) }
  if dest.toNat < 5120 then h.creditInject dest.toNat 1 n.val else h
def coreIdW (c : CoreId) : BitVec 16 := BitVec.ofNat 16 c.val

/-- RINGn_BASE and RINGn_CTL of a core (R293). -/
def Hw.rctl (h : Hw) (c : Nat) (n : Fin 4) : W32 := h.cpg c (0x104 + 32 * n.val)
def Hw.rbase (h : Hw) (c : Nat) (n : Fin 4) : Nat := (h.cpg c (0x100 + 32 * n.val)).toNat
def ringEn (v : W32) : Bool := v.getLsbD 31
def ringHen (v : W32) : Bool := v.getLsbD 30
def ringThread (v : W32) : Tid := tidOf (fld v 29 28)
def ringSize (v : W32) : Nat := fld v 11 0

/-- Whether the ring of a destination is enabled. -/
def Hw.ringOn (h : Hw) (dest : BitVec 16) (n : Fin 4) : Bool :=
  match endpOf dest n with | .core c => ringEn (h.rctl c.val n) | .none => false | _ => true

/-- Fields of MSG_CFG (R293). -/
def Hw.bounceRing (h : Hw) (c : Nat) : Fin 4 := ⟨fld (h.cpg c 0x0D0) 19 18 % 4, Nat.mod_lt _ (by decide)⟩
def Hw.reqGran (h : Hw) (c : Nat) : Nat := let g := fld (h.cpg c 0x0D0) 11 0; if g = 0 then 16 else g
/-- Queue timeout; only a core has MSG_CFG (R278). -/
def Hw.grantTo (h : Hw) (dest : BitVec 16) (n : Fin 4) : Nat :=
  match endpOf dest n with | .core c => fld (h.cpg c.val 0x0D0) 17 12 | _ => 16

/-- Grant-list entries in use at a destination, of 64 (R278). -/
def Hw.grantCount (h : Hw) (dest : BitVec 16) : Nat :=
  ((List.finRange 4).map fun n => (h.ring dest n).grants.length).sum

/-- Bounces that wait at a core's router (R288). -/
def Hw.bouncesOf (h : Hw) (c : CoreId) : List Msg := (h.ring (coreIdW c) 0).bounces
/-- A bounce waits to land in this ring (R279). -/
def Hw.bounceWaits (h : Hw) (dest : BitVec 16) (n : Fin 4) : Bool :=
  match endpOf dest n with | .core c => n == h.bounceRing c.val && h.bouncesOf c != [] | _ => false

/-- Whether a request can be granted (R278, R279). -/
def Hw.grantable (h : Hw) (dest : BitVec 16) (n : Fin 4) (hd : Holder) (need : Nat) : Bool :=
  let r := h.ring dest n
  decide (need + 15 ≤ r.free) && decide (r.recallFrom = []) && !h.bounceWaits dest n &&
    (r.grants.any (fun g => g.1 == hd) || decide (h.grantCount dest < 64))

/-- A grant of `g` credits is made and travels on CTL (R278). -/
def Hw.grant (h : Hw) (dest : BitVec 16) (n : Fin 4) (hd : Holder) (g : Nat) (port : Nat := 0) : Hw :=
  (h.updRing dest n fun r =>
    { r with free := r.free - g, granted := r.granted + g
             grants := if r.grants.any (fun x => x.1 == hd)
               then r.grants.map fun x => if x.1 == hd then (x.1, x.2 + g) else x
               else r.grants ++ [(hd, g)] }).send
    { q := .ctl, src := dest, dest := holderSrc hd, body := .grant hd n g, port := port }

/-- The requests that wait at a ring are granted in order as far as they can be (R278). -/
def Hw.serveRing (dest : BitVec 16) (n : Fin 4) : Nat → Hw → Hw
  | 0, h => h
  | fuel + 1, h =>
    match (h.ring dest n).waiting with
    | [] => h
    | q :: qs =>
      if h.refuses (endpOf dest n) = 0 && h.grantable dest n q.h q.need then
        Hw.serveRing dest n fuel
          ((h.updRing dest n fun r => { r with waiting := qs }).grant dest n q.h (Nat.min q.want ((h.ring dest n).free - 15)) q.port)
      else h

/-- Counts of a ring change, and requests that wait there are looked at again. -/
def Hw.freed (h : Hw) (dest : BitVec 16) (n : Fin 4) (f : Ring → Ring) : Hw :=
  Hw.serveRing dest n 8 (h.updRing dest n f)

/-- Entries of the grant list, which a destination's rings share, became free: every ring is looked at again, in the order of their
numbers (R278; DESIGN CHOICE, log 15). -/
def Hw.serveAll (h : Hw) (dest : BitVec 16) : Hw := (List.finRange 4).foldl (fun h n => Hw.serveRing dest n 8 h) h

/-! ### Deposit (R268, R272, R281) -/

/-- Pad granules before a record of `len` granules in a ring of `size`. -/
def Ring.padFor (r : Ring) (size len : Nat) : Nat :=
  if r.wr < size ∧ size - r.wr < len then size - r.wr else 0

/-- A message becomes visible: its event and its count (R272, R292); it wakes a retained core whose wake_en names the
ring (R409). -/
def Hw.visible (h : Hw) (c : CoreId) (n : Fin 4) : Hw :=
  let v := h.rctl c.val n
  let h := if (h.cpg c.val 0x280).getLsbD (16 + n.val) then h.wakeBy c.val 2 2 else h
  let h := h.updCpg c.val (0x118 + 32 * n.val) fun x => x + 1
  if v.getLsbD 27 then h.setEv c (ringThread v) (fld v 26 22) else h

/-- The header granule of a PAD record; its bytes behind the header are unspecified (log 6). -/
def Hw.padHeader (h : Hw) (c : CoreId) (n : Fin 4) (at' p : Nat) : Hw :=
  let (a, h) := h.free64
  let (b, h) := h.free64
  h.lmWrite c.val at' (headerBytes c.val c.val 0 7 n.val (p - 1) 0 0 ++
    ((List.range 6).map fun i => leBytes 8 (a + b * BitVec.ofNat 64 i).toNat).flatten)

/-- A record lands in a ring of a core; a credited one turns granted credits into occupied granules. -/
def Hw.landCore (h : Hw) (c : CoreId) (n : Fin 4) (m : Msg) (credited : Bool) : Hw :=
  let size := ringSize (h.rctl c.val n)
  let base := h.rbase c.val n
  let len := m.gran
  let r := h.ring (coreIdW c) n
  let p := r.padFor size len
  let wr := if p ≠ 0 ∨ size ≤ r.wr then 0 else r.wr
  let h := if p = 0 then h else h.padHeader c n (base + 64 * r.wr) p
  let h := h.lmWrite c.val (base + 64 * wr) m.bytes
  let h := m.bad.foldl (fun h g => (h.lmPoison c.val (base + 64 * (wr + g)) 64).errCount (dieOf c.val) (siteIx c.val) 3) h
  let pass := decide (p ≠ 0) && decide (r.recs = [])
  let h := h.updRing (coreIdW c) n fun r =>
    { r with
      free := if credited then r.free - (if pass then 0 else p) else r.free - len - (if pass then 0 else p)
      granted := if credited then r.granted - len else r.granted
      occ := r.occ + len
      pad := r.pad + (if pass then 0 else p)
      ret := if pass then 0 else r.ret
      wr := wr + len
      recs := r.recs ++ (if p ≠ 0 && !pass then [{ start := r.wr, len := p, pad := true }] else []) ++
        [{ start := wr, len := len }] }
  h.visible c n

/-- The credits of a message that a ring does not keep (R281, R287). -/
def Hw.uncredit (h : Hw) (m : Msg) : Hw :=
  match endpOf m.dest m.ring with
  | .none => h
  | _ => h.freed m.dest m.ring fun r => { r with granted := r.granted - m.gran, free := r.free + m.gran }

/-- A message not accepted: NORMAL is bounced on BNC to its src, FIXED is discarded (R287, R288). -/
def Hw.refuse (h : Hw) (m : Msg) (b : BitVec 2) : Hw :=
  let h := h.uncredit m
  if m.fixed then h.discardAt m.dest m.src 1 m.ring.val m.tag.toNat
  else match endpOf m.src 0 with
  -- no bounce ring: an endpoint counts the loss (R353), an engine's die the discard (log 21)
  | .net d => h.updPg (36 + d.val) 0x010 0x05C fun v => satAdd 32 v 1
  | .eng e => h.discard (engDie e) none
  | _ => h.send { q := .bnc, src := m.dest, dest := m.src, body := .message (m.bounce b) }

/-- A NORMAL or FIXED message reaches its destination (R241, R242, R268, R287, R344). -/
def Hw.deposit (h : Hw) (m : Msg) : Hw :=
  let b := h.refuses (endpOf m.dest m.ring)
  if b ≠ 0 then h.refuse m b
  else if !h.ringOn m.dest m.ring then h.refuse m 3
  else
    let keep (h : Hw) : Hw := h.updRing m.dest m.ring fun r =>
      { r with granted := r.granted - 2, occ := r.occ + 2, wr := r.wr + 2,
               recs := r.recs ++ [{ start := r.wr, len := 2, msg := some m }] }
    match endpOf m.dest m.ring with
    | .core c => h.landCore c m.ring m true
    | .eng e => if m.fixed || m.n ≠ 2 then (h.uncredit m).errCount (engDie e) (engBlk e) 7 else keep h
    | .net d =>
      if m.fixed || m.n ≠ 2 then (h.uncredit m).updPg (36 + d.val) 0x010 0x060 fun v => satAdd 32 v 1 else keep h
    | .none => h

/-! ### Flows (R263) -/

/-- Whether a packet belongs to a flow. -/
def Pkt.inFlow (q : Queue) (src dest : BitVec 16) (p : Pkt) : Bool := p.q == q && p.src == src && p.dest == dest

/-- The first packet of a flow, and the hardware without it; none while it is held on its way (R29, R410). -/
def Hw.firstOf (h : Hw) (q : Queue) (src dest : BitVec 16) : Option (PBody × Hw) :=
  match (h.flight.find? (Pkt.inFlow q src dest)).filter fun p => !h.pktHeld p with
  | none => none
  | some p => some (p.body, { h with flight := h.flight.eraseP (Pkt.inFlow q src dest) })

/-! ### Popping (R270, R271, R273, R274) -/

/-- The first message of a ring that is visible and not popped. -/
def Ring.nextMsg (r : Ring) : Option Rec := ((r.recs.filter fun x => !x.pad).drop r.popped).head?

/-- The next message is popped; its header granule's address (R270). -/
def Hw.popMsg (h : Hw) (c : CoreId) (n : Fin 4) : Option (Nat × Hw) :=
  match (h.ring (coreIdW c) n).nextMsg with
  | none => none
  | some x => some (h.rbase c.val n + 64 * x.start,
      h.updRing (coreIdW c) n fun r => { r with popped := r.popped + 1, pop := x.start + x.len })

/-- The oldest popped message retires; ret passes a pad it reaches (R271, R281). -/
def Ring.retire (r : Ring) : Ring :=
  match r.recs with
  | [] => r
  | x :: rest =>
    let r := { r with free := r.free + x.len, occ := r.occ - x.len, popped := r.popped - 1, ret := x.start + x.len,
                      recs := rest }
    match rest with
    | y :: rest' => if y.pad then { r with free := r.free + y.len, pad := r.pad - y.len, ret := 0, recs := rest' } else r
    | [] => r

/-- MSG (R290). -/
def msgExc (n reason : Nat) : Exc := ⟨14, pack 16 [(8, n), (0, reason)], none⟩

/-- A ring number of an operand. -/
def ringArg (x : Thread) (r : Reg) : Except Exc (Fin 4) := do
  let v ← needInt 0 (x.rd r)
  inRange 0x30 (decide (v.toNat < 4))
  .ok ⟨v.toNat % 4, Nat.mod_lt _ (by decide)⟩

/-- MQ_POP (R270). -/
def Hw.mqPopIns (f : RF) (h : Hw) (c : CoreId) (t : Tid) : IRes :=
  IRes.ofE h do
    mbz 0x30 (f.rb = 0)
    let n ← ringArg (h.thr c t) f.ra
    let v := h.rctl c.val n
    if !ringEn v then .error (msgExc n.val 2)
    if ringHen v then .error (msgExc n.val 4)
    match h.popMsg c n with
    | none => .ok (h.wrG c t f.rd {}, .seq)
    | some (a, h) => .ok (h.wrG c t f.rd ⟨.laddr, BitVec.ofNat 64 a⟩, .seq)

/-- MDONE (R271). -/
def Hw.mdoneIns (f : RF) (h : Hw) (c : CoreId) (t : Tid) : IRes :=
  IRes.ofE h do
    mbz 0x30 (f.rd = 0 && f.rb = 0)
    let n ← ringArg (h.thr c t) f.ra
    if !ringEn (h.rctl c.val n) then .error (msgExc n.val 2)
    if (h.ring (coreIdW c) n).popped = 0 then .error (msgExc n.val 3)
    .ok (h.freed (coreIdW c) n Ring.retire, .seq)

/-- The dispatch set of a thread (R273). -/
def Hw.dispatchSet (h : Hw) (c : CoreId) (t : Tid) : List (Fin 4) :=
  (List.finRange 4).filter fun n => let v := h.rctl c.val n; ringEn v && ringHen v && ringThread v == t

/-- The ring from which MWAIT dispatches now, if any (R273). -/
def Hw.dispatchRing (h : Hw) (c : CoreId) (t : Tid) : Option (Fin 4) :=
  (h.dispatchSet c t).find? fun n => (h.ring (coreIdW c) n).nextMsg.isSome

/-- Dispatch from a ring (R274). -/
def Hw.dispatch (h : Hw) (c : CoreId) (t : Tid) (n : Fin 4) : IRes :=
  let x := h.thr c t
  match h.popMsg c n with
  | none => .ok h .stay
  | some (a, h') =>
    let k := h.core c.val
    let hd := leNat (k.lmem.readN a 8)
    let tag := hd / 2 ^ 32 % 65536
    let e := fld (h.cpg c.val 0x0D0) 31 20 * 512 + 8 * (tag % 64)
    IRes.ofE h do
      let rs ← pushRs (h.rsTrap c.val) x.rs x.pc
      let w : TWord := if localTop ≤ e then {} else k.ldWord e
      if !w.tag.isAddr then .error (msgExc n.val 5)
      .ok (((h'.setRs c t rs).wrG c t 1 ⟨.laddr, BitVec.ofNat 64 a⟩).wrG c t 2 (int (BitVec.ofNat 64 hd)), .jump w)

/-- A sample of MWAIT (R273): dispatch, or events, or none. -/
def Hw.mwaitSample (h : Hw) (c : CoreId) (t : Tid) (rd : Reg) (mask : W32) : Option IRes :=
  match h.dispatchRing c t with
  | some n => some (h.dispatch c t n)
  | none => (h.wfeSample c t rd mask).map fun h => .ok h .seq

/-- MWAIT (R273). -/
def Hw.mwaitIns (f : RF) (h : Hw) (c : CoreId) (t : Tid) : IRes :=
  match (do
    mbz 0x30 (f.rb = 0)
    let v ← needInt 0 ((h.thr c t).rd f.ra)
    inRange 0x30 (decide (v.toNat < 2 ^ 32))
    inRange 0x30 (v ≠ 0 || !(h.dispatchSet c t).isEmpty)
    .ok (v.setWidth 32) : Except Exc W32) with
  | .error e => .exc h e
  | .ok m =>
    match h.mwaitSample c t f.rd m with
    | some r => r
    | none => .ok (h.park c t .waitEv (.mwait f.rd m)) .stay

/-! ### Composition (R275) -/

/-- A composition opens if it is closed: each byte of the buffer is 0 or one left by an earlier composition (log 12). -/
def Hw.openComp (h : Hw) (c : CoreId) (t : Tid) : Hw :=
  if (h.thr c t).comp.isOpen then h
  else
    let n := h.free
    { h with free := n + 1024 }.updT c t fun x =>
      { x with comp := { x.comp with isOpen := true, hdrSet := false,
                                     buf := x.comp.buf.filter fun p => Config.pick (n + p.1) % 2 == 1 } }

/-- Bytes written into the buffer. -/
def Comp.write (b : Tab Byte) (at' : Nat) : List Byte → Tab Byte
  | [] => b
  | v :: vs => Comp.write (put b at' v) (at' + 1) vs

/-- A closed composition. -/
def Comp.close (x : Comp) : Comp := { x with isOpen := false, hdrSet := false }

/-- A destination core ID that MHDR accepts (R275). -/
def destOk (d : Nat) : Bool := decide (d / 16384 = 0) && decide (d / 256 % 64 < 40)

/-- MHDR. -/
def Hw.mhdrIns (f : RF) (h : Hw) (c : CoreId) (t : Tid) : IRes :=
  IRes.ofE h do
    mbz 0x30 (f.rd = 0)
    let (a, b) ← int2 (h.thr c t) f
    inRange 0x30 (decide (a.toNat < 2 ^ 18) && destOk (fld a 15 0) && decide (b.toNat < 65536))
    .ok ((h.openComp c t).updT c t fun x =>
      { x with comp := { x.comp with hdrSet := true, dest := a.setWidth 16,
                                     ring := ⟨fld a 17 16 % 4, Nat.mod_lt _ (by decide)⟩, tag := b.setWidth 16 } }, .seq)

/-- MPUT. -/
def Hw.mputIns (f : RF) (h : Hw) (c : CoreId) (t : Tid) : IRes :=
  let x := h.thr c t
  IRes.ofE h do
    mbz 0x30 (f.rd = 0)
    let b ← needInt 1 (x.rd f.rb)
    inRange 0x30 (decide (16 ≤ b.toNat ∧ b.toNat ≤ 1016 ∧ b.toNat % 8 = 0))
    .ok ((h.openComp c t).updT c t fun y =>
      { y with comp := { y.comp with buf := Comp.write y.comp.buf b.toNat (leBytes 8 (x.rd f.ra).val.toNat) } }, .seq)

/-- MPUT.V. -/
def Hw.mputVIns (f : RF) (h : Hw) (c : CoreId) (t : Tid) : IRes :=
  let x := h.thr c t
  IRes.ofE h do
    mbz 0x30 (f.ra = 0)
    let b ← needInt 1 (x.rd f.rb)
    inRange 0x30 (decide (1 ≤ b.toNat ∧ b.toNat ≤ 15))
    .ok ((h.openComp c t).updT c t fun y =>
      { y with comp := { y.comp with buf := Comp.write y.comp.buf (64 * b.toNat) (vecBytes (x.vec f.rd)) } }, .seq)

/-- MDISCARD. -/
def Hw.mdiscardIns (f : RF) (h : Hw) (c : CoreId) (t : Tid) : IRes :=
  IRes.ofE h do
    mbz 0x30 (f.rd = 0 && f.ra = 0 && f.rb = 0)
    .ok (h.updT c t fun x => { x with comp := x.comp.close }, .seq)

/-! ### Credits of a core (R277, R276) -/

/-- The entry of a core's credit table for a destination ring. -/
def Core.credit (k : Core) (dest : BitVec 16) (ring : Fin 4) : Option (Nat × CEnt) :=
  k.credits.find? fun p => p.2.state != .empty && p.2.dest == dest && p.2.ring == ring

/-- The outcome of a send that asks for `cost` credits. -/
inductive CRes where
  | spent (h : Hw)
  | wait (h : Hw)
  | again (h : Hw)

/-- A later stamp than any of a table. -/
def stampOf (t : Tab CEnt) : Nat := (t.map fun p => p.2.stamp).foldl Nat.max 0 + 1

/-- A credit request on MSG (R277). -/
def Hw.askCredit (h : Hw) (hd : Holder) (dest : BitVec 16) (ring : Fin 4) (need gran : Nat) : Hw :=
  h.send { q := .msg, src := holderSrc hd, dest := dest, body := .creq hd ring need (Nat.max need gran) }

/-- The entry of the credit table that a send without credit uses: an EMPTY one, else the least recently used HELD. -/
def Core.creditSlot (k : Core) : Option (Nat × Option CEnt) :=
  match (List.range 64).find? fun i => (lookD k.credits i {}).state == .empty with
  | some i => some (i, none)
  | none =>
    let held := k.credits.filter fun p => p.2.state == .held
    match held.foldl (fun (b : Option (Nat × CEnt)) p =>
        match b with | none => some p | some q => if p.2.stamp < q.2.stamp then some p else some q) none with
    | some (i, e) => some (i, some e)
    | none => none

/-- Credits of the core's table are spent, or asked for (R276, R277). -/
def Hw.spend (h : Hw) (c : CoreId) (dest : BitVec 16) (ring : Fin 4) (cost : Nat) : CRes :=
  let k := h.core c.val
  let gran := h.reqGran c.val
  let set (h : Hw) (i : Nat) (e : CEnt) : Hw :=
    (h.updC c.val fun k => { k with credits := put k.credits i e }).creditInject c.val 2 i
  match k.credit dest ring with
  | some (i, e) =>
    if cost ≤ e.credits then .spent (set h i { e with credits := e.credits - cost, stamp := stampOf k.credits })
    else if e.state = .req then .wait h
    else .wait ((set h i { e with state := .req }).askCredit (.core c) dest ring (cost - e.credits) gran)
  | none =>
    match k.creditSlot with
    | none => .again h
    | some (i, old) =>
      let h := match old with
        | none => h
        | some o => h.send { q := .ctl, src := coreIdW c, dest := o.dest, body := .ret (.core c) o.ring o.credits }
      .wait ((set h i { dest := dest, ring := ring, state := .req, stamp := stampOf k.credits }).askCredit (.core c) dest ring
        cost gran)

/-- The composed bytes from 0x10 on. -/
def Comp.data (x : Comp) (n : Nat) : List Byte := (List.range (64 * n - 16)).map fun i => lookD x.buf (i + 16) 0

/-- The NORMAL message that a SEND of `n` granules hands to the router. -/
def Thread.composed (x : Thread) (c : CoreId) (n : Nat) : Msg :=
  normalMsg (coreIdW c) x.comp.dest x.comp.ring n x.comp.tag (x.comp.data n)

/-- The number of granules of a SEND, its checks done (R275, R276). -/
def sendArgs (f : RF) (x : Thread) : Except Exc Nat := do
  mbz 0x30 (f.rd = 0 && f.rb = 0)
  let n ← needInt 0 (x.rd f.ra)
  inRange 0x30 (decide (1 ≤ n.toNat ∧ n.toNat ≤ 16))
  if !(x.comp.isOpen && x.comp.hdrSet) then .error (msgExc x.comp.ring.val 1)
  .ok n.toNat

/-- A composition closes. -/
def Hw.closeComp (h : Hw) (c : CoreId) (t : Tid) : Hw := h.updT c t fun x => { x with comp := x.comp.close }

/-- SEND (R276). -/
def Hw.sendIns (f : RF) (h : Hw) (c : CoreId) (t : Tid) : IRes :=
  let x := h.thr c t
  match sendArgs f x with
  | .error e => .exc h e
  | .ok n =>
    match h.spend c x.comp.dest x.comp.ring n with
    | .spent h =>
      .ok ((h.send { q := .msg, src := coreIdW c, dest := x.comp.dest,
                     body := .message (x.composed c n) }).closeComp c t) .seq
    | .wait h => h.waitReq c t (.send f)
    | .again h => .ok h .stay

/-- Fields of a fixed route (R282). -/
def frDest (v : W32) : BitVec 16 := v.setWidth 16
def frRing (v : W32) : Fin 4 := ⟨fld v 25 24 % 4, Nat.mod_lt _ (by decide)⟩
def frTag (v : W32) : BitVec 16 := BitVec.ofNat 16 (fld v 23 16)

/-- Route number and payload granules of a SENDF, its checks done (R275, R283, R290). -/
def Hw.sendfArgs (h : Hw) (f : RF) (c : CoreId) (x : Thread) : Except Exc (Nat × Nat) := do
  mbz 0x30 (f.rd = 0)
  let (r, n) ← int2 x f
  inRange 0x30 (decide (r.toNat < 8 ∧ 1 ≤ n.toNat ∧ n.toNat ≤ 15))
  if !x.comp.isOpen then .error (msgExc r.toNat 1)
  if !(h.cpg c.val (0x0E0 + 4 * r.toNat)).getLsbD 31 then .error (msgExc r.toNat 6)
  .ok (r.toNat, n.toNat)

/-- SENDF (R283). -/
def Hw.sendfIns (f : RF) (h : Hw) (c : CoreId) (t : Tid) : IRes :=
  let x := h.thr c t
  match h.sendfArgs f c x with
  | .error e => .exc h e
  | .ok (r, n) =>
    let v := h.cpg c.val (0x0E0 + 4 * r)
    match h.spend c (frDest v) (frRing v) (n + 1) with
    | .spent h =>
      let m := fixedMsg (coreIdW c) (frDest v) (frRing v) n (frTag v) r ((x.comp.data (n + 1)).drop 48)
      .ok ((h.send { q := .fix, src := coreIdW c, dest := frDest v, body := .message m }).closeComp c t) .seq
    | .wait h => h.waitReq c t (.sendf f (frDest v) (frRing v))
    | .again h => .ok h .stay

/-! ### Bounces (R288) -/

/-- BOUNCE_CNT: [15:0] received, [31:16] dropped, saturating (R292). -/
def Hw.countBounce (h : Hw) (c : Nat) (dropped : Bool) : Hw :=
  h.updCpg c 0x188 fun v =>
    if dropped then setFld v 31 16 (Nat.min (fld v 31 16 + 1) 65535) else setFld v 15 0 (Nat.min (fld v 15 0 + 1) 65535)

/-- A bounce lands or is discarded; none while the bounce ring has no room. -/
def Hw.landBounce (h : Hw) (c : CoreId) (m : Msg) : Option Hw :=
  let n := h.bounceRing c.val
  let v := h.rctl c.val n
  let r := h.ring (coreIdW c) n
  if !ringEn v || !h.inService c.val then some (h.countBounce c.val true)
  else if m.n + r.padFor (ringSize v) m.n + 15 ≤ r.free then some ((h.landCore c n m false).countBounce c.val false)
  else none

/-- A bounce that holds BNC at the sender's router (R279, R288). -/
def Hw.setBounces (h : Hw) (c : CoreId) (l : List Msg) : Hw :=
  { h with rings := put h.rings (ringKey (coreIdW c) 0) { h.ring (coreIdW c) 0 with bounces := l } }

/-- The first bounce of the core: one that waits at its router, or the first in flight (R288). -/
def Hw.bounceLanding (h : Hw) (c : CoreId) : Hw :=
  match h.bouncesOf c with
  | m :: ms =>
    match (h.setBounces c ms).landBounce c m with
    | some h => h.freed (coreIdW c) (h.bounceRing c.val) id
    | none => h
  | [] =>
    let isB (p : Pkt) : Bool := p.q == .bnc && p.dest == coreIdW c && (match p.body with | .message _ => true | _ => false)
    match h.flight.find? isB with
    | some p =>
      -- a denial ahead of it in its flow arrives first
      match h.firstOf .bnc p.src (coreIdW c) with
      | some (.message m, h) =>
        match h.landBounce c m with
        | some h => h
        | none => h.setBounces c [m]
      | _ => h
    | none => h

/-! ### Ring and route registers (R267, R280, R282) -/

/-- The constraints of R267 on an enabled ring. -/
def ringFits (base size : Nat) : Bool :=
  decide (base % 64 = 0 ∧ 0x0C00 ≤ base ∧ base + 64 * size ≤ localTop ∧ 32 ≤ size ∧ size ≤ 2048)

/-- A recall of a ring starts (R280). -/
def Hw.startRecall (h : Hw) (dest : BitVec 16) (n : Fin 4) : Hw :=
  let r := h.ring dest n
  if r.recallFrom ≠ [] then h
  else
    let hs := r.grants.map (·.1)
    hs.foldl (fun h x => h.send { q := .ctl, src := dest, dest := holderSrc x, body := .recallOf x n })
      (h.updRing dest n fun r => { r with recallFrom := hs })

/-- RINGn_BASE and RINGn_CTL as a write leaves them (R293). -/
def Hw.ringNext (h : Hw) (c : CoreId) (n : Fin 4) (ctl : Bool) (v : W32) : Nat × W32 :=
  if ctl then (h.rbase c.val n, v &&& 0xFFC00FFF) else (fld v 20 0, h.rctl c.val n)

/-- A write changes base, size or en. -/
def Hw.ringChanges (h : Hw) (c : CoreId) (n : Fin 4) (ctl : Bool) (v : W32) : Bool :=
  let (b, w) := h.ringNext c n ctl v
  let old := h.rctl c.val n
  decide (b ≠ h.rbase c.val n) || decide (ringSize w ≠ ringSize old) || ringEn w != ringEn old

/-- The ring's counts or a waiting request forbid a change of base, size or en (R267). -/
def Hw.ringBusy (h : Hw) (c : CoreId) (n : Fin 4) (ctl : Bool) (v : W32) : Bool :=
  let r := h.ring (coreIdW c) n
  h.ringChanges c n ctl v && (decide (r.granted ≠ 0) || decide (r.occ ≠ 0) || decide (r.pad ≠ 0) || decide (r.waiting ≠ []))

/-- The reason of a refused page write: the ring's state, else the value (R453, log 58). -/
def Hw.ringReason (h : Hw) (c : CoreId) (n : Fin 4) (ctl : Bool) (v : W32) : Nat := if h.ringBusy c n ctl v then 4 else 3

/-- A write of RINGn_BASE or RINGn_CTL (R267, R293): none when it is refused. -/
def Hw.ringWrite (h : Hw) (c : CoreId) (n : Fin 4) (ctl : Bool) (v : W32) : Option Hw :=
  let (newB, newC) := h.ringNext c n ctl v
  let bitOk := !ctl || (decide (16 ≤ fld v 26 22) && decide (fld v 26 22 ≤ 30))
  let changed := h.ringChanges c n ctl v
  if !bitOk || (ringEn newC && !ringFits newB (ringSize newC)) || h.ringBusy c n ctl v then none
  else
    let h := if ctl then h.setCpg c.val (0x104 + 32 * n.val) newC
      else h.setCpg c.val (0x100 + 32 * n.val) (BitVec.ofNat 32 newB)
    let h := if ringEn newC && changed then
        h.updRing (coreIdW c) n fun r =>
          { r with wr := 0, pop := 0, ret := 0, popped := 0, free := ringSize newC, recs := [] }
      else h
    some (if ctl && v.getLsbD 21 then h.startRecall (coreIdW c) n else h)

/-- An MTSR of the special register of page offset `o` (R292): supervisor only, a source of kind int; a refusal is
ILLEGAL with reason 4. -/
def Hw.mtsrPage (o : Nat) (ra : Reg) (write : Hw → W32 → Option Hw) (h : Hw) (c : CoreId) (t : Tid) : IRes :=
  let n := 0x0D0 + (o - 0x0D0) / 4
  IRes.ofE h (match needPriv (h.thr c t) 0x05 1 with
    | .error e => .error (srExc n e)
    | .ok _ =>
      match needInt 0 ((h.thr c t).rd ra) with
      | .error e => .error e
      | .ok v =>
        match write h (v.setWidth 32) with
        | some h => .ok (h, .seq)
        | none => .error (srExc n (illegal 0x05 4)))

/-- A page write with the same effect: a refusal is an access error (R11), with the reason that `why` gives. -/
def Hw.pageSet (o : Nat) (v : W32) (write : Hw → W32 → Option Hw) (why : Hw → W32 → Nat) (h : Hw) (c : CoreId) : Hw :=
  match write h v with
  | some h => h
  | none => h.accErr (dieOf c.val) (siteIx c.val) o (why h v)

/-- A staged write of a fixed route (R282). -/
def Hw.stageRoute (h : Hw) (c : CoreId) (r : Nat) (v : W32) : Hw :=
  h.updC c.val fun k => { k with frStaged := put k.frStaged r (v &&& 0x83FFFFFF) }

/-- Step 5 of R331 at a core's ring: none when refused. -/
def Hw.ringRecon (h : Hw) (c : CoreId) (n : Fin 4) : Option Hw :=
  let r := h.ring (coreIdW c) n
  if r.recallFrom ≠ [] ∨ r.waiting ≠ [] then none
  else some (((h.updRing (coreIdW c) n fun r => { r with free := r.free + r.granted, granted := 0, grants := [] }).setCpg
    c.val 0x1A8 (BitVec.ofNat 32 r.granted)).serveAll (coreIdW c))

/-! ### Arrivals at a receiver -/

/-- A credit request at its ring (R278, R287). -/
def Hw.requestAt (h : Hw) (hd : Holder) (dest : BitVec 16) (n : Fin 4) (need want port : Nat) : Hw :=
  let deny (b : BitVec 2) : Hw := h.send { q := .bnc, src := dest, dest := holderSrc hd, body := .deny hd n b, port := port }
  let retry : Hw := h.send { q := .ctl, src := dest, dest := holderSrc hd, body := .retry hd n, port := port }
  let b := h.refuses (endpOf dest n)
  let r := h.ring dest n
  if b ≠ 0 then deny b
  else if !h.ringOn dest n then deny 3
  else if r.waiting = [] && h.grantable dest n hd need then h.grant dest n hd (Nat.min want (r.free - 15)) port
  else if r.waiting.length < 8 ∧ h.grantTo dest n ≠ 0 then
    h.updRing dest n fun r => { r with waiting := r.waiting ++
      [{ h := hd, src := holderSrc hd, need := need, want := want, port := port }] }
  else retry

/-- Returned credits reach the ring (R280, R484). -/
def Hw.returnAt (h : Hw) (hd : Holder) (dest : BitVec 16) (n : Fin 4) (amount : Nat) : Hw :=
  let r := h.ring dest n
  if r.grants.any fun g => g.1 == hd then
    (h.freed dest n fun r =>
      { r with granted := r.granted - amount, free := r.free + amount, grants := r.grants.filter fun g => g.1 != hd,
               recallFrom := r.recallFrom.filter fun x => x != hd }).serveAll dest
  else h.discard (dest.toNat / 256 % 64) none

/-- A visible message is dispatched to a thread that waits in MWAIT, unless an entry other than INTR is due (R109, R123,
R273, R274). -/
def Hw.msgDispatch (h : Hw) (c : CoreId) (t : Tid) : Hw :=
  let x := h.thr c t
  let due := match h.dueEvent c t with | some e => e.cause != 18 | none => false
  match x.wait with
  | .mwait _ _ =>
    match h.dispatchRing c t with
    | some n => if h.coreRuns c.val && x.state == .waitEv && !due then h.complete c t fun h => h.dispatch c t n else h
    | none => h
  | _ => h

/-- The oldest queued credit request of a holder is answered with RETRY (R278). -/
def Hw.grantTimeout (h : Hw) (hd : Holder) (dest : BitVec 16) (n : Fin 4) : Hw :=
  match (h.ring dest n).waiting.find? fun q => q.h == hd with
  | some q =>
    (h.freed dest n fun r => { r with waiting := r.waiting.eraseP fun q => q.h == hd }).send
      { q := .ctl, src := dest, dest := holderSrc hd, body := .retry hd n, port := q.port }
  | none => h

/-- An EVENT reaches its destination (R284, R287). -/
def Hw.eventAt (h : Hw) (src dest : BitVec 16) (t : Tid) (b : Fin 32) : Hw :=
  match endpOf dest 0 with
  | .core c =>
    if h.refuses (.core c) = 0 then
      (if (h.cpg c.val 0x280).getLsbD 20 then h.wakeBy c.val 2 3 else h).setEv c t b.val
    else h.discardAt dest src 2 0 0
  | _ => h.discardAt dest src 2 0 0

/-- One record of an OPERAND message at a core (R285); none when it is not applied. -/
def Hw.operandRec (h : Hw) (c : CoreId) (r : OperandRec) : Option Hw :=
  let tag := Tag.ofCode r.tag.toNat
  if !r.valid || !(h.thr c r.thread).state.halted then none
  else if hr : r.sel.toNat < 32 then some (h.wrG c r.thread ⟨r.sel.toNat, hr⟩ ⟨tag, r.payload⟩)
  else if r.sel = 0x20 && tag.isAddr then some (h.updT c r.thread fun x => { x with pc := ⟨tag, r.payload⟩ })
  else none

/-- An OPERAND message (R285, R287). -/
def Hw.operandAt (h : Hw) (dest : BitVec 16) (recs : List OperandRec) : Hw :=
  match endpOf dest 0 with
  | .core c =>
    if h.goneSite c.val || !(h.cpg c.val 0x040).getLsbD 7 then h.discardAt dest 0x2700 3 0 0
    else recs.foldl (fun (h : Hw) r => match h.operandRec c r with | some h => h | none => h.discard (dieOf c.val) none)
      (h.wakeBy c.val 1 5)
  | _ => h.discardAt dest 0x2700 3 0 0

/-- An OPERAND message crosses the mesh from K0, by the route of R26 on queue MSG, and arrives: one flit at each router; held while a
die on its way sleeps or a pair of its links is DEAD, and lost to an armed injection (R261, R262, R294, R432). The command is both its
sending and its arrival, for no command sends one (log 93). -/
def Hw.operandArrives (h : Hw) (dest : BitVec 16) (recs : List OperandRec) : Hw :=
  let a := meshEntry 0x2700
  let b := meshPoint dest.toNat
  let entry := entryLink 0x2700 a
  let route := routeOf 160 a (b.1, b.2.1) b.2.2
  if !h.awake (fld dest 13 8) || h.routeHeld entry route then h
  else
    let h := match entry with
      | some n => h.linkHop (h.carrier n)
      | none => h
    match h.injectHops Queue.msg.code none false false route with
    | (h, some _) => (route.foldl (fun h x => h.countFlits 1 x) h).operandAt dest recs
    | (h, none) => h

/-- A BROADCAST of K0 (R286): granules 1 to n − 1 in every ACTIVE and SPARE site of the dies of the mask. -/
def Hw.broadcast (h : Hw) (mask : BitVec 20) (a : Nat) (data : List Byte) : Hw :=
  (bitsOf 20 mask).foldl (fun h d => (List.range 256).foldl (fun h s =>
    let c := d * 256 + s
    match (h.site c).st with
    | .active | .spare => h.lmWrite c a data
    | _ => h) h) h

/-! ### The meanings -/

/-- A write of RINGn_BASE or RINGn_CTL through the page or by MTSR (R267, R292). -/
def State.ringReg (s : State) (c : CoreId) (o : Nat) (w : WrBy) (write : Hw → W32 → Option Hw)
    (why : Hw → W32 → Nat := fun _ _ => 4) : Host.Outcome State Fault Refusal :=
  match w with
  | .page v => s.run fun h => h.onPage (dieOf c.val) (siteIx c.val) fun h => h.pageSet o v write why c
  | .mtsr t ra => s.issue c t 4 [ra] (Hw.mtsrPage o ra write)

/-- MHDR (R275). Set header fields and open a composition. -/
def execMhdr (c : CoreId) (t : Tid) (f : RF) (s : State) : Host.Outcome State Fault Refusal :=
  s.issue c t 4 [f.ra, f.rb] (Hw.mhdrIns f)
/-- MPUT (R275). Write 8 bytes into the composition buffer. -/
def execMput (c : CoreId) (t : Tid) (f : RF) (s : State) : Host.Outcome State Fault Refusal :=
  s.issue c t 4 [f.ra, f.rb] (Hw.mputIns f)
/-- MPUT_V (R275). Write a vector register into a granule. -/
def execMputV (c : CoreId) (t : Tid) (f : RF) (s : State) : Host.Outcome State Fault Refusal :=
  s.issue c t 4 [f.rb] (Hw.mputVIns f)
/-- SEND (R276). Send the composition as a NORMAL message when credit allows. -/
def execSend (c : CoreId) (t : Tid) (f : RF) (s : State) : Host.Outcome State Fault Refusal :=
  s.issue c t 4 [f.ra] (Hw.sendIns f)
/-- SENDF (R283). Send granules on a fixed route. -/
def execSendf (c : CoreId) (t : Tid) (f : RF) (s : State) : Host.Outcome State Fault Refusal :=
  s.issue c t 4 [f.ra, f.rb] (Hw.sendfIns f)
/-- MDISCARD (R275). Close the composition without sending. -/
def execMdiscard (c : CoreId) (t : Tid) (f : RF) (s : State) : Host.Outcome State Fault Refusal :=
  s.issue c t 4 [] (Hw.mdiscardIns f)
/-- MQ_POP (R270). Pop the next visible message of a ring. -/
def execMqPop (c : CoreId) (t : Tid) (f : RF) (s : State) : Host.Outcome State Fault Refusal :=
  s.issue c t 4 [f.ra] (Hw.mqPopIns f)
/-- MDONE (R271). Retire the oldest popped message and free its granules. -/
def execMdone (c : CoreId) (t : Tid) (f : RF) (s : State) : Host.Outcome State Fault Refusal :=
  s.issue c t 4 [f.ra] (Hw.mdoneIns f)
/-- MWAIT (R273). Dispatch a message or take events, else wait. -/
def execMwait (c : CoreId) (t : Tid) (f : RF) (s : State) : Host.Outcome State Fault Refusal :=
  s.issue c t 4 [f.ra] (Hw.mwaitIns f)
/-- MSG_DISPATCH (R274). A visible message is dispatched to its handler in the waiting thread. -/
def execMsgDispatch (c : CoreId) (t : Tid) (s : State) : Host.Outcome State Fault Refusal :=
  s.run fun h => h.msgDispatch c t
/-- MESSAGE_DEPOSIT (R268). An arriving NORMAL or FIXED message is written into a ring. -/
def execMessageDeposit (src : BitVec 16) (dest : BitVec 16) (fixed : Bool)
    (s : State) : Host.Outcome State Fault Refusal :=
  s.run fun h =>
    match h.firstOf (if fixed then .fix else .msg) src dest with
    | some (.message m, h) => h.deposit m
    | _ => h
/-- EVENT_ARRIVAL (R284). An EVENT message sets an event bit at its destination. -/
def execEventArrival (src : BitVec 16) (dest : BitVec 16) (s : State) : Host.Outcome State Fault Refusal :=
  s.run fun h =>
    match h.firstOf .msg src dest with
    | some (.event t b, h) => h.eventAt src dest t b
    | _ => h
/-- CREDIT_REQUEST_ARRIVAL (R278). A receiver grants, queues, retries or denies a credit request. -/
def execCreditRequestArrival (h' : Holder) (dest : BitVec 16) (ring : Fin 4)
    (s : State) : Host.Outcome State Fault Refusal :=
  s.run fun h =>
    match h.firstOf .msg (holderSrc h') dest with
    | some (.creq q n need want port, h1) => if q = h' ∧ n = ring then h1.requestAt q dest n need want port else h
    | _ => h
/-- GRANT_TIMEOUT (R278). A queued credit request times out and gets RETRY. -/
def execGrantTimeout (h : Holder) (dest : BitVec 16) (ring : Fin 4) (s : State) : Host.Outcome State Fault Refusal :=
  s.run fun x => x.grantTimeout h dest ring
/-- RETURN_ARRIVAL (R280). Returned credits move from granted to free. -/
def execReturnArrival (h : Holder) (dest : BitVec 16) (ring : Fin 4) (s : State) : Host.Outcome State Fault Refusal :=
  s.run fun x =>
    match x.firstOf .ctl (holderSrc h) dest with
    | some (.ret q n amount, x1) => if q = h ∧ n = ring then x1.returnAt q dest n amount else x
    | _ => x
/-- BOUNCE_LANDING (R288). A bounce lands in the sender's bounce ring once room exists. -/
def execBounceLanding (c : CoreId) (s : State) : Host.Outcome State Fault Refusal := s.run fun h => h.bounceLanding c
/-- RING_CONFIG_WRITE (R267). A write of RINGn_BASE or RINGn_CTL, refused when not permitted. -/
def execRingConfigWrite (c : CoreId) (n : Fin 4) (ctl : Bool) (w : WrBy)
    (s : State) : Host.Outcome State Fault Refusal :=
  s.ringReg c ((if ctl then 0x104 else 0x100) + 32 * n.val) w (fun h v => h.ringWrite c n ctl v)
    fun h v => h.ringReason c n ctl v
/-- RING_RECALL (R280). RINGn_CTL.recall starts a recall of a ring's grants. -/
def execRingRecall (c : CoreId) (n : Fin 4) (w : RecallBy) (s : State) : Host.Outcome State Fault Refusal :=
  match w with
  | .page => s.ringReg c (0x104 + 32 * n.val) (.page 0) fun h _ => h.ringWrite c n true (setBit (h.rctl c.val n) 21 true)
  | .mtsr t => s.ringReg c (0x104 + 32 * n.val) (.mtsr t 0) fun h _ => h.ringWrite c n true (setBit (h.rctl c.val n) 21 true)
/-- FROUTE_WRITE (R282). Stage a fixed-route entry for its beat. -/
def execFrouteWrite (c : CoreId) (r : Fin 8) (w : WrBy) (s : State) : Host.Outcome State Fault Refusal :=
  s.ringReg c (0x0E0 + 4 * r.val) w fun h v => some (h.stageRoute c r.val v)
/-- RING_RECON (R331). Move a ring's unheld granted credits to free. -/
def execRingRecon (c : CoreId) (n : Fin 4) (s : State) : Host.Outcome State Fault Refusal :=
  s.ringReg c 0x1A4 (.page (BitVec.ofNat 32 n.val)) fun h _ => h.ringRecon c n
/-- OPERAND_ARRIVAL (R285). An OPERAND message writes registers of a halted thread; it has three records. -/
def execOperandArrival (dest : BitVec 16) (recs : List OperandRec) (s : State) : Host.Outcome State Fault Refusal :=
  if recs.length = 3 then s.run fun h => h.operandArrives dest recs else .fault .illFormed
/-- BROADCAST_ARRIVAL (R286). A BROADCAST writes whole granules into local memory of the named dies. -/
def execBroadcastArrival (mask : BitVec 20) (laddr : BitVec 21) (data : List Byte) (s : State) :
    Host.Outcome State Fault Refusal :=
  if (Instr.broadcastArrival mask laddr data).wf then s.run fun h => h.broadcast mask laddr.toNat data
  else .fault .illFormed

end Sys2Proof.Machine
end

