-- ==== Sys2Proof/Machine/Tile.lean ====
section
/-! DEFINITION. Tiles: configuration, transfers, TZERO and the checks of tile operands (spec 04 R156–R171). -/

namespace Sys2Proof.Machine

/-! ### Configuration (R157, R158) -/

/-- Classes of formats (R157, R168). -/
inductive TClass where
  | plain | f8 | mx8 | mx6 | mx4 | bf | i8
  deriving DecidableEq, Repr

def tcv (v : Word) : Bool := v.getLsbD 31
def tsp (v : Word) : Bool := v.getLsbD 20
def tfmt (v : Word) : Nat := fld v 19 16
def tbpr (v : Word) : Nat := fld v 15 8
def trows (v : Word) : Nat := fld v 4 0 + 1
/-- Width of an element in bits. -/
def twidth (v : Word) : Nat := [8, 8, 8, 8, 8, 6, 6, 4, 16, 32, 8].getD (tfmt v) 8
def tclass (v : Word) : TClass :=
  [TClass.plain, .f8, .f8, .mx8, .mx8, .mx6, .mx6, .mx4, .bf, .plain, .i8].getD (tfmt v) .plain
def tmx (v : Word) : Bool := decide (3 ≤ tfmt v ∧ tfmt v ≤ 7)
/-- E, S and L of R158. -/
def telems (v : Word) : Nat := tbpr v * 8 / twidth v * (if tsp v then 2 else 1)
def tside (v : Word) : Nat := (if tmx v then telems v / 32 else 0) + (if tsp v then telems v / 8 else 0)
def tlen (v : Word) : Nat := tbpr v + tside v

/-- Values that a write to TCFGn accepts (R157). -/
def tcfgOk (v : Word) : Bool :=
  if !tcv v then !tsp v && decide (tfmt v = 0 ∧ tbpr v = 0 ∧ trows v = 1)
  else
    decide (tfmt v ≤ 10 ∧ 8 ≤ tbpr v ∧ tbpr v ≤ 128 ∧ tbpr v % 8 = 0) && (!tmx v || decide (telems v % 32 = 0)) &&
      (!tsp v || (decide (tbpr v ≤ 64) && (tclass v == .f8 || tclass v == .mx8 || tclass v == .mx4)))

/-- The bits of TCFGn that a write sets (R157). -/
def tcfgMask : Word := 0x801FFF1F

/-! ### Tiles -/

def tileOf (r : Reg) : Fin 8 := ⟨r.val % 8, Nat.mod_lt _ (by decide)⟩
def rowOf (n : Nat) : Fin 32 := ⟨n % 32, Nat.mod_lt _ (by decide)⟩
def Core.tile (k : Core) (n : Fin 8) : Tile := lookD k.tiles n.val {}
def Hw.updTile (h : Hw) (c : CoreId) (n : Fin 8) (f : Tile → Tile) : Hw :=
  h.updC c.val fun k => { k with tiles := put k.tiles n.val (f (k.tile n)) }

/-- complete(t) of R160. -/
def Tile.complete (x : Tile) : Bool :=
  decide (x.valid.toNat % 2 ^ trows x.cfg = 2 ^ trows x.cfg - 1) &&
    (match x.prog with | some p => p.kind != .load | none => true)

/-- Bytes [at, at + n) of a row: element bytes from 0 on, side bytes from 128 on. -/
def Tile.rowBytes (x : Tile) (row at' n : Nat) : List Byte := (List.range n).map fun i => lookD x.bytes (row * 256 + at' + i) 0
def Tile.setBytes (x : Tile) (row at' : Nat) (bs : List Byte) : Tile :=
  { x with bytes := bs.zipIdx.foldl (fun t p => put t (row * 256 + at' + p.2) p.1) x.bytes }

/-- The L bytes of a row as memory holds them (R158). -/
def Tile.memRow (x : Tile) (cfg : Word) (row : Nat) : List Byte :=
  x.rowBytes row 0 (tbpr cfg) ++ x.rowBytes row 128 (tside cfg)

/-- The latches that hold rows of a tile are invalidated (R170). -/
def Core.dropLatches (k : Core) (n : Fin 8) : Core := { k with latches := k.latches.filter fun p => p.2.tile != n }

/-- A row written: its parity is good again, but for an armed injection (R170, R432 target 3). -/
def Hw.rowWritten (h : Hw) (c : CoreId) (n : Fin 8) (row : Nat) : Hw :=
  let h := (h.updC c.val fun k => k.dropLatches n).updTile c n fun x => { x with bad := x.bad.filter fun r => r != rowOf row }
  match h.inject (dieOf c.val) (siteIx c.val) 3 with
  | (some _, h) => h.updTile c n fun x => { x with bad := rowOf row :: x.bad }
  | (none, h) => h

/-- A matrix instruction that reads the tile is still in a queue (R163); `before`: one issued before that number (R180). -/
def Core.tileRead (k : Core) (n : Fin 8) (before : Option Nat := none) : Bool :=
  (k.front ++ k.back).any fun i => i.kind != .rowred2 && (i.ta == n || i.tb == n) && before.all fun s => decide (i.seq < s)

/-- Another thread is storing the tile (R163). -/
def Core.tileStored (k : Core) (n : Fin 8) : Bool :=
  tids.any fun t => match (k.thr t).wait with
    | .req (.tile .store f _ _ _) | .req (.tile .storeT f _ _ _) => tileOf f.rd == n
    | _ => false

/-- SHAPE (R169). -/
def shapeExc (operand : Nat) (tile : Fin 8) (cause : Nat) : Exc :=
  ⟨9, pack 16 [(12, operand), (8, tile.val), (0, cause)], none⟩

/-- ECC of a tile row (R426 source 2); XADDR names tile and row (log 16). -/
def tileEcc (kind : Nat) (tile : Fin 8) (row : Nat) : Exc := eccExc 2 kind tile.val (row % 32) (tile.val * 32 + row % 32)

/-! ### Transfers (R159–R164) -/

/-- The outcome of one row. -/
inductive RowRes where
  | done (h : Hw)
  | wait (h : Hw)
  | exc (h : Hw) (e : Exc)

/-- Memory bytes of row `r` of a store. -/
def Tile.storeRow (x : Tile) (op : TileOp) (cfg : Word) (r : Nat) : List Byte :=
  if op = .storeT then
    let w := twidth cfg / 8
    ((List.range (trows cfg)).map fun i => x.rowBytes i (r * w) w).flatten
  else x.memRow cfg r

/-- The first row with bad parity that row `r` of a store reads. -/
def Tile.badRow (x : Tile) (op : TileOp) (cfg : Word) (r : Nat) : Option Nat :=
  (if op = .storeT then List.range (trows cfg) else [r]).find? fun i => x.bad.contains (rowOf i)

/-- move_row of R160. -/
def Hw.moveRow (h : Hw) (c : CoreId) (t : Tid) (op : TileOp) (n : Fin 8) (cfg : Word) (r : Nat) (base : TWord)
    (stride : Word) : RowRes :=
  let x := h.thr c t
  let tile := (h.core c.val).tile n
  let a : Int := base.val.toNat + r * stride.toInt
  let bs := tile.storeRow op cfg r
  let len := if op = .load then tlen cfg else bs.length
  match (do
    if op ≠ .load ∧ base.tag = .laddr ∧ 0 ≤ a then h.guard c x 0x24 a.toNat
    inSpace 0 base.tag a len
    if base.tag = .laddr then .ok []
    else h.pieces c x.st.priv (if op = .load then .read else .write) 3 a.toNat len : Except Exc (List Piece)) with
  | .error e => .exc h e
  | .ok ps =>
    let p := a.toNat
    if op = .load then
      let land (h : Hw) (bs : List Byte) : RowRes :=
        .done ((h.updTile c n fun x =>
          let x := (x.setBytes r 0 (bs.take (tbpr cfg))).setBytes r 128 (bs.drop (tbpr cfg))
          { x with valid := x.valid ||| BitVec.ofNat 32 (2 ^ r) }).rowWritten c n r)
      if base.tag = .laddr then
        let e := (h.core c.val).lmErr p len
        if 2 ≤ e then .exc h (tileEcc (lmKind e) n r)
        else land (h.lmScrub c.val p len) ((h.core c.val).lmem.readN p len)
      else match h.gread c t ps with
        | .data h bs => land h bs
        | .wait h => .wait h
        | .err h e => .exc h e
    else match tile.badRow op cfg r with
      | some b => .exc h (tileEcc 2 n b)
      | none =>
        if base.tag = .laddr then .done (h.lmWrite c.val p bs)
        else match h.gwrite c t ps (bs.map some) with
          | .data h _ => .done h
          | .wait h => .wait h
          | .err h e => .exc h e

/-- While the record of a tile is still number `id`, the one a transfer set or resumed, it takes this form (R160, R162). -/
def Tile.record (x : Tile) (id : Nat) (f : Progress → Option Progress) : Tile :=
  if x.records = id then { x with prog := x.prog.bind f } else x

/-- A new record, before row 0 (R160). -/
def Tile.newRecord (x : Tile) (op : TileOp) (base : TWord) (stride : Word) : Tile :=
  { x with prog := some { kind := op, next := 0, addr := base, stride := stride }, records := x.records + 1 }

/-- Rows a transfer moves. -/
def tileRows (op : TileOp) (cfg : Word) : Nat := if op = .storeT then telems cfg else trows cfg

/-- Row `r` of a transfer, and the boundary behind it: the thread stays at the transfer until its last row has moved, and
then the record that it still owns is cleared (R160–R162). -/
def Hw.tileRow (op : TileOp) (f : RF) (cfg : Word) (base : TWord) (stride : Word) (r id : Nat) (h : Hw) (c : CoreId) (t : Tid) :
    IRes :=
  let n := tileOf f.rd
  match h.moveRow c t op n cfg r base stride with
  | .exc h e => .exc h e
  | .wait h => h.waitReq c t (.tile op f r cfg id)
  | .done h =>
    if r + 1 < tileRows op cfg then
      let h := h.updTile c n fun x => x.record id fun p => some { p with next := r + 1 }
      if (h.thr c t).stepping then .ok (h.endStep c t) .stay
      else .ok (h.updT c t fun x => { x with wait := .req (.tile op f (r + 1) cfg id) }) .stay
    else .ok (h.updTile c n fun x => x.record id fun _ => none) .seq

/-- The transfer goes on at row `r` (R161). -/
def Hw.tileResume (op : TileOp) (f : RF) (r : Nat) (cfg : Word) (id : Nat) (h : Hw) (c : CoreId) (t : Tid) : IRes :=
  let x := h.thr c t
  Hw.tileRow op f cfg (x.rd f.ra) (x.rd f.rb).val r id h c t

/-- The checks of a transfer at issue (R69, R159, R160, R164). -/
def tileCheck (op : TileOp) (f : RF) (x : Thread) (tile : Tile) : Except Exc Unit := do
  mbz 0x24 (decide (f.rd.val < 8))
  let a ← needAddr 0 (x.rd f.ra)
  let s ← needInt 1 (x.rd f.rb)
  let n := tileOf f.rd
  if !tcv tile.cfg then .error (shapeExc 0 n 6)
  if op ≠ .load && !tile.complete then .error (shapeExc 0 n 1)
  if op = .storeT && (tsp tile.cfg || !([0, 1, 2, 8, 9, 10].contains (tfmt tile.cfg))) then .error (shapeExc 0 n 2)
  if a.val.toNat % 8 ≠ 0 ∨ s.toNat % 8 ≠ 0 then .error (alignExc 3 a.val.toNat)

/-- TLOAD, TSTORE and TSTORE.T. -/
def Hw.tileIns (op : TileOp) (f : RF) (h : Hw) (c : CoreId) (t : Tid) : IRes :=
  let x := h.thr c t
  let n := tileOf f.rd
  let k := h.core c.val
  let tile := k.tile n
  match tileCheck op f x tile with
  | .error e => .exc h e
  | .ok _ =>
    let a := x.rd f.ra
    let s := (x.rd f.rb).val
    let start : Option Nat := match tile.prog with
      | some p => if p.kind = op ∧ p.addr = a ∧ p.stride = s then some p.next else none
      | none => none
    match start with
    | some r => Hw.tileResume op f r tile.cfg tile.records h c t
    | none =>
      if op = .load && k.tileRead n then .ok h .stay
      else
        let h := if op = .load then (h.updC c.val fun k => k.dropLatches n).updTile c n fun x => { x with valid := 0 } else h
        Hw.tileResume op f 0 tile.cfg (tile.records + 1) (h.updTile c n fun x => x.newRecord op a s) c t

/-- TZERO (R165). -/
def Hw.tzeroIns (f : RF) (h : Hw) (c : CoreId) (_t : Tid) : IRes :=
  let n := tileOf f.rd
  let tile := (h.core c.val).tile n
  match (do
    mbz 0x24 (decide (f.rd.val < 8) && f.ra = 0 && f.rb = 0)
    if !tcv tile.cfg then .error (shapeExc 0 n 6) : Except Exc Unit) with
  | .error e => .exc h e
  | .ok _ =>
    if (h.core c.val).tileRead n then .ok h .stay
    else
      let rows := trows tile.cfg
      .ok ((h.updTile c n fun x =>
        { x with bytes := x.bytes.filter fun p => decide (rows ≤ p.1 / 256)
                 valid := x.valid ||| BitVec.ofNat 32 (2 ^ rows - 1), prog := none
                 bad := x.bad.filter fun r => decide (rows ≤ r.val) }).rowWritten c n 0) .seq

/-- A write to TCFGn by MTSR (R157, R162, R163). -/
def Hw.tcfgIns (n : Fin 8) (ra : Reg) (h : Hw) (c : CoreId) (t : Tid) : IRes :=
  match needInt 0 ((h.thr c t).rd ra) with
  | .error e => .exc h e
  | .ok v =>
    if !tcfgOk v then .exc h (srExc (0x090 + n.val) (illegal 0x05 4))
    else if (h.core c.val).tileRead n then .ok h .stay
    else .ok ((h.updC c.val fun k => k.dropLatches n).updTile c n fun x =>
      { x with cfg := v &&& tcfgMask, valid := 0, prog := none }) .seq

/-! ### TSTATn, TPADDRn and TPSTRIDEn (R171) -/

def TileOp.code : TileOp → Nat
  | .load => 1 | .store => 2 | .storeT => 3

def Tile.stat (x : Tile) : Word :=
  match x.prog with
  | none => zx x.valid
  | some p => pack 64 [(42, p.addr.tag.code), (40, p.kind.code), (32, p.next), (0, x.valid.toNat)]
def Tile.paddr (x : Tile) : Word := match x.prog with | none => 0 | some p => p.addr.val
def Tile.pstride (x : Tile) : Word := match x.prog with | none => 0 | some p => p.stride

/-! ### The meanings -/

/-- TCFG_WRITE (R157). Configure a tile, clearing its valid mask and progress. -/
def execTcfgWrite (c : CoreId) (t : Tid) (n : Fin 8) (ra : Reg) (s : State) : Host.Outcome State Fault Refusal :=
  s.issue c t 4 [ra] (Hw.tcfgIns n ra)
/-- The row, the configuration and the record's number of the transfer that a running thread is in the middle of (R160). -/
def Thread.midway (x : Thread) (op : TileOp) (f : RF) : Option (Nat × Word × Nat) :=
  match x.state, x.wait with
  | .run, .req (.tile o g r cfg id) => if o = op ∧ g = f then some (r, cfg, id) else none
  | _, _ => none

/-- The boundary before a later row of a transfer: an event or a halt that is due is taken, with the transfer as return address;
else the row moves, with no new fetch (R160, R161). -/
def Hw.nextRow (h : Hw) (c : CoreId) (t : Tid) (row : Hw → IRes) : Hw :=
  if !h.canIssue c t then h
  else match h.dueEvent c t with
  | some e => (h.takeEvent c t e).endStep c t
  | none => match h.haltDue c t with
    | some s => h.landHalt c t s
    | none => match row h with
      | .exc h' e => h.finish c t 4 (.exc (h'.countMiss c e) e)
      | r => h.finish c t 4 r

/-- A transfer offered to thread `t` of core `c`: it moves one row, from its checks on or behind the row before. -/
def State.transfer (s : State) (op : TileOp) (f : RF) (c : CoreId) (t : Tid) : Host.Outcome State Fault Refusal :=
  match (s.hw.thr c t).midway op f with
  | some (r, cfg, id) => s.run fun h =>
    if h.coreRuns c.val then
      (h.updT c t fun x => { x with wait := .none }).nextRow c t fun h => Hw.tileResume op f r cfg id h c t
    else h
  | none => s.issue c t 4 [f.ra, f.rb] (Hw.tileIns op f)

/-- TLOAD (R160). Load memory rows into a tile, resumably. Each command is one row. -/
def execTload (c : CoreId) (t : Tid) (f : RF) (s : State) : Host.Outcome State Fault Refusal := s.transfer .load f c t
/-- TSTORE (R160). Store a complete tile's rows to memory. Each command is one row. -/
def execTstore (c : CoreId) (t : Tid) (f : RF) (s : State) : Host.Outcome State Fault Refusal := s.transfer .store f c t
/-- TSTORE_T (R164). Store tile columns as memory rows. Each command is one row. -/
def execTstoreT (c : CoreId) (t : Tid) (f : RF) (s : State) : Host.Outcome State Fault Refusal := s.transfer .storeT f c t
/-- TZERO (R165). Zero a tile and set its rows valid. -/
def execTzero (c : CoreId) (t : Tid) (f : RF) (s : State) : Host.Outcome State Fault Refusal :=
  s.issue c t 4 [] (Hw.tzeroIns f)

end Sys2Proof.Machine
end

