-- ==== Sys2Proof/Machine/Vector.lean ====
section
/-! DEFINITION. The vector unit: integer, floating-point, mask, permute, reduce and convert instructions (spec 05
R190–R198). -/

namespace Sys2Proof.Machine

/-- Lane `i` of `w` bits of a vector register (R190). -/
def lane (w : Nat) (v : VWord) (i : Nat) : Nat := v.toNat / 2 ^ (w * i) % 2 ^ w
/-- The lanes of a register, lane 0 first, and back. -/
def lanes (w : Nat) (v : VWord) : List Nat := (List.range (512 / w)).map (lane w v)
def ofLanes (w : Nat) (ls : List Nat) : VWord :=
  BitVec.ofNat 512 (ls.foldr (fun x acc => acc * 2 ^ w + x % 2 ^ w) 0)

/-- Lane `i` is active: bit (w/8)·i of the mask (R190). -/
def active (w : Nat) (m : Word) (i : Nat) : Bool := m.getLsbD (w / 8 * i)

/-- Results on active lanes, the rest kept or cleared (R190). -/
def mergeLanes (w : Nat) (m : Word) (z : Bool) (old : VWord) (new : List Nat) : VWord :=
  ofLanes w (new.zipIdx.map fun p => if active w m p.2 then p.1 else if z then 0 else lane w old p.2)

/-- A compare's mask: all bits of an active lane take the result, those of inactive lanes are cleared (R190). -/
def cmpMask (w : Nat) (m : Word) (rs : List Bool) : Word :=
  BitVec.ofNat 64 (rs.zipIdx.foldl (fun acc p =>
    if p.1 && active w m p.2 then acc + (2 ^ (w / 8) - 1) * 2 ^ (w / 8 * p.2) else acc) 0)

def viCompare : ViOp → Bool
  | .ceq | .clt | .cltu => true
  | _ => false

/-- Integer lane results of width `w` (R192); a compare answers 1 or 0. -/
def viVal (op : ViOp) (w a b : Nat) : Nat :=
  let (x, y) := (sgn w a, sgn w b)
  let n := b % w
  let ofZ (z : Int) : Nat := (z % (2 ^ w : Nat)).toNat
  match op with
  | .add => (a + b) % 2 ^ w
  | .sub => (a + 2 ^ w - b) % 2 ^ w
  | .mul => a * b % 2 ^ w
  | .mulh => ofZ (x * y / 2 ^ w)
  | .min => if x < y then a else b
  | .max => if x < y then b else a
  | .minu => Nat.min a b
  | .maxu => Nat.max a b
  | .and => a &&& b
  | .or => a ||| b
  | .xor => a ^^^ b
  | .andn => a &&& (2 ^ w - 1 - b)
  | .shl => a * 2 ^ n % 2 ^ w
  | .shr => a / 2 ^ n
  | .sar => ofZ (x / 2 ^ n)
  | .ceq => if a = b then 1 else 0
  | .clt => if x < y then 1 else 0
  | .cltu => if a < b then 1 else 0

/-- A vector integer instruction (R192). A compare writes no lane of a vector register, so its z counts as an unused field that
must be 0: R190 does not say it (DESIGN CHOICE, log 110). -/
def Hw.viIns (op : ViOp) (f : VF) (h : Hw) (c : CoreId) (t : Tid) : IRes :=
  let w := 8 * 2 ^ f.et.toNat
  IRes.ofE h do
    mbz 0x20 (!viCompare op || (decide (f.vd.val < 8) && !f.z))
    .ok (h.updT c t fun x =>
      let m := x.kmask f.km
      let r := ((lanes w (x.vec f.va)).zip (lanes w (x.vec f.vb))).map fun p => viVal op w p.1 p.2
      if viCompare op then x.setMsk f.vd.val (cmpMask w m (r.map (· == 1)))
      else x.setVec f.vd (mergeLanes w m f.z (x.vec f.vd) r), .seq)

/-- Lane format of a vector floating-point instruction (R193). -/
def vfFmt (et : BitVec 2) : Fmt := if et = 1 then bf16 else fp32

def vfCompare : VfOp → Bool
  | .ceq | .clt | .cle => true
  | _ => false
/-- Functions that read no vb (R193). -/
def vfUnary : VfOp → Bool
  | .sqrt | .cvtif | .cvtfi | .exp | .log | .rcp | .rsq | .tanh => true
  | _ => false

/-- One lane's result and flags (R193); a compare answers 1 or 0. -/
def vfVal (op : VfOp) (f : Fmt) (rm : RM) (a b d : Nat) : Nat × FFlags :=
  let cmp (r : Bool × FFlags) : Nat × FFlags := (r.1.toNat, r.2)
  match op with
  | .add => f.op rm .add a b 0
  | .sub => f.op rm .sub a b 0
  | .mul => f.op rm .mul a b 0
  | .fma => f.op rm .fma a b d
  | .min => f.op rm .min a b 0
  | .max => f.op rm .max a b 0
  | .div => f.op rm .div a b 0
  | .sqrt => f.op rm .sqrt a 0 0
  | .cvtif => f.enc rm false (FV.ofZ (sgn 32 a))
  | .cvtfi => let (z, g) := cvtFI 32 rm (f.dec a); ((z % 2 ^ 32).toNat, g)
  | .exp => f.approx .exp a
  | .log => f.approx .log a
  | .rcp => f.approx .rcp a
  | .rsq => f.approx .rsq a
  | .tanh => f.approx .tanh a
  | .ceq => cmp (f.cmp .eq a b)
  | .clt => cmp (f.cmp .lt a b)
  | .cle => cmp (f.cmp .le a b)

/-- The flags of the active lanes; inactive lanes raise none (R190). -/
def laneFlags (w : Nat) (m : Word) (fs : List FFlags) : FFlags :=
  fs.zipIdx.foldl (fun acc p => if active w m p.2 then acc.or p.1 else acc) {}

/-- A vector floating-point instruction (R193); z of a compare as in `viIns` (DESIGN CHOICE, log 110). -/
def Hw.vfIns (op : VfOp) (f : VF) (h : Hw) (c : CoreId) (t : Tid) : IRes :=
  let x := h.thr c t
  let fmt := vfFmt f.et
  let w := fmt.width
  match (do
    assigned 0x21 (decide (f.et.toNat < 2))
    mbz 0x21 ((!vfCompare op || (decide (f.vd.val < 8) && !f.z)) && (!vfUnary op || f.vb = 0) &&
      ((op != .cvtif && op != .cvtfi) || f.et = 0)) : Except Exc Unit) with
  | .error e => .exc h e
  | .ok _ =>
    let m := x.kmask f.km
    let r := ((lanes w (x.vec f.va)).zip ((lanes w (x.vec f.vb)).zip (lanes w (x.vec f.vd)))).map fun p =>
      vfVal op fmt x.rm p.1 p.2.1 p.2.2
    h.fpDone c t (laneFlags w m (r.map (·.2))) fun h => h.updT c t fun x =>
      if vfCompare op then x.setMsk f.vd.val (cmpMask w m (r.map fun p => p.1 == 1))
      else x.setVec f.vd (mergeLanes w m f.z (x.vec f.vd) (r.map (·.1)))

/-- A mask instruction (R195). -/
def Hw.maskIns (op : KOp) (f : RF) (h : Hw) (c : CoreId) (t : Tid) : IRes :=
  let x := h.thr c t
  let small (r : Reg) : Bool := decide (r.val < 8)
  let logic (g : Word → Word → Word) : Except Exc (Hw × Nxt) := do
    mbz 0x23 (small f.rd && small f.ra && small f.rb)
    .ok (h.updT c t fun x => x.setMsk f.rd.val (g (x.msk f.ra.val) (x.msk f.rb.val)), .seq)
  IRes.ofE h <| match op with
  | .and => logic fun a b => a &&& b
  | .or => logic fun a b => a ||| b
  | .xor => logic fun a b => a ^^^ b
  | .andn => logic fun a b => a &&& ~~~b
  | .not => do
    mbz 0x23 (small f.rd && small f.ra && f.rb = 0)
    .ok (h.updT c t fun x => x.setMsk f.rd.val (~~~x.msk f.ra.val), .seq)
  | .movg => do
    mbz 0x23 (small f.rd && f.rb = 0)
    let v ← needBits 0 (x.rd f.ra)
    .ok (h.updT c t fun x => x.setMsk f.rd.val v, .seq)
  | .movk => do
    mbz 0x23 (small f.ra && f.rb = 0)
    .ok (h.wrG c t f.rd (int (x.msk f.ra.val)), .seq)
  | .first => do
    mbz 0x23 (small f.rd && f.rb = 0)
    let n ← needInt 0 (x.rd f.ra)
    inRange 0x23 (decide (n.toNat ≤ 64))
    .ok (h.updT c t fun x => x.setMsk f.rd.val (BitVec.ofNat 64 (2 ^ n.toNat - 1)), .seq)

/-! ### Permute, reduce and convert (R196, R197) -/

/-- VSPLAT. -/
def Hw.vsplatIns (f : VF) (h : Hw) (c : CoreId) (t : Tid) : IRes :=
  let w := 8 * 2 ^ f.et.toNat
  IRes.ofE h do
    mbz 0x25 (f.vb = 0)
    let v ← needBits 0 ((h.thr c t).rd f.va)
    .ok (h.updT c t fun x =>
      x.setVec f.vd (mergeLanes w (x.kmask f.km) f.z (x.vec f.vd) ((List.range (512 / w)).map fun _ => v.toNat % 2 ^ w)),
      .seq)

/-- VINS: active lane vb; other active lanes keep their value, inactive ones keep it or become 0 (R190, R196). -/
def Hw.vinsIns (f : VF) (h : Hw) (c : CoreId) (t : Tid) : IRes :=
  let w := 8 * 2 ^ f.et.toNat
  IRes.ofE h do
    inRange 0x25 (decide (f.vb.val < 512 / w))
    .ok (h.updT c t fun x =>
      x.setVec f.vd (mergeLanes w (x.kmask f.km) f.z (x.vec f.vd)
        ((lanes w (x.vec f.vd)).set f.vb.val ((x.rd f.va).val.toNat % 2 ^ w))), .seq)

/-- VEXT. It writes no lane of vd: km and z count as unused fields, which must be 0. DESIGN CHOICE: R196 does not say it (log 110). -/
def Hw.vextIns (f : VF) (h : Hw) (c : CoreId) (t : Tid) : IRes :=
  let w := 8 * 2 ^ f.et.toNat
  IRes.ofE h do
    mbz 0x25 (f.km = 0 && !f.z)
    inRange 0x25 (decide (f.vb.val < 512 / w))
    .ok (h.wrG c t f.vd ⟨.raw, BitVec.ofNat 64 (lane w ((h.thr c t).vec f.va) f.vb.val)⟩, .seq)

/-- VPERM. -/
def Hw.vpermIns (f : VF) (h : Hw) (c : CoreId) (t : Tid) : IRes :=
  IRes.ofE h do
    mbz 0x25 (f.et = 0)
    .ok (h.updT c t fun x =>
      let a := vecBytes (x.vec f.va)
      let r := (vecBytes (x.vec f.vb)).map fun b => a.getD (b.toNat % 64) 0
      x.setVec f.vd (vecOf (maskBytes (x.kmask f.km) f.z (vecBytes (x.vec f.vd)) r)), .seq)

/-- One level of the fixed binary tree of R196: neighbours added and rounded. -/
def treeStep (f : Fmt) (rm : RM) : List Nat → List Nat × FFlags
  | a :: b :: r =>
    let (s, g) := f.op rm .add a b 0
    let (ss, gs) := treeStep f rm r
    (s :: ss, g.or gs)
  | l => (l, {})

/-- The sum of 2^n values by the tree. -/
def treeSum (f : Fmt) (rm : RM) : Nat → List Nat → Nat × FFlags
  | 0, l => (l.headD 0, {})
  | n + 1, l =>
    let (m, g) := treeStep f rm l
    let (s, gs) := treeSum f rm n m
    (s, g.or gs)

/-- VRSUM: inactive lanes count as +0.0. It sets every lane of vd, so z counts as an unused field that must be 0: R196 does not
say it (DESIGN CHOICE, log 110). -/
def Hw.vrsumIns (f : VF) (h : Hw) (c : CoreId) (t : Tid) : IRes :=
  let x := h.thr c t
  let fmt := vfFmt f.et
  let w := fmt.width
  match (do
    assigned 0x25 (decide (f.et.toNat < 2))
    mbz 0x25 (f.vb = 0 && !f.z) : Except Exc Unit) with
  | .error e => .exc h e
  | .ok _ =>
    let m := x.kmask f.km
    let (s, g) := treeSum fmt x.rm 5 (mergeLanes w m true 0 (lanes w (x.vec f.va)) |> lanes w)
    h.fpDone c t g fun h => h.updT c t fun x => x.setVec f.vd (BitVec.ofNat 512 s)

/-- maximumNumber of a list of values of a format, with the invalid flag of a signalling NaN; none for no value. -/
def maxOf (f : Fmt) : List Nat → Option (FV × Bool)
  | [] => none
  | a :: r =>
    match maxOf f r with
    | none => some (f.dec a, (f.dec a).isSig)
    | some (v, i) => let (m, j) := FV.minNum true (f.dec a) v; some (m, i || j)

/-- VRMAX; of no active lane the value is free (log 10); z as in `vrsumIns` (DESIGN CHOICE, log 110). -/
def Hw.vrmaxIns (f : VF) (h : Hw) (c : CoreId) (t : Tid) : IRes :=
  let x := h.thr c t
  let fmt := vfFmt f.et
  let w := fmt.width
  match (do
    assigned 0x25 (decide (f.et.toNat < 2))
    mbz 0x25 (f.vb = 0 && !f.z) : Except Exc Unit) with
  | .error e => .exc h e
  | .ok _ =>
    let m := x.kmask f.km
    let act := (lanes w (x.vec f.va)).zipIdx.filterMap fun p => if active w m p.2 then some p.1 else none
    match maxOf fmt act with
    | none =>
      let (v, h) := h.free64
      .ok (h.updT c t fun x => x.setVec f.vd (BitVec.ofNat 512 (v.toNat % 2 ^ w))) .seq
    | some (v, i) =>
      let (r, fl) := fmt.enc 0 false v
      h.fpDone c t (fl.or { nv := i }) fun h => h.updT c t fun x => x.setVec f.vd (BitVec.ofNat 512 r)

/-- One converted element (R197): narrow formats saturate with OF and NX, NaN sets NV. -/
def cvtLane (code : Nat) (rm : RM) (a : Nat) : Nat × FFlags :=
  let narrow (g : Fmt) (nan : Nat) : Nat × FFlags :=
    match fp32.dec a with
    | .nan _ => (nan, { nv := true })
    | .inf n => (g.maxFin + (if n then g.signBit else 0), { of := true, nx := true })
    | v => g.enc rm true v
  let wide (g : Fmt) : Nat × FFlags := let v := g.dec a; let (r, fl) := fp32.enc rm false v; (r, fl.or { nv := v.isSig })
  match code with
  | 0 => let v := fp32.dec a; let (r, g) := bf16.enc rm false v; (r, g.or { nv := v.isSig })
  | 1 => wide bf16
  | 2 => narrow e4m3 0x7F
  | 3 => narrow e5m2 0x7F
  | 4 => wide e4m3
  | 5 => wide e5m2
  | 6 =>
    match fp32.dec a with
    | .nan _ => (0, { nv := true })
    | .inf n => (if n then 0x80 else 0x7F, { of := true, nx := true })
    | v =>
      let (z, i) := v.round rm
      if 127 < z then (0x7F, { of := true, nx := true }) else if z < -128 then (0x80, { of := true, nx := true })
      else ((z % 256).toNat, { nx := i })
  | _ => fp32.enc rm false (FV.ofZ (sgn 8 a))

/-- VCVT (R197). -/
def Hw.vcvtIns (f : VF) (h : Hw) (c : CoreId) (t : Tid) : IRes :=
  let x := h.thr c t
  let code := f.vb.val / 4
  let q := f.vb.val % 4
  match (do
    mbz 0x25 (f.km = 0 && !f.z && f.et = 0)
    inRange 0x25 (decide (2 ≤ code) || decide (q < 2)) : Except Exc Unit) with
  | .error e => .exc h e
  | .ok _ =>
    let src := vecBytes (x.vec f.va)
    let (inW, outW) := match code with
      | 0 => (4, 2) | 1 => (2, 4) | 2 => (4, 1) | 3 => (4, 1) | 4 => (1, 4) | 5 => (1, 4) | 6 => (4, 1) | _ => (1, 4)
    let r := (List.range 16).map fun i =>
      cvtLane code x.rm (leAt src ((if inW = 4 then 0 else 16 * inW * q) + inW * i) inW)
    let out := (r.map fun p => leBytes outW p.1).flatten
    h.fpDone c t ((r.map (·.2)).foldl FFlags.or {}) fun h => h.updT c t fun x =>
      let old := vecBytes (x.vec f.vd)
      let at' := if outW = 4 then 0 else 16 * outW * q
      x.setVec f.vd (vecOf (old.take at' ++ out ++ old.drop (at' + out.length)))

/-! ### The meanings -/

/-- VADD (R192). Vector integer add. -/
def execVadd (c : CoreId) (t : Tid) (f : VF) (s : State) : Host.Outcome State Fault Refusal :=
  s.issue c t 4 [] (Hw.viIns .add f)
/-- VSUB (R192). Vector integer subtract. -/
def execVsub (c : CoreId) (t : Tid) (f : VF) (s : State) : Host.Outcome State Fault Refusal :=
  s.issue c t 4 [] (Hw.viIns .sub f)
/-- VMUL (R192). Vector integer multiply, low half. -/
def execVmul (c : CoreId) (t : Tid) (f : VF) (s : State) : Host.Outcome State Fault Refusal :=
  s.issue c t 4 [] (Hw.viIns .mul f)
/-- VMULH (R192). Vector signed multiply, high half. -/
def execVmulh (c : CoreId) (t : Tid) (f : VF) (s : State) : Host.Outcome State Fault Refusal :=
  s.issue c t 4 [] (Hw.viIns .mulh f)
/-- VMIN (R192). Vector signed minimum. -/
def execVmin (c : CoreId) (t : Tid) (f : VF) (s : State) : Host.Outcome State Fault Refusal :=
  s.issue c t 4 [] (Hw.viIns .min f)
/-- VMAX (R192). Vector signed maximum. -/
def execVmax (c : CoreId) (t : Tid) (f : VF) (s : State) : Host.Outcome State Fault Refusal :=
  s.issue c t 4 [] (Hw.viIns .max f)
/-- VMINU (R192). Vector unsigned minimum. -/
def execVminu (c : CoreId) (t : Tid) (f : VF) (s : State) : Host.Outcome State Fault Refusal :=
  s.issue c t 4 [] (Hw.viIns .minu f)
/-- VMAXU (R192). Vector unsigned maximum. -/
def execVmaxu (c : CoreId) (t : Tid) (f : VF) (s : State) : Host.Outcome State Fault Refusal :=
  s.issue c t 4 [] (Hw.viIns .maxu f)
/-- VAND (R192). Vector AND. -/
def execVand (c : CoreId) (t : Tid) (f : VF) (s : State) : Host.Outcome State Fault Refusal :=
  s.issue c t 4 [] (Hw.viIns .and f)
/-- VOR (R192). Vector OR. -/
def execVor (c : CoreId) (t : Tid) (f : VF) (s : State) : Host.Outcome State Fault Refusal :=
  s.issue c t 4 [] (Hw.viIns .or f)
/-- VXOR (R192). Vector XOR. -/
def execVxor (c : CoreId) (t : Tid) (f : VF) (s : State) : Host.Outcome State Fault Refusal :=
  s.issue c t 4 [] (Hw.viIns .xor f)
/-- VANDN (R192). Vector AND NOT. -/
def execVandn (c : CoreId) (t : Tid) (f : VF) (s : State) : Host.Outcome State Fault Refusal :=
  s.issue c t 4 [] (Hw.viIns .andn f)
/-- VSHL (R192). Vector shift left. -/
def execVshl (c : CoreId) (t : Tid) (f : VF) (s : State) : Host.Outcome State Fault Refusal :=
  s.issue c t 4 [] (Hw.viIns .shl f)
/-- VSHR (R192). Vector logical shift right. -/
def execVshr (c : CoreId) (t : Tid) (f : VF) (s : State) : Host.Outcome State Fault Refusal :=
  s.issue c t 4 [] (Hw.viIns .shr f)
/-- VSAR (R192). Vector arithmetic shift right. -/
def execVsar (c : CoreId) (t : Tid) (f : VF) (s : State) : Host.Outcome State Fault Refusal :=
  s.issue c t 4 [] (Hw.viIns .sar f)
/-- VCEQ (R192). Vector integer equality into a mask. -/
def execVceq (c : CoreId) (t : Tid) (f : VF) (s : State) : Host.Outcome State Fault Refusal :=
  s.issue c t 4 [] (Hw.viIns .ceq f)
/-- VCLT (R192). Vector signed less-than into a mask. -/
def execVclt (c : CoreId) (t : Tid) (f : VF) (s : State) : Host.Outcome State Fault Refusal :=
  s.issue c t 4 [] (Hw.viIns .clt f)
/-- VCLTU (R192). Vector unsigned less-than into a mask. -/
def execVcltu (c : CoreId) (t : Tid) (f : VF) (s : State) : Host.Outcome State Fault Refusal :=
  s.issue c t 4 [] (Hw.viIns .cltu f)
/-- VFADD (R193). Vector floating add. -/
def execVfadd (c : CoreId) (t : Tid) (f : VF) (s : State) : Host.Outcome State Fault Refusal :=
  s.issue c t 4 [] (Hw.vfIns .add f)
/-- VFSUB (R193). Vector floating subtract. -/
def execVfsub (c : CoreId) (t : Tid) (f : VF) (s : State) : Host.Outcome State Fault Refusal :=
  s.issue c t 4 [] (Hw.vfIns .sub f)
/-- VFMUL (R193). Vector floating multiply. -/
def execVfmul (c : CoreId) (t : Tid) (f : VF) (s : State) : Host.Outcome State Fault Refusal :=
  s.issue c t 4 [] (Hw.vfIns .mul f)
/-- VFMA (R193). Vector fused multiply-add. -/
def execVfma (c : CoreId) (t : Tid) (f : VF) (s : State) : Host.Outcome State Fault Refusal :=
  s.issue c t 4 [] (Hw.vfIns .fma f)
/-- VFMIN (R193). Vector minimumNumber. -/
def execVfmin (c : CoreId) (t : Tid) (f : VF) (s : State) : Host.Outcome State Fault Refusal :=
  s.issue c t 4 [] (Hw.vfIns .min f)
/-- VFMAX (R193). Vector maximumNumber. -/
def execVfmax (c : CoreId) (t : Tid) (f : VF) (s : State) : Host.Outcome State Fault Refusal :=
  s.issue c t 4 [] (Hw.vfIns .max f)
/-- VFDIV (R193). Vector floating divide. -/
def execVfdiv (c : CoreId) (t : Tid) (f : VF) (s : State) : Host.Outcome State Fault Refusal :=
  s.issue c t 4 [] (Hw.vfIns .div f)
/-- VFSQRT (R193). Vector square root. -/
def execVfsqrt (c : CoreId) (t : Tid) (f : VF) (s : State) : Host.Outcome State Fault Refusal :=
  s.issue c t 4 [] (Hw.vfIns .sqrt f)
/-- VCVTIF (R193). Vector 32-bit integer to FP32. -/
def execVcvtif (c : CoreId) (t : Tid) (f : VF) (s : State) : Host.Outcome State Fault Refusal :=
  s.issue c t 4 [] (Hw.vfIns .cvtif f)
/-- VCVTFI (R193). Vector FP32 to 32-bit integer. -/
def execVcvtfi (c : CoreId) (t : Tid) (f : VF) (s : State) : Host.Outcome State Fault Refusal :=
  s.issue c t 4 [] (Hw.vfIns .cvtfi f)
/-- VFEXP (R193). Vector exponential. -/
def execVfexp (c : CoreId) (t : Tid) (f : VF) (s : State) : Host.Outcome State Fault Refusal :=
  s.issue c t 4 [] (Hw.vfIns .exp f)
/-- VFLOG (R193). Vector natural logarithm. -/
def execVflog (c : CoreId) (t : Tid) (f : VF) (s : State) : Host.Outcome State Fault Refusal :=
  s.issue c t 4 [] (Hw.vfIns .log f)
/-- VFRCP (R193). Vector reciprocal. -/
def execVfrcp (c : CoreId) (t : Tid) (f : VF) (s : State) : Host.Outcome State Fault Refusal :=
  s.issue c t 4 [] (Hw.vfIns .rcp f)
/-- VFRSQ (R193). Vector reciprocal square root. -/
def execVfrsq (c : CoreId) (t : Tid) (f : VF) (s : State) : Host.Outcome State Fault Refusal :=
  s.issue c t 4 [] (Hw.vfIns .rsq f)
/-- VFTANH (R193). Vector hyperbolic tangent. -/
def execVftanh (c : CoreId) (t : Tid) (f : VF) (s : State) : Host.Outcome State Fault Refusal :=
  s.issue c t 4 [] (Hw.vfIns .tanh f)
/-- VFCEQ (R193). Vector floating equality into a mask. -/
def execVfceq (c : CoreId) (t : Tid) (f : VF) (s : State) : Host.Outcome State Fault Refusal :=
  s.issue c t 4 [] (Hw.vfIns .ceq f)
/-- VFCLT (R193). Vector floating less-than into a mask. -/
def execVfclt (c : CoreId) (t : Tid) (f : VF) (s : State) : Host.Outcome State Fault Refusal :=
  s.issue c t 4 [] (Hw.vfIns .clt f)
/-- VFCLE (R193). Vector floating less-or-equal into a mask. -/
def execVfcle (c : CoreId) (t : Tid) (f : VF) (s : State) : Host.Outcome State Fault Refusal :=
  s.issue c t 4 [] (Hw.vfIns .cle f)
/-- KAND (R195). Mask AND. -/
def execKand (c : CoreId) (t : Tid) (f : RF) (s : State) : Host.Outcome State Fault Refusal :=
  s.issue c t 4 [] (Hw.maskIns .and f)
/-- KOR (R195). Mask OR. -/
def execKor (c : CoreId) (t : Tid) (f : RF) (s : State) : Host.Outcome State Fault Refusal :=
  s.issue c t 4 [] (Hw.maskIns .or f)
/-- KXOR (R195). Mask XOR. -/
def execKxor (c : CoreId) (t : Tid) (f : RF) (s : State) : Host.Outcome State Fault Refusal :=
  s.issue c t 4 [] (Hw.maskIns .xor f)
/-- KANDN (R195). Mask AND NOT. -/
def execKandn (c : CoreId) (t : Tid) (f : RF) (s : State) : Host.Outcome State Fault Refusal :=
  s.issue c t 4 [] (Hw.maskIns .andn f)
/-- KNOT (R195). Mask NOT. -/
def execKnot (c : CoreId) (t : Tid) (f : RF) (s : State) : Host.Outcome State Fault Refusal :=
  s.issue c t 4 [] (Hw.maskIns .not f)
/-- KMOVG (R195). Scalar payload into a mask. -/
def execKmovg (c : CoreId) (t : Tid) (f : RF) (s : State) : Host.Outcome State Fault Refusal :=
  s.issue c t 4 [f.ra] (Hw.maskIns .movg f)
/-- KMOVK (R195). Mask into a scalar as INT. -/
def execKmovk (c : CoreId) (t : Tid) (f : RF) (s : State) : Host.Outcome State Fault Refusal :=
  s.issue c t 4 [] (Hw.maskIns .movk f)
/-- KFIRST (R195). Mask with the lowest n bits set. -/
def execKfirst (c : CoreId) (t : Tid) (f : RF) (s : State) : Host.Outcome State Fault Refusal :=
  s.issue c t 4 [f.ra] (Hw.maskIns .first f)
/-- VSPLAT (R196). Broadcast a scalar to active lanes. -/
def execVsplat (c : CoreId) (t : Tid) (f : VF) (s : State) : Host.Outcome State Fault Refusal :=
  s.issue c t 4 [f.va] (Hw.vsplatIns f)
/-- VINS (R196). Insert a scalar into one lane. -/
def execVins (c : CoreId) (t : Tid) (f : VF) (s : State) : Host.Outcome State Fault Refusal :=
  s.issue c t 4 [f.va] (Hw.vinsIns f)
/-- VEXT (R196). Extract one lane into a scalar as RAW. -/
def execVext (c : CoreId) (t : Tid) (f : VF) (s : State) : Host.Outcome State Fault Refusal :=
  s.issue c t 4 [] (Hw.vextIns f)
/-- VPERM (R196). Byte permutation. -/
def execVperm (c : CoreId) (t : Tid) (f : VF) (s : State) : Host.Outcome State Fault Refusal :=
  s.issue c t 4 [] (Hw.vpermIns f)
/-- VRSUM (R196). Tree sum of active lanes. -/
def execVrsum (c : CoreId) (t : Tid) (f : VF) (s : State) : Host.Outcome State Fault Refusal :=
  s.issue c t 4 [] (Hw.vrsumIns f)
/-- VRMAX (R196). Maximum of active lanes. -/
def execVrmax (c : CoreId) (t : Tid) (f : VF) (s : State) : Host.Outcome State Fault Refusal :=
  s.issue c t 4 [] (Hw.vrmaxIns f)
/-- VCVT (R197). Format conversion of one part of a vector. -/
def execVcvt (c : CoreId) (t : Tid) (f : VF) (s : State) : Host.Outcome State Fault Refusal :=
  s.issue c t 4 [] (Hw.vcvtIns f)

end Sys2Proof.Machine
end

