-- ==== Sys2Proof/Machine/Matrix.lean ====
section
/-! DEFINITION. The matrix arrays: queues, shape checks, products and their completion (spec 04 R167–R170, spec 05
R175–R185, spec 06 R204, R205, spec 14 R427). -/

namespace Sys2Proof.Machine

/-! ### Elements (R174–R176, R185) -/

/-- Element `i` of `w` bits of a row (R175). -/
def elemBits (bs : List Byte) (w i : Nat) : Nat := leAt bs (w * i / 8) 4 / 2 ^ (w * i % 8) % 2 ^ w

/-- The format of a tile's elements; none for RAW8 and INT8. -/
def tileFmt (cfg : Word) : Option Fmt :=
  [none, some e4m3, some e5m2, some e4m3, some e5m2, some e2m3, some e3m2, some e2m1, some bf16, some fp32, none].getD
    (tfmt cfg) none

/-- An element as it enters a product; `ns` tells that its scale is 0xFF. -/
structure EV where
  v : FV
  ns : Bool := false
  deriving DecidableEq, Repr

/-- A value times 2^d. -/
def FV.scale (d : Int) : FV → FV
  | .fin n m e => .fin n m (e + d)
  | x => x

/-- Stored element `i` of a row, its scale that of block `blk` (R176). -/
def Tile.elem (x : Tile) (row i blk : Nat) : EV :=
  let code := elemBits (x.rowBytes row 0 (tbpr x.cfg)) (twidth x.cfg) i
  match tileFmt x.cfg with
  | none => ⟨FV.ofZ (sgn 8 code), false⟩
  | some f =>
    if tmx x.cfg then
      let s := (lookD x.bytes (row * 256 + 128 + blk) 0).toNat
      if s = 255 then ⟨.nan false, true⟩ else ⟨(f.dec code).scale (s - 127), false⟩
    else ⟨f.dec code, false⟩

/-- The logical position of stored element `j` of a sparse row (R185). -/
def Tile.pos (x : Tile) (row j : Nat) : Nat :=
  let g := j / 2
  let scales := if tmx x.cfg then telems x.cfg / 32 else 0
  let b := (lookD x.bytes (row * 256 + 128 + scales + g / 2) 0).toNat
  let nib := if g % 2 = 0 then b % 16 else b / 16
  4 * g + (if j % 2 = 0 then nib % 4 else nib / 4)

/-- The products of result element (m, n) by logical k, in ascending order of the stored elements (R167, R185, R205). -/
def products (i : ArrIns) (m n : Nat) : List (Nat × EV × EV) :=
  match i.kind with
  | .opr => (List.range (trows i.a.cfg)).map fun r => (r, i.a.elem r m (m / 32), i.b.elem r n (n / 32))
  | .mmaS => (List.range (telems i.b.cfg / 2)).map fun j =>
      let p := i.b.pos n j
      (p, i.a.elem m p (p / 32), i.b.elem n j (p / 32))
  | _ => (List.range (telems i.a.cfg)).map fun k => (k, i.a.elem m k (k / 32), i.b.elem n k (k / 32))

/-- Elements of a group of R182. -/
def groupSize : TClass → Nat
  | .f8 => 16
  | .bf => 8
  | _ => 32

/-- The exact sum of products, and whether any was invalid. -/
def exactSum : List (EV × EV) → FV × Bool
  | [] => (.fin false 0 0, false)
  | [p] => FV.mul p.1.v p.2.v
  | p :: ps =>
    let (a, i) := FV.mul p.1.v p.2.v
    let (b, j) := exactSum ps
    let (s, k) := FV.add 0 a b
    (s, i || j || k)

/-- The additions of step 3 of R182, each rounded. -/
def addAll (start : Nat) : List Nat → Nat × FFlags
  | [] => (start, {})
  | g :: gs =>
    let (s, fl) := fp32.op 0 .add start g 0
    let (r, fl') := addAll s gs
    (r, fl.or fl')

/-- The list in an order that the free choices from number `seed` on fix: any order may occur (R182, log 6). -/
def anyOrder {α : Type} (seed : Nat) : Nat → List α → List α
  | 0, l => l
  | n + 1, l =>
    match l[Config.pick seed % l.length]? with
    | none => l
    | some x => x :: anyOrder (seed + 1) n (l.eraseIdx (Config.pick seed % l.length))

/-- A result element with the ARR_FLAGS events it sets. -/
structure RV where
  v : Nat
  nv : Bool := false
  of : Bool := false
  ns : Bool := false
  deriving DecidableEq, Repr

/-- Result element (m, n) from starting value `old` (R182, R183). -/
def resultElem (i : ArrIns) (seed : Nat) (m n old : Nat) : RV :=
  let ps := products i m n
  let start := if i.z then 0 else old
  if tclass i.a.cfg = .i8 then
    let z : Int := start + (ps.map fun p => p.2.1.v.toInt 0 * p.2.2.v.toInt 0).sum
    ⟨(z % (2 ^ 32 : Nat)).toNat, false, false, false⟩
  else
    let g := groupSize (tclass i.a.cfg)
    let count := (ps.map fun p => p.1 / g + 1).foldl Nat.max 0
    let sums := (List.range count).map fun k =>
      let mine := ps.filter fun p => p.1 / g == k
      fp32.enc 0 false (exactSum (mine.map (·.2))).1
    let (r, fl) := addAll start (anyOrder seed count (sums.map (·.1)))
    ⟨r, (fp32.dec r).isNan, fl.of || sums.any fun s => s.2.of, ps.any fun p => p.2.1.ns || p.2.2.ns⟩

/-- Rows and columns of the result region (R167). -/
def regionOf (i : ArrIns) : Nat × Nat :=
  if i.kind = .opr then (telems i.a.cfg, telems i.b.cfg) else (trows i.a.cfg, trows i.b.cfg)

def accKey (acc : Fin 4) (row col : Nat) : Nat := acc.val * 1024 + row * 32 + col
def Core.acc (k : Core) (acc : Fin 4) (row col : Nat) : W32 := lookD k.accs (accKey acc row col) 0
def Core.setAcc (k : Core) (acc : Fin 4) (row col : Nat) (v : Nat) : Core :=
  { k with accs := put k.accs (accKey acc row col) (BitVec.ofNat 32 v) }

/-- The positions of a region. -/
def cells (rows cols : Nat) : List (Nat × Nat) :=
  ((List.range rows).map fun m => (List.range cols).map fun n => (m, n)).flatten

/-! ### Issue (R163, R169, R178, R179, R181, R204) -/

/-- The checks of one operand in the order of R169: form limits are class, sp and, in form O, E. -/
def operandCheck (operand : Nat) (n : Fin 8) (x : Tile) (cls : TClass → Bool) (sp outer : Bool) : Except Exc Unit := do
  if !tcv x.cfg then .error (shapeExc operand n 6)
  if !x.complete then .error (shapeExc operand n 1)
  if !cls (tclass x.cfg) then .error (shapeExc operand n 2)
  if tsp x.cfg != sp then .error (shapeExc operand n 5)
  if outer && decide (32 < telems x.cfg) then .error (shapeExc operand n 4)

/-- The shape checks of a form (R167–R169). -/
def shapeCheck (kind : ArrKind) (ta tb : Fin 8) (a b : Tile) : Except Exc Unit := do
  let cls (k : TClass) : Bool := if kind = .mmaS then k == .f8 || k == .mx8 || k == .mx4 else k != .plain
  operandCheck 0 ta a cls false (kind == .opr)
  operandCheck 1 tb b cls (kind == .mmaS) (kind == .opr)
  if tclass a.cfg ≠ tclass b.cfg then .error (shapeExc 1 tb 2)
  if (if kind = .opr then trows a.cfg ≠ trows b.cfg else telems a.cfg ≠ telems b.cfg) then .error (shapeExc 1 tb 3)

def ceilDiv (a b : Nat) : Nat := (a + b - 1) / b

/-- c_k × x rounded up (R177). -/
def kcost (c : TClass) (x : Nat) : Nat :=
  match c with | .mx4 => ceilDiv x 2 | .bf => 2 * x | _ => x

/-- Occupancy in cc (R178, R205). -/
def occupancy (kind : ArrKind) (back : Bool) (a b : Tile) : Nat :=
  let c := tclass b.cfg
  let n := match kind with
    | .opr => ceilDiv (telems a.cfg) 16 * ceilDiv (telems b.cfg) 16 * kcost c (trows a.cfg)
    | _ => ceilDiv (trows a.cfg) (if back then 16 else 8) * ceilDiv (trows b.cfg) 16 *
        kcost c (if kind = .mmaS then telems b.cfg / 2 else telems b.cfg)
  Nat.max n 4

/-- Occupancy a queue still has to run (R179). -/
def occLeft (now : Nat) (q : List ArrIns) : Nat :=
  (q.map fun i => match i.started with | none => i.occ | some s => i.occ - (now - s) / 3).sum

def ArrIns.backward (i : ArrIns) : Bool := i.kind == .opr || i.kind == .rowred2

/-- The queue that sel chooses: true is the back one; none while no permitted queue has a free entry (R179). -/
def Hw.steer (h : Hw) (c : CoreId) (sel : Nat) : Option Bool :=
  let k := h.core c.val
  let f := decide (k.front.length < 4)
  let b := decide (k.back.length < 4)
  match sel with
  | 1 => if f then some false else none
  | 2 => if b then some true else none
  | _ =>
    if k.back.any ArrIns.backward then (if f then some false else none)
    else if f && b then some (decide (occLeft h.now k.back ≤ occLeft h.now k.front))
    else if b then some true else if f then some false else none

/-- An entry joins a queue with the next number of the core-wide issue order (R180). -/
def Hw.enqueue (h : Hw) (c : CoreId) (back : Bool) (i : ArrIns) : Hw :=
  h.updC c.val fun k =>
    let i := { i with seq := k.seq }
    if back then { k with back := k.back ++ [i], seq := k.seq + 1 } else { k with front := k.front ++ [i], seq := k.seq + 1 }

/-- MMA, MMA.S and OPR at issue. -/
def Hw.matIns (kind : ArrKind) (f : MatF) (h : Hw) (c : CoreId) (t : Tid) : IRes :=
  let op := if kind = .opr then 0x28 else 0x26
  let k := h.core c.val
  let a := k.tile f.ta
  let b := k.tile f.tb
  match (do
    assigned op (if kind = .opr then f.sel = 0 ∨ f.sel = 2 else f.sel ≠ 3)
    mbz op (f.mbz = 0)
    shapeCheck kind f.ta f.tb a b : Except Exc Unit) with
  | .error e => .exc h e
  | .ok _ =>
    if k.tileStored f.ta || k.tileStored f.tb then .ok h .stay
    else match h.steer c (if kind = .opr then 2 else f.sel.toNat) with
      | none => .ok h .stay
      | some back =>
        .ok (h.enqueue c back
          { seq := 0, kind := kind, thread := t, acc := f.acc, z := f.z, ta := f.ta, tb := f.tb, a := a, b := b, mode := 0,
            desc := [], snap := [], occ := occupancy kind back a b, started := none }) .seq

/-! ### Start and completion (R178, R180, R182, R427) -/

/-- An accumulator instruction of an accumulator that was issued before `seq` and is held (R180). -/
def Core.accHeld (k : Core) (acc : Fin 4) (seq : Nat) : Bool :=
  tids.any fun t => match (k.thr t).wait with | .acc s _ f => f.acc == acc && decide (s < seq) | _ => false

/-- A product into an accumulator that was issued before `seq` is in a queue. -/
def usesAcc (q : List ArrIns) (acc : Fin 4) (seq : Nat) : Bool :=
  q.any fun i => i.kind != .rowred2 && i.acc == acc && decide (i.seq < seq)

/-- Whether an entry may start (R180); ROWRED2 uses no accumulator (R212). -/
def Core.mayStart (k : Core) (back : Bool) (i : ArrIns) : Bool :=
  i.kind == .rowred2 || !(k.accHeld i.acc i.seq || usesAcc (if back then k.front else k.back) i.acc i.seq)

/-- The first entry that has not started is marked. -/
def markStarted (now : Nat) : List ArrIns → List ArrIns
  | [] => []
  | i :: r => match i.started with | none => { i with started := some now } :: r | some _ => i :: markStarted now r

def Core.queue (k : Core) (back : Bool) : List ArrIns := if back then k.back else k.front
def Core.setQueue (k : Core) (back : Bool) (q : List ArrIns) : Core :=
  if back then { k with back := q } else { k with front := q }

/-- The next entry of an array's queue starts, if its waits are met. -/
def Hw.arrayStart (h : Hw) (c : CoreId) (back : Bool) : Hw :=
  let k := h.core c.val
  match (k.queue back).find? fun i => i.started.isNone with
  | none => h
  | some i =>
    if k.mayStart back i then h.updC c.val fun k => k.setQueue back (markStarted h.now (k.queue back)) else h

/-- The first row of an operand whose parity fails, but for the row its latch holds (R170). -/
def badOperandRow (k : Core) (latch : Nat) (n : Fin 8) (x : Tile) : Option (Fin 32) :=
  x.bad.find? fun r => decide (r.val < trows x.cfg) && !((look k.latches latch) == some ⟨n, r⟩)

/-- A tile parity error of a running instruction is left for its issuer's next boundary (R427). -/
def Hw.noteParity (h : Hw) (c : CoreId) (t : Tid) (n : Fin 8) (r : Fin 32) : Hw :=
  let s := (h.thr c t).state
  (h.updT c (if s = .free ∨ s = .exited then 0 else t) fun x => { x with arrayEcc := some (n, r) }).errCount
    (dieOf c.val) (siteIx c.val) 4

/-- Cycles in which an array ran (R200). -/
def Hw.busy (h : Hw) (c : CoreId) (back : Bool) (occ : Nat) : Hw :=
  h.updCpg c.val (if back then 0x0BC else 0x0B8) fun v => v + BitVec.ofNat 32 occ

/-- The product is written; with a parity error each element is its old value or a free one (R427, log 6). -/
def Hw.product (h : Hw) (c : CoreId) (back : Bool) (i : ArrIns) : Hw :=
  let k := h.core c.val
  let (rows, cols) := regionOf i
  let latch := if back then 2 else 0
  let bad := (badOperandRow k latch i.ta i.a).map (fun r => (i.ta, r)) <|>
    (badOperandRow k (latch + 1) i.tb i.b).map fun r => (i.tb, r)
  let n0 := h.free
  let seed (p : Nat × Nat) : Nat := n0 + 32 * (32 * p.1 + p.2)
  let h := { h with free := n0 + 32 * 1024 }
  let res : List ((Nat × Nat) × RV) := (cells rows cols).map fun p => (p, resultElem i (seed p) p.1 p.2 (k.acc i.acc p.1 p.2).toNat)
  let h := match bad with
    | none =>
      (h.updC c.val fun k => res.foldl (fun (k : Core) (p : (Nat × Nat) × RV) => k.setAcc i.acc p.1.1 p.1.2 p.2.v) k).arrFlags c.val
        (res.any fun p => p.2.nv) (res.any fun p => p.2.of) (res.any fun p => p.2.ns)
    | some (n, r) =>
      (h.updC c.val fun k => res.foldl (fun (k : Core) (p : (Nat × Nat) × RV) =>
        if Config.pick (seed p.1) % 2 = 0 then k
        else k.setAcc i.acc p.1.1 p.1.2 (Config.free (seed p.1 + 1)).toNat) k).noteParity c i.thread n r
  (h.updC c.val fun k =>
    { k with latches := put (put k.latches latch ⟨i.ta, rowOf (trows i.a.cfg - 1)⟩) (latch + 1)
               ⟨i.tb, rowOf (trows i.b.cfg - 1)⟩ }).busy c back i.occ

/-- The entry at the head of an array's queue completes: a started matrix instruction. -/
def Hw.arrayComplete (h : Hw) (c : CoreId) (back : Bool) : Hw :=
  match (h.core c.val).queue back with
  | i :: rest =>
    if i.kind = .rowred2 ∨ i.started = none then h
    else (h.product c back i).updC c.val fun k => k.setQueue back rest
  | [] => h

/-- A thread held at an accumulator instruction, which nothing interrupts (R188). -/
def Wait.isHeld : Wait → Bool
  | .acc _ _ _ => true
  | _ => false

/-- ECC with source 4 enters in the issuing thread, or in thread 0 when that one has gone (R427). -/
def Hw.arrayParityEntry (h : Hw) (c : CoreId) (t : Tid) : Hw :=
  let x := h.thr c t
  match x.arrayEcc with
  | none => h
  | some e =>
    let gone := decide (x.state = .free ∨ x.state = .exited)
    let u : Tid := if gone then 0 else t
    let h := if gone then (h.updT c t fun x => { x with arrayEcc := none }).updT c 0 fun x => { x with arrayEcc := some e }
      else h
    let y := h.thr c u
    if h.coreRuns c.val && (y.state == .run || y.state.canAbandon) && !y.wait.isHeld then
      match h.dueEvent c u with
      | some e => (h.takeEvent c u e).endStep c u
      | none => h
    else h

/-! ### The meanings -/

/-- MMA (R181). Queue a row-dot matrix product into an accumulator. -/
def execMma (c : CoreId) (t : Tid) (f : MatF) (s : State) : Host.Outcome State Fault Refusal :=
  s.issue c t 4 [] (Hw.matIns .mma f)
/-- MMA_S (R181). Queue a 2:4 sparse row-dot product. -/
def execMmaS (c : CoreId) (t : Tid) (f : MatF) (s : State) : Host.Outcome State Fault Refusal :=
  s.issue c t 4 [] (Hw.matIns .mmaS f)
/-- OPR (R204). Queue an outer product on the back array. -/
def execOpr (c : CoreId) (t : Tid) (f : MatF) (s : State) : Host.Outcome State Fault Refusal :=
  s.issue c t 4 [] (Hw.matIns .opr f)
/-- ARRAY_INSTRUCTION_START (R178). A queued array instruction starts when its waits are met. -/
def execArrayInstructionStart (c : CoreId) (back : Bool) (s : State) : Host.Outcome State Fault Refusal :=
  s.run fun h => h.arrayStart c back
/-- ARRAY_INSTRUCTION_COMPLETE (R178). An array instruction completes 16 cc after its occupancy. -/
def execArrayInstructionComplete (c : CoreId) (back : Bool) (s : State) : Host.Outcome State Fault Refusal :=
  s.run fun h => h.arrayComplete c back
/-- ARRAY_PARITY_ENTRY (R427). The issuing thread enters ECC after a tile parity error in a running instruction. -/
def execArrayParityEntry (c : CoreId) (t : Tid) (s : State) : Host.Outcome State Fault Refusal :=
  s.run fun h => h.arrayParityEntry c t

end Sys2Proof.Machine
end

