-- ==== Sys2Proof/Machine/Accum.lean ====
section
/-! DEFINITION. Accumulator instructions (spec 05 R187–R189), each held until earlier work on its accumulator is done
(R180). -/

namespace Sys2Proof.Machine

/-- Rows of an accumulator instruction. -/
def rows32 : List Nat := List.range 32

/-- The local address of row `r` of ALOAD, ASTORE and ASTORE.BF. -/
def accAddr (x : Thread) (f : AccF) (r : Nat) : Int := (x.rd f.ra).val.toNat + r * (x.rd f.rb).val.toInt

/-- The checks of ALOAD, ASTORE and ASTORE.BF over all 32 rows (R69, R187, R188); `n` is the bytes of a row. -/
def Hw.accMemCheck (h : Hw) (c : CoreId) (x : Thread) (f : AccF) (store : Bool) (n : Nat) : Except Exc Unit := do
  mbz 0x27 (f.x = 0 && f.mbz = 0)
  let a := x.rd f.ra
  let _ ← (if store && a.tag == .laddr then
    rows32.foldlM (fun _ r => if 0 ≤ accAddr x f r then h.guard c x 0x27 (accAddr x f r).toNat else .ok ()) ()
    else .ok () : Except Exc Unit)
  let a ← needAddr 0 a
  let s ← needInt 1 (x.rd f.rb)
  inRange 0x27 (a.tag = .laddr)
  let _ ← rows32.foldlM (fun _ r => inSpace 0 .laddr (accAddr x f r) n) ()
  if a.val.toNat % 8 ≠ 0 ∨ s.toNat % 8 ≠ 0 then .error (alignExc 3 a.val.toNat)

/-- A row number 0–31 (R187). -/
def accRow (x : Thread) (f : AccF) : Except Exc Nat := do
  let v ← needInt 1 (x.rd f.rb)
  inRange 0x27 (decide (v.toNat < 32))
  .ok v.toNat

/-- The checks of AMOV.T (R189, R483). -/
def amovtCheck (x : Thread) (f : AccF) (tile : Tile) : Except Exc Unit := do
  mbz 0x27 (f.mbz = 0 && f.ra = 0 && decide (f.x.val < 8))
  let v ← needInt 1 (x.rd f.rb)
  let used : Word := if tclass tile.cfg = .i8 && tcv tile.cfg then 0x1F07 else 7
  inRange 0x27 (v &&& ~~~used = 0)
  let n := tileOf f.x
  if !tcv tile.cfg then .error (shapeExc 0 n 6)
  if tsp tile.cfg || tclass tile.cfg == .plain then .error (shapeExc 0 n 2)
  if telems tile.cfg < (fld v 2 0 + 1) * 32 then .error (shapeExc 0 n 3)

/-- The checks of an accumulator instruction by its fn (R187). -/
def Hw.accCheck (h : Hw) (c : CoreId) (t : Tid) (fn : Fin 9) (f : AccF) : Except Exc Unit :=
  let x := h.thr c t
  match fn.val with
  | 0 => mbz 0x27 (f.mbz = 0 && f.x = 0 && f.ra = 0 && f.rb = 0)
  | 1 => h.accMemCheck c x f false 128
  | 2 => h.accMemCheck c x f true 128
  | 3 => h.accMemCheck c x f true 64
  | 4 | 5 => do
    mbz 0x27 (f.mbz = 0 && f.ra = 0)
    let _ ← accRow x f
    inRange 0x27 (f.x.val % 2 = 0)
  | 6 => do
    mbz 0x27 (f.mbz = 0 && f.ra = 0 && f.rb = 0)
    inRange 0x27 (f.x.val % 2 = 0)
  | 7 => do
    mbz 0x27 (f.mbz = 0 && f.x = 0 && f.rb = 0)
    let _ ← needFp 0 (x.rd f.ra)
    .ok ()
  | _ => amovtCheck x f ((h.core c.val).tile (tileOf f.x))

/-- Columns of an accumulator row as bits. -/
def Core.accRowVals (k : Core) (acc : Fin 4) (r : Nat) : List Nat := rows32.map fun n => (k.acc acc r n).toNat
def Core.setAccRow (k : Core) (acc : Fin 4) (r : Nat) (vs : List Nat) : Core :=
  vs.zipIdx.foldl (fun k p => k.setAcc acc r p.2 p.1) k

/-- ALOAD's rows in order, up to one with an uncorrectable error (R188, R426 source 3). -/
def Hw.aloadGo (f : AccF) (c : CoreId) (t : Tid) : List Nat → Hw → IRes
  | [], h => .ok h .seq
  | r :: rs, h =>
    let a := (accAddr (h.thr c t) f r).toNat
    let e := (h.core c.val).lmErr a 128
    if 2 ≤ e then .exc h (eccExc 3 (lmKind e) f.acc.val r (f.acc.val * 32 + r))
    else
      let bs := (h.core c.val).lmem.readN a 128
      Hw.aloadGo f c t rs ((h.lmScrub c.val a 128).updC c.val fun k => k.setAccRow f.acc r (rows32.map fun n => leAt bs (4 * n) 4))

/-- Values of 32 columns with the flags their rounding sets. -/
def flagsOf (f : Fmt) (rs : List (Nat × FFlags)) : Bool × Bool :=
  (rs.any fun r => (f.dec r.1).isNan, rs.any fun r => r.2.of)

/-- ASTORE and ASTORE.BF. -/
def Hw.astore (bf : Bool) (f : AccF) (h : Hw) (c : CoreId) (t : Tid) : Hw :=
  rows32.foldl (fun h r =>
    let vs := (h.core c.val).accRowVals f.acc r
    let a := (accAddr (h.thr c t) f r).toNat
    if bf then
      let rs := vs.map (convert fp32 bf16 0 false)
      let (nv, of) := flagsOf bf16 rs
      (h.lmWrite c.val a (rs.map fun p => leBytes 2 p.1).flatten).arrFlags c.val nv of false
    else h.lmWrite c.val a (vs.map (leBytes 4)).flatten) h

/-- Every element of the accumulator replaced by a rounded result, with ARR_FLAGS (R183, R187). -/
def Hw.accMap (h : Hw) (c : CoreId) (acc : Fin 4) (g : Nat → Nat → Nat × FFlags) : Hw :=
  rows32.foldl (fun h r =>
    let rs := ((h.core c.val).accRowVals acc r).zipIdx.map fun p => g p.1 p.2
    let (nv, of) := flagsOf fp32 rs
    (h.updC c.val fun k => k.setAccRow acc r (rs.map (·.1))).arrFlags c.val nv of false) h

/-- emax of R189. -/
def mxEmax (fmt : Nat) : Int := if fmt = 5 ∨ fmt = 7 then 2 else if fmt = 6 then 4 else if fmt = 3 then 8 else 15

/-- floor(log₂) of a positive finite value. -/
def FV.log2 : FV → Int
  | .fin _ m e => m.log2 + e
  | _ => 0

/-- The MX block of 32 values: element codes and scale byte (R189). -/
def mxBlock (fmt : Nat) (g : Fmt) (vs : List FV) : List Nat × Nat :=
  if vs.any fun v => v.isNan || v.isInf then (vs.map fun _ => 0, 255)
  else match (vs.filter fun v => !v.isZero).map FV.log2 with
    | [] => (vs.map fun _ => 0, 127)
    | l :: ls =>
      let x : Int := max (-127) (min 127 (ls.foldl max l - mxEmax fmt))
      (vs.map fun v => (g.enc 0 true (v.scale (-x))).1, (x + 127).toNat)

/-- A shift right by `sh` rounded half to even, saturated to 8 bits (R189). -/
def i8Shift (sh v : Nat) : Nat :=
  let z := sgn 32 v
  let (m, _) := quant 0 (decide (z < 0)) z.natAbs 0 sh
  let r : Int := if z < 0 then -m else m
  ((max (-128) (min 127 r)) % 256).toNat

/-- One row of AMOV.T: codes, scale byte if any, and flags (R189). -/
def amovtRow (cfg : Word) (sh : Nat) (vs : List Nat) : List Nat × Option Nat × Bool × Bool :=
  match tclass cfg with
  | .bf =>
    let rs := vs.map (convert fp32 bf16 0 false)
    let (nv, of) := flagsOf bf16 rs
    (rs.map (·.1), none, nv, of)
  | .i8 => (vs.map (i8Shift sh), none, false, false)
  | .f8 =>
    let g := if tfmt cfg = 1 then e4m3 else e5m2
    (vs.map fun v => if (fp32.dec v).isNan then 0x7F else (convert fp32 g 0 true v).1, none, false, false)
  | _ =>
    let (cs, s) := mxBlock (tfmt cfg) ((tileFmt cfg).getD e2m1) (vs.map fp32.dec)
    (cs, some s, false, false)

/-- AMOV.T. -/
def Hw.amovt (f : AccF) (h : Hw) (c : CoreId) (t : Tid) : Hw :=
  let n := tileOf f.x
  let cfg := ((h.core c.val).tile n).cfg
  let v := ((h.thr c t).rd f.rb).val
  let cb := fld v 2 0
  let w := twidth cfg
  let h := (List.range (trows cfg)).foldl (fun h r =>
    let (cs, scale, nv, of) := amovtRow cfg (fld v 12 8) ((h.core c.val).accRowVals f.acc r)
    let bits := cs.foldr (fun x acc => acc * 2 ^ w + x % 2 ^ w) 0
    let h := h.updTile c n fun x =>
      let x := x.setBytes r (4 * w * cb) (leBytes (4 * w) bits)
      let x := match scale with | some s => x.setBytes r (128 + cb) [BitVec.ofNat 8 s] | none => x
      { x with valid := x.valid ||| BitVec.ofNat 32 (2 ^ r) }
    (h.rowWritten c n r).arrFlags c.val nv of false) h
  h.updTile c n fun x => { x with prog := none }

/-- What an accumulator instruction does once its waits are over (R187). -/
def Hw.accGo (fn : Fin 9) (f : AccF) (h : Hw) (c : CoreId) (t : Tid) : IRes :=
  let x := h.thr c t
  let row := (x.rd f.rb).val.toNat
  match h.accCheck c t fn f with
  | .error e => .exc h e
  | .ok _ =>
    let pair (r : Reg) : List Nat :=
      lanes 32 (x.vec r) ++ lanes 32 (x.vec ⟨(r.val + 1) % 32, Nat.mod_lt _ (by decide)⟩)
    match fn.val with
    | 0 => .ok (h.updC c.val fun k => { k with accs := k.accs.filter fun p => decide (p.1 / 1024 ≠ f.acc.val) }) .seq
    | 1 => Hw.aloadGo f c t rows32 h
    | 2 => .ok (h.astore false f c t) .seq
    | 3 => .ok (h.astore true f c t) .seq
    | 4 =>
      let vs := (h.core c.val).accRowVals f.acc row
      .ok (h.updT c t fun x =>
        (x.setVec f.x (ofLanes 32 (vs.take 16))).setVec ⟨(f.x.val + 1) % 32, Nat.mod_lt _ (by decide)⟩
          (ofLanes 32 (vs.drop 16))) .seq
    | 5 => .ok (h.updC c.val fun k => k.setAccRow f.acc row (pair f.x)) .seq
    | 6 => .ok (h.accMap c f.acc fun v n => fp32.op 0 .add v ((pair f.x).getD n 0) 0) .seq
    | 7 =>
      let (s, g) := convert fp64 fp32 0 false (x.rd f.ra).val.toNat
      .ok ((h.accMap c f.acc fun v _ => fp32.op 0 .mul v s 0).arrFlags c.val false g.of false) .seq
    | _ => .ok (h.amovt f c t) .seq

/-- The waits of R180 and R163 are over for an accumulator instruction issued as number `seq`. -/
def Core.accReady (k : Core) (fn : Fin 9) (f : AccF) (seq : Nat) : Bool :=
  !(usesAcc k.front f.acc seq || usesAcc k.back f.acc seq || k.accHeld f.acc seq ||
    (fn == 8 && k.tileRead (tileOf f.x) (some seq)))

/-- An accumulator instruction at issue: checked, then run or held (R180, R188). -/
def Hw.accIns (fn : Fin 9) (f : AccF) (h : Hw) (c : CoreId) (t : Tid) : IRes :=
  match h.accCheck c t fn f with
  | .error e => .exc h e
  | .ok _ =>
    let k := h.core c.val
    let h := h.updC c.val fun k => { k with seq := k.seq + 1 }
    if k.accReady fn f k.seq then Hw.accGo fn f h c t
    else .ok (h.updT c t fun x => { x with wait := .acc k.seq fn f }) .stay

/-- A held accumulator instruction executes. -/
def Hw.accStart (h : Hw) (c : CoreId) (t : Tid) : Hw :=
  match (h.thr c t).wait with
  | .acc seq fn f =>
    if h.coreRuns c.val && (h.core c.val).accReady fn f seq then h.complete c t fun h => Hw.accGo fn f h c t else h
  | _ => h

/-! ### The meanings -/

/-- AZERO (R187). Set every accumulator element to +0.0. -/
def execAzero (c : CoreId) (t : Tid) (f : AccF) (s : State) : Host.Outcome State Fault Refusal :=
  s.issue c t 4 [] (Hw.accIns 0 f)
/-- ALOAD (R188). Load 32 FP32 rows into an accumulator. -/
def execAload (c : CoreId) (t : Tid) (f : AccF) (s : State) : Host.Outcome State Fault Refusal :=
  s.issue c t 4 [f.ra, f.rb] (Hw.accIns 1 f)
/-- ASTORE (R188). Store accumulator rows as FP32. -/
def execAstore (c : CoreId) (t : Tid) (f : AccF) (s : State) : Host.Outcome State Fault Refusal :=
  s.issue c t 4 [f.ra, f.rb] (Hw.accIns 2 f)
/-- ASTORE_BF (R187). Store accumulator rows rounded to BF16. -/
def execAstoreBf (c : CoreId) (t : Tid) (f : AccF) (s : State) : Host.Outcome State Fault Refusal :=
  s.issue c t 4 [f.ra, f.rb] (Hw.accIns 3 f)
/-- AMOV_V (R187). Move an accumulator row into two vector registers. -/
def execAmovV (c : CoreId) (t : Tid) (f : AccF) (s : State) : Host.Outcome State Fault Refusal :=
  s.issue c t 4 [f.rb] (Hw.accIns 4 f)
/-- AMOV_A (R187). Move two vector registers into an accumulator row. -/
def execAmovA (c : CoreId) (t : Tid) (f : AccF) (s : State) : Host.Outcome State Fault Refusal :=
  s.issue c t 4 [f.rb] (Hw.accIns 5 f)
/-- ABIAS (R187). Add a vector to every accumulator row. -/
def execAbias (c : CoreId) (t : Tid) (f : AccF) (s : State) : Host.Outcome State Fault Refusal :=
  s.issue c t 4 [] (Hw.accIns 6 f)
/-- AMULS (R187). Scale every accumulator element. -/
def execAmuls (c : CoreId) (t : Tid) (f : AccF) (s : State) : Host.Outcome State Fault Refusal :=
  s.issue c t 4 [f.ra] (Hw.accIns 7 f)
/-- AMOV_T (R189). Convert accumulator columns into a tile block. -/
def execAmovT (c : CoreId) (t : Tid) (f : AccF) (s : State) : Host.Outcome State Fault Refusal :=
  s.issue c t 4 [f.rb] (Hw.accIns 8 f)
/-- ACCUMULATOR_INSTRUCTION_START (R180). A held accumulator instruction executes once earlier work completes. -/
def execAccumulatorInstructionStart (c : CoreId) (t : Tid) (s : State) : Host.Outcome State Fault Refusal :=
  s.run fun h => h.accStart c t

end Sys2Proof.Machine
end

