-- ==== Sys2Proof/Machine/Backward.lean ====
section
/-! DEFINITION. The backward pass: ROWRED2, DERIVO, DERIVI and RR2_CLR (spec 06 R207–R219). -/

namespace Sys2Proof.Machine

/-! ### The descriptor (R208, R209) -/

/-- A descriptor as it was copied at issue. -/
structure RDesc where
  mode : Nat
  y : Nat
  dy : Nat
  dx : Nat
  g : Nat
  rstd : Nat
  dg : Nat
  db : Nat
  n : Nat
  rows : Nat
  stride : Nat
  evEn : Bool
  evThread : Tid
  evBit : Nat
  dbEn : Bool
  dgEn : Bool
  gEn : Bool
  fg : Bool
  fdx : Bool
  fdy : Bool
  fy : Bool
  deriving DecidableEq, Repr

def rdescOf (mode : Nat) (bs : List Byte) : RDesc :=
  let w (o : Nat) := leAt bs o 4
  let v : W32 := BitVec.ofNat 32 (w 0x28)
  { mode := mode, y := w 0, dy := w 4, dx := w 8, g := w 0xC, rstd := w 0x10, dg := w 0x14, db := w 0x18, n := w 0x1C,
    rows := w 0x20, stride := w 0x24, evEn := v.getLsbD 15, evThread := tidOf (fld v 14 13), evBit := fld v 12 8,
    dbEn := v.getLsbD 6, dgEn := v.getLsbD 5, gEn := v.getLsbD 4, fg := v.getLsbD 3, fdx := v.getLsbD 2,
    fdy := v.getLsbD 1, fy := v.getLsbD 0 }

/-- The reserved bits of the descriptor are 0 (R208). -/
def rdescReserved (bs : List Byte) : Bool :=
  [(0x00, 21), (0x04, 21), (0x08, 21), (0x0C, 21), (0x10, 21), (0x14, 21), (0x18, 21), (0x1C, 17), (0x20, 13),
    (0x24, 21), (0x28, 16)].all (fun p => decide (leAt bs p.1 4 < 2 ^ p.2)) &&
    decide (leAt bs 0x28 4 / 128 % 2 = 0) && decide (leNat (bs.drop 0x2C) = 0)

/-- Bytes of an element. -/
def esize (bf : Bool) : Nat := if bf then 2 else 4

/-- The regions an instruction touches: base, bytes of one piece, pieces, distance, and whether it writes them. -/
def RDesc.regions (d : RDesc) : List (Nat × Nat × Nat × Nat × Bool) :=
  [(d.y, d.n * esize d.fy, d.rows, d.stride, false), (d.dy, d.n * esize d.fdy, d.rows, d.stride, false),
    (d.dx, d.n * esize d.fdx, d.rows, d.stride, true)] ++
    (if d.gEn then [(d.g, d.n * esize d.fg, 1, 0, false)] else []) ++
    (if d.mode = 0 then [] else [(d.rstd, 4 * d.rows, 1, 0, false)]) ++
    (if d.dgEn then [(d.dg, 4 * d.n, 1, 0, true)] else []) ++ (if d.dbEn then [(d.db, 4 * d.n, 1, 0, true)] else [])

/-- Item 2 of R209. -/
def RDesc.ok (d : RDesc) : Bool :=
  decide (16 ≤ d.n ∧ d.n ≤ 65536 ∧ d.n % 16 = 0 ∧ 1 ≤ d.rows ∧ d.rows ≤ 4096 ∧ d.stride % 64 = 0) &&
    decide (d.y % 64 = 0 ∧ d.dy % 64 = 0 ∧ d.dx % 64 = 0 ∧ d.g % 64 = 0 ∧ d.dg % 64 = 0 ∧ d.db % 64 = 0 ∧ d.rstd % 4 = 0) &&
    !(d.dgEn && decide (d.mode = 0)) && !(d.dbEn && decide (d.mode ≠ 1)) &&
    (d.regions.all fun r => decide (0x0C00 ≤ r.1 ∧ r.1 + (r.2.2.1 - 1) * r.2.2.2.1 + r.2.1 ≤ localTop)) &&
    (!d.evEn || decide (16 ≤ d.evBit ∧ d.evBit ≤ 30))

/-- The spans of local memory of the regions. -/
def RDesc.spans (d : RDesc) : List (Nat × Nat × Bool) :=
  (d.regions.map fun r => (List.range r.2.2.1).map fun i => (r.1 + i * r.2.2.2.1, r.2.1, r.2.2.2.2)).flatten

/-- The bytes of every region. -/
def Core.rdescBytes (k : Core) (d : RDesc) : List Byte := (d.spans.map fun s => k.lmem.readN s.1 s.2.1).flatten

/-- Occupancy (R212). -/
def RDesc.occ (d : RDesc) : Nat :=
  let p1 := if d.mode = 0 then 2 else 2 + d.gEn.toNat + 2 * d.dgEn.toNat + (if d.mode = 1 then 2 * d.dbEn.toNat else 0)
  let p2 := if d.mode = 0 then 3 else 3 + d.gEn.toNat
  Nat.max (d.rows * (8 + ceilDiv d.n 64 * (p1 + p2))) 4

/-- The checks of R207 and R209, and the copied descriptor. -/
def Hw.rowredCheck (h : Hw) (c : CoreId) (x : Thread) (f : RF) (fn : Nat) : Except Exc RDesc := do
  assigned 0x29 (decide (fn < 3))
  mbz 0x29 (f.rd = 0 && f.rb = 0)
  let a ← needAddr 0 (x.rd f.ra)
  inRange 0x29 (a.tag = .laddr)
  let p := a.val.toNat
  inSpace 0 .laddr p 64
  aligned 6 p
  let k := h.core c.val
  let e := k.lmErr p 64
  if 2 ≤ e then .error (eccExc 1 (lmKind e) 0 0 p)
  let bs := k.lmem.readN p 64
  let d := rdescOf fn bs
  inRange 0x29 (rdescReserved bs && d.ok)
  let low := (d.spans.filter fun s => s.2.2).map (·.1)
  low.foldlM (fun _ a => h.guard c x 0x29 a) ()
  .ok d

/-- ROWRED2 at issue. -/
def Hw.rowredIns (f : RF) (fn : BitVec 11) (h : Hw) (c : CoreId) (t : Tid) : IRes :=
  let x := h.thr c t
  match h.rowredCheck c x f fn.toNat with
  | .error e => .exc h e
  | .ok d =>
    let k := h.core c.val
    if 4 ≤ k.back.length then .ok h .stay
    else
      let p := (x.rd f.ra).val.toNat
      .ok ((h.lmScrub c.val p 64).enqueue c true
        { seq := 0, kind := .rowred2, thread := t, acc := 0, z := false, ta := 0, tb := 0, a := {}, b := {},
          mode := ⟨fn.toNat % 3, Nat.mod_lt _ (by decide)⟩, desc := k.lmem.readN p 64, snap := k.rdescBytes d,
          occ := d.occ, started := none }) .seq

/-! ### The reduction (R210, R211) -/

/-- An FP32 element: BF16 widened exactly. -/
def Core.rval (k : Core) (bf : Bool) (base i : Nat) : Nat :=
  if bf then leNat (k.lmem.readN (base + 2 * i) 2) * 65536 else leNat (k.lmem.readN (base + 4 * i) 4)

/-- A rounded FP32 result gathers NaN and overflow (R183). -/
structure RFlags where
  nv : Bool := false
  of : Bool := false
  deriving DecidableEq, Repr
def RFlags.or (a b : RFlags) : RFlags := ⟨a.nv || b.nv, a.of || b.of⟩
def rflag (f : Fmt) (r : Nat × FFlags) : Nat × RFlags := (r.1, ⟨(f.dec r.1).isNan, r.2.of⟩)
def f32 (o : FOp) (a b c : Nat) : Nat × RFlags := rflag fp32 (fp32.op 0 o a b c)
def f32neg (a : Nat) : Nat := (a + 2 ^ 31) % 2 ^ 32

/-- The flags of a list of results. -/
def flagsAll (l : List (Nat × RFlags)) : RFlags := l.foldl (fun a p => a.or p.2) {}

/-- Chunk sums added in ascending order. -/
def addChunks : Nat × RFlags → List (Nat × RFlags) → Nat × RFlags
  | s, [] => s
  | s, c :: cs => let r := f32 .add s.1 c.1 0; addChunks (r.1, s.2.or (c.2.or r.2)) cs

/-- The sum of a row: chunks of 64 by the tree of R196, the last one padded with +0.0. -/
def rowSum (vs : List Nat) : Nat × RFlags :=
  let chunk (i : Nat) : Nat × RFlags :=
    let l := (vs.drop (64 * i)).take 64
    rflag fp32 (treeSum fp32 0 6 (l ++ List.replicate (64 - l.length) 0))
  addChunks (chunk 0) ((List.range (ceilDiv vs.length 64 - 1)).map fun i => chunk (i + 1))

/-- 1/n rounded to FP32. -/
def recipN (n : Nat) : Nat := (fp32.enc 0 false (FV.div 26 (FV.ofZ 1) (FV.ofZ n)).1).1

/-- What pass 1 leaves for pass 2: s of SMAX, m1 and m2 (R210). -/
structure RSums where
  s : Nat
  m1 : Nat
  m2 : Nat
  deriving DecidableEq, Repr

/-- g_i = γ_i·d_i, rounded; none: γ is 1 (R210, R211). -/
def gElem (g : Option Nat) (dv : Nat) : Nat × RFlags :=
  match g with
  | none => (dv, {})
  | some v => f32 .mul v dv 0

/-- Pass 1 over the y, d and γ of a row, with its flags (R210, R211). -/
def rowSums (d : RDesc) (es : List (Nat × Nat × Option Nat)) : RSums × RFlags :=
  if d.mode = 0 then
    let ps := es.map fun e => f32 .mul e.2.1 e.1 0
    let s := rowSum (ps.map (·.1))
    (⟨s.1, 0, 0⟩, (flagsAll ps).or s.2)
  else
    let g := es.map fun e => gElem e.2.2 e.2.1
    let inv := recipN d.n
    let s1 := rowSum (g.map (·.1))
    let m1 := f32 .mul s1.1 inv 0
    let ps := (g.zip es).map fun p => f32 .mul p.1.1 p.2.1 0
    let s2 := rowSum (ps.map (·.1))
    let m2 := f32 .mul s2.1 inv 0
    (⟨0, m1.1, m2.1⟩,
      (((flagsAll g).or (flagsAll ps)).or (s2.2.or m2.2)).or (if d.mode = 1 then s1.2.or m1.2 else {}))

/-- dx of one element in pass 2, from its y, d and γ and ρ (R210, R211), in FP32. -/
def dxElem (d : RDesc) (m : RSums) (rho : Nat) (e : Nat × Nat × Option Nat) : Nat × RFlags :=
  if d.mode = 0 then
    let t := f32 .sub e.2.1 m.s 0
    let r := f32 .mul e.1 t.1 0
    (r.1, t.2.or r.2)
  else
    let g := gElem e.2.2 e.2.1
    let t0 : Nat × RFlags := if d.mode = 1 then f32 .sub g.1 m.m1 0 else (g.1, {})
    let t := f32 .fma (f32neg e.1) m.m2 t0.1
    let r := f32 .mul rho t.1 0
    (r.1, g.2.or ((t0.2.or t.2).or r.2))

/-- dx in its format. -/
def dxOut (d : RDesc) (p : Nat × RFlags) : Nat × RFlags :=
  if d.fdx then let r := rflag bf16 (convert fp32 bf16 0 false p.1); (r.1, p.2.or r.2) else p

/-- A read of row `r` meets an uncorrectable word (R215). -/
def Core.rowBad (k : Core) (d : RDesc) (r : Nat) : Bool :=
  decide (2 ≤ k.lmErr (d.y + r * d.stride) (d.n * esize d.fy)) || decide (2 ≤ k.lmErr (d.dy + r * d.stride) (d.n * esize d.fdy)) ||
    (d.gEn && decide (2 ≤ k.lmErr d.g (d.n * esize d.fg))) || (d.mode != 0 && decide (2 ≤ k.lmErr (d.rstd + 4 * r) 4)) ||
    (d.dgEn && decide (2 ≤ k.lmErr d.dg (4 * d.n))) || (d.dbEn && decide (2 ≤ k.lmErr d.db (4 * d.n)))

/-- Element `i` of row `r`: y, d and γ. -/
def Core.rowElem (k : Core) (d : RDesc) (r i : Nat) : Nat × Nat × Option Nat :=
  (k.rval d.fy (d.y + r * d.stride) i, k.rval d.fdy (d.dy + r * d.stride) i, if d.gEn then some (k.rval d.fg d.g i) else none)
def Core.rho (k : Core) (d : RDesc) (r : Nat) : Nat := if d.mode = 0 then 0 else k.rval false (d.rstd + 4 * r) 0

/-- The results of row `r`: dx, and the new dγ and dβ, as bytes to write at an address; element size first. -/
def Core.rowResults (k : Core) (d : RDesc) (r : Nat) : List (Nat × Nat × List Nat) × RFlags :=
  let es := (List.range d.n).map (k.rowElem d r)
  let (m, fl) := rowSums d es
  let out := es.map fun e => dxOut d (dxElem d m (k.rho d r) e)
  let dg := if d.dgEn then es.zipIdx.map fun p => f32 .fma p.1.2.1 p.1.1 (k.rval false d.dg p.2) else []
  let db := if d.dbEn then es.zipIdx.map fun p => f32 .add (k.rval false d.db p.2) p.1.2.1 0 else []
  ((esize d.fdx, d.dx + r * d.stride, out.map (·.1)) ::
      ((if d.dgEn then [(4, d.dg, dg.map (·.1))] else []) ++ (if d.dbEn then [(4, d.db, db.map (·.1))] else [])),
    fl.or ((flagsAll out).or ((flagsAll dg).or (flagsAll db))))

/-- The core with the regions of an instruction as they stood before it. -/
def Core.before (k : Core) (d : RDesc) (snap : List Byte) : Core :=
  { k with lmem := (d.spans.foldl (fun (p : Memory × List Byte) s => (p.1.writeN s.1 (p.2.take s.2.1), p.2.drop s.2.1)) (k.lmem, snap)).1 }

/-- A value as an instruction may read it whose regions are written while it runs, by itself or by others: as before the
instruction, as the row found it, or as it is now (R214, log 17). -/
def Hw.anyOf {α : Type} (h : Hw) (c : CoreId) (ks : List Core) (f : Core → α) : α × Hw :=
  let (n, h) := h.choose (ks.length + 1)
  (f (ks.getD n (h.core c.val)), h)

/-- Elements written at an address. -/
def Hw.putElems (h : Hw) (c : CoreId) (p : Nat × Nat × List Nat) : Hw :=
  h.lmWrite c.val p.2.1 (p.2.2.map (leBytes p.1)).flatten

/-- Each element keeps its old value or takes the new one, as free choices fix (R215, log 6). -/
def Hw.oldOrNew (h : Hw) (c : CoreId) (p : Nat × Nat × List Nat) : Hw :=
  let n0 := h.free
  let h := { h with free := n0 + p.2.2.length }
  p.2.2.zipIdx.foldl (fun h v =>
    if Config.pick (n0 + v.2) % 2 = 0 then h else h.lmWrite c.val (p.2.1 + p.1 * v.2) (leBytes p.1 v.1)) h

/-- One element of a row in a region written. -/
def Hw.putElem (h : Hw) (c : CoreId) (size a v : Nat) : Hw := h.lmWrite c.val a (leBytes size v)

/-- Element `i` of pass 1 when the regions are written meanwhile: what it reads, with dγ and dβ (R210, R214). -/
def Hw.mixed1 (d : RDesc) (c : CoreId) (ks : List Core) (r i : Nat) (h : Hw) : (Nat × Nat × Option Nat) × RFlags × Hw :=
  let (e, h) := h.anyOf c ks fun k => (k.rowElem d r i).1
  let (dv, h) := h.anyOf c ks fun k => (k.rowElem d r i).2.1
  let (g, h) := h.anyOf c ks fun k => (k.rowElem d r i).2.2
  let (fl, h) := if d.dgEn then
      let (old, h) := h.anyOf c ks fun k => k.rval false d.dg i
      let v := f32 .fma dv e old
      (v.2, h.putElem c 4 (d.dg + 4 * i) v.1)
    else ({}, h)
  let (fl', h) := if d.dbEn then
      let (old, h) := h.anyOf c ks fun k => k.rval false d.db i
      let v := f32 .add old dv 0
      (v.2, h.putElem c 4 (d.db + 4 * i) v.1)
    else ({}, h)
  ((e, dv, g), fl.or fl', h)

/-- Element `i` of pass 2 then. -/
def Hw.mixed2 (d : RDesc) (c : CoreId) (ks : List Core) (m : RSums) (rho r i : Nat) (h : Hw) : RFlags × Hw :=
  let (y, h) := h.anyOf c ks fun k => (k.rowElem d r i).1
  let (dv, h) := h.anyOf c ks fun k => (k.rowElem d r i).2.1
  let (g, h) := h.anyOf c ks fun k => (k.rowElem d r i).2.2
  let v := dxOut d (dxElem d m rho (y, dv, g))
  (v.2, h.putElem c (esize d.fdx) (d.dx + r * d.stride + esize d.fdx * i) v.1)

/-- Row `r` then: each element written is the result of R210 on some combination of what its reads may return (R214). -/
def Hw.mixedRow (d : RDesc) (c : CoreId) (old : Core) (r : Nat) (h : Hw) : RFlags × Hw :=
  let ks := [old, h.core c.val]
  let (rho, h) := h.anyOf c ks fun k => k.rho d r
  let (es, fl, h) := (List.range d.n).foldl (fun (a : List (Nat × Nat × Option Nat) × RFlags × Hw) i =>
    let x := Hw.mixed1 d c ks r i a.2.2
    (a.1 ++ [x.1], a.2.1.or x.2.1, x.2.2)) ([], {}, h)
  let (m, fl') := rowSums d es
  (List.range d.n).foldl (fun (a : RFlags × Hw) i =>
    let x := Hw.mixed2 d c ks m rho r i a.2
    (a.1.or x.1, x.2)) (fl.or fl', h)

/-- Rows from `r` on: rows completed and whether an error stopped it. `old` is the core before the instruction, when its regions
overlap or others wrote them meanwhile (R214). -/
def Hw.rowredGo (d : RDesc) (old : Option Core) (c : CoreId) : Nat → Nat → Hw → Hw × Nat × Bool
  | 0, r, h => (h, r, false)
  | k + 1, r, h =>
    let core := h.core c.val
    let (out, fl) := core.rowResults d r
    if core.rowBad d r then (out.foldl (fun h p => h.oldOrNew c p) h, r, true)
    else
      let (fl, h) : RFlags × Hw := match old with
        | none => (fl, out.foldl (fun (h : Hw) p => h.putElems c p) h)
        | some o => Hw.mixedRow d c o r h
      Hw.rowredGo d old c k (r + 1) (h.arrFlags c.val fl.nv fl.of false)

/-- Two spans share a byte. -/
def spansMeet (a b : Nat × Nat × Bool) : Bool := decide (a.1 < b.1 + b.2.1) && decide (b.1 < a.1 + a.2.1)

/-- No region written overlaps another region, but dx the dy or y region itself (R214). -/
def RDesc.disjoint (d : RDesc) : Bool :=
  let same (a b : Nat × Nat × Nat × Nat × Bool) : Bool := a.1 == b.1 && a.2.1 == b.2.1
  let rs := d.regions
  let dx := rs[2]?
  (rs.zipIdx).all fun a => !a.1.2.2.2.2 || (rs.zipIdx).all fun b =>
    decide (a.2 = b.2) || (decide (a.2 = 2) && decide (b.2 < 2) && (match dx with | some x => same x b.1 | none => false)) ||
      ((List.range a.1.2.2.1).all fun i => (List.range b.1.2.2.1).all fun j =>
        !spansMeet (a.1.1 + i * a.1.2.2.2.1, a.1.2.1, true) (b.1.1 + j * b.1.2.2.2.1, b.1.2.1, true))

/-- The core before a queued ROWRED2, when R214 leaves its outcome open: a region was written since, or regions overlap. -/
def Core.mixes (k : Core) (i : ArrIns) (d : RDesc) : Option Core :=
  if k.rdescBytes d = i.snap ∧ d.disjoint = true then none else some (k.before d i.snap)

/-- What a ROWRED2 wrote is, for one that waits behind it, as it was before that one (R212). -/
def Core.seenBy (k : Core) (d : RDesc) (j : ArrIns) : ArrIns :=
  if j.kind ≠ .rowred2 then j
  else
    let e := rdescOf j.mode.val j.desc
    let b := k.before e j.snap
    let w := (d.spans.filter fun s => s.2.2).foldl (fun (m : Memory) s => m.writeN s.1 (k.lmem.readN s.1 s.2.1)) b.lmem
    { j with snap := ({ b with lmem := w } : Core).rdescBytes e }

/-- The first span that row `r` reads with an uncorrectable word: the error is counted and recorded (R215, R441). -/
def Hw.rowredUnc (h : Hw) (c : CoreId) (d : RDesc) (r : Nat) : Hw :=
  let k := h.core c.val
  let row (base : Nat) (bf : Bool) : List (Nat × Nat) := [(base + r * d.stride, d.n * esize bf)]
  let spans := row d.y d.fy ++ row d.dy d.fdy ++ (if d.gEn then [(d.g, d.n * esize d.fg)] else []) ++
    (if d.mode = 0 then [] else [(d.rstd + 4 * r, 4)]) ++ (if d.dgEn then [(d.dg, 4 * d.n)] else []) ++
    (if d.dbEn then [(d.db, 4 * d.n)] else [])
  match spans.find? fun s => decide (2 ≤ k.lmErr s.1 s.2) with
  | none => h
  | some s =>
    let kind := lmKind (k.lmErr s.1 s.2)
    (h.errCount (dieOf c.val) (siteIx c.val) 2).pf 0x10 (dieOf c.val) (siteIx c.val) (pack 32 [(12, 15), (8, kind)])
      (BitVec.ofNat 32 s.1)

/-- A reset stops the started ROWRED2 at the head of the back queue: rows before some row are complete, and each element of that row
is old or new (R215, log 6). -/
def Hw.cutRowred (h : Hw) (c : CoreId) : Hw :=
  match (h.core c.val).back with
  | i :: _ =>
    if i.kind ≠ .rowred2 ∨ i.started = none then h
    else
      let d := rdescOf i.mode.val i.desc
      let old := (h.core c.val).mixes i d
      let (n, h) := h.choose (d.rows + 1)
      let (h, done, bad) := Hw.rowredGo d old c n 0 h
      if bad ∨ d.rows ≤ done then h else (((h.core c.val).rowResults d done).1).foldl (fun h p => h.oldOrNew c p) h
  | [] => h

/-- The started ROWRED2 at the head of the back queue completes (R210, R213, R215). -/
def Hw.rowredComplete (h : Hw) (c : CoreId) : Hw :=
  match (h.core c.val).back with
  | i :: rest =>
    if i.kind ≠ .rowred2 ∨ i.started = none then h
    else
      let d := rdescOf i.mode.val i.desc
      let h := (d.spans.filter fun s => !s.2.2).foldl (fun h s => h.lmScrub c.val s.1 s.2.1) h
      let (h, done, bad) := Hw.rowredGo d ((h.core c.val).mixes i d) c d.rows 0 h
      let h := if bad then h.rowredUnc c d done else h
      let h := (h.updC c.val fun k =>
        { k with back := rest.map (k.seenBy d), rr2Rows := BitVec.ofNat 13 done, rr2Ecc := bad, rr2Mode := BitVec.ofNat 2 i.mode.val }).busy c
          true i.occ
      let h := h.updCpg c.val 0x0C4 fun v => v + BitVec.ofNat 32 done
      if d.evEn then h.setEv c d.evThread d.evBit else h
  | [] => h

/-- RR2_STAT (R219). -/
def Core.rr2Stat (k : Core) : Word :=
  pack 64 [(16, k.rr2Rows.toNat), (3, (k.back.filter fun i => i.kind == .rowred2).length), (2, k.rr2Ecc.toNat),
    (0, k.rr2Mode.toNat)]

/-- MTSR to RR2_CLR (R219). -/
def Hw.rr2ClrIns (ra : Reg) (h : Hw) (c : CoreId) (t : Tid) : IRes :=
  IRes.ofE h do
    let v ← needInt 0 ((h.thr c t).rd ra)
    .ok (if v.getLsbD 0 then h.updC c.val fun k => { k with rr2Ecc := false } else h, .seq)

/-! ### Derivatives (R216, R217) -/

/-- f′ of DERIVO fn 0–3 as an exact value, and whether forming it was invalid. -/
def derivExact (fn : Nat) (y : FV) : FV × Bool :=
  let one := FV.ofZ 1
  match fn with
  | 0 => let (a, i) := FV.add 0 one y.negate; let (r, j) := FV.mul y a; (r, i || j)
  | 1 => let (a, i) := FV.mul y y; let (r, j) := FV.add 0 one a.negate; (r, i || j)
  | 2 => (y, y.isSig)
  | _ => match y with
    | .nan s => (.nan false, s)
    | .inf n => (if n then .fin false 0 0 else one, false)
    | .fin n m _ => (if m ≠ 0 ∧ n = false then one else .fin false 0 0, false)

/-- One lane: exact functions are rounded once; the others give one of the results within the bound, and of an infinite operand,
for which no rule gives the exact result, any value (R217, log 9). -/
def derivLane (f : Fmt) (rm : RM) (inp : Bool) (fn y dy : Nat) : Nat × FFlags :=
  let a := f.dec y
  let b := f.dec dy
  if !inp && decide (fn < 4) then
    let (p, i) := derivExact fn a
    let (r, j) := FV.mul p b
    let (v, g) := f.enc rm false r
    (v, g.or { nv := i || j || a.isSig || b.isSig })
  else if a.isNan || b.isNan then (f.cnan, { nv := a.isSig || b.isSig })
  else
    let free := (Config.derivApprox ((if inp then 8 else 0) + fn + 16 * f.width) (BitVec.ofNat 32 y) (BitVec.ofNat 32 dy)).toNat
    match a, b with
    | .fin n m e, .fin p k q =>
      f.chosen free ((if p then -1 else 1) * fxDeriv inp fn (fxOf n m e) * (k * 2 ^ (q + 532).toNat))
    | _, _ =>
      let r := free % 2 ^ f.width
      if (f.dec r).isNan then (f.cnan, { nv := true }) else (r, f.approxFlags r)

/-- DERIVO and DERIVI. -/
def Hw.derivIns (inp : Bool) (f : VF) (fn : BitVec 5) (h : Hw) (c : CoreId) (t : Tid) : IRes :=
  let op := if inp then 0x2B else 0x2A
  let x := h.thr c t
  let fmt := vfFmt f.et
  let w := fmt.width
  match assigned op (decide (f.et.toNat < 2) && decide (fn.toNat < if inp then 3 else 5)) with
  | .error e => .exc h e
  | .ok _ =>
    let m := x.kmask f.km
    let r := ((lanes w (x.vec f.va)).zip (lanes w (x.vec f.vb))).map fun p => derivLane fmt x.rm inp fn.toNat p.1 p.2
    h.fpDone c t (laneFlags w m (r.map (·.2))) fun h => h.updT c t fun x =>
      x.setVec f.vd (mergeLanes w m f.z (x.vec f.vd) (r.map (·.1)))

/-! ### The meanings -/

/-- ROWRED2 (R209). Check a descriptor and queue a two-pass row reduction. -/
def execRowred2 (c : CoreId) (t : Tid) (f : RF) (fn : BitVec 11) (s : State) : Host.Outcome State Fault Refusal :=
  s.issue c t 4 [f.ra] (Hw.rowredIns f fn)
/-- ROWRED2_COMPLETE (R213). A row reduction completes and signals its event. -/
def execRowred2Complete (c : CoreId) (s : State) : Host.Outcome State Fault Refusal :=
  s.run fun h => h.rowredComplete c
/-- DERIVO (R216). Derivative from a saved output times dy. -/
def execDerivo (c : CoreId) (t : Tid) (f : VF) (fn : BitVec 5) (s : State) : Host.Outcome State Fault Refusal :=
  s.issue c t 4 [] (Hw.derivIns false f fn)
/-- DERIVI (R216). Derivative from a saved input times dy. -/
def execDerivi (c : CoreId) (t : Tid) (f : VF) (fn : BitVec 5) (s : State) : Host.Outcome State Fault Refusal :=
  s.issue c t 4 [] (Hw.derivIns true f fn)
/-- RR2_CLR (R219). Clear RR2_STAT.ecc. -/
def execRr2Clr (c : CoreId) (t : Tid) (ra : Reg) (s : State) : Host.Outcome State Fault Refusal :=
  s.issue c t 4 [ra] (Hw.rr2ClrIns ra)

end Sys2Proof.Machine
end

