-- ==== Sys2Proof/Machine/Rep.lean ====
section
/-! DEFINITION. Repeat prefixes (spec 02 R88, R91; spec 05 R198). -/

namespace Sys2Proof.Machine

/-- The instruction behind a prefix, run once as written. -/
def Hw.repBody (b : RepIns) (h : Hw) (c : CoreId) (t : Tid) : IRes :=
  match b with
  | .alu op f => Hw.aluIns op f h c t
  | .imm op f => Hw.immIns op f h c t
  | .fp op f => Hw.fpIns op f h c t
  | .tag op f => Hw.tagIns op f h c t
  | .addr op f => Hw.addrIns op f h c t
  | .addai f => Hw.addaiIns f h c t
  | .ld f => Hw.ldIns f h c t
  | .st f => Hw.stIns f h c t
  | .vint op f => Hw.viIns op f h c t
  | .vfp op f => Hw.vfIns op f h c t
  | .vld f => Hw.vldIns f h c t
  | .vst f => Hw.vstIns f h c t
  | .mask op f => Hw.maskIns op f h c t
  | .notRepeatable => .ok h .seq

/-- The scalar source registers of an instruction behind a prefix (R426 source 5). -/
def repSrcs : RepIns → List Reg
  | .alu op f => if op = .clz ∨ op = .popc then [f.ra] else [f.ra, f.rb]
  | .imm op f => if op = .li then [] else [f.ra]
  | .fp op f => match op with
    | .fsqrt | .fneg | .fabs | .cvtif | .cvtfi => [f.ra]
    | .fma => [f.ra, f.rb, f.rd]
    | _ => [f.ra, f.rb]
  | .tag op f => if op = .clr then [] else [f.ra]
  | .addr _ f => [f.ra, f.rb]
  | .addai f => [f.ra]
  | .ld f => [f.ra]
  | .st f => [f.ra, f.r]
  | .vld f => [f.ra]
  | .vst f => [f.ra]
  | .mask op f => if op = .movg ∨ op = .first then [f.ra] else []
  | _ => []

/-- Progress of a prefix recorded in STATUS (R91). -/
def Hw.repLeave (h : Hw) (c : CoreId) (t : Tid) (n : Bool) (left : Nat) : Hw :=
  h.updT c t fun x => x.setSt fun s => { s with repActive := true, repMode := n, repLeft := BitVec.ofNat 12 left }

/-- The repetition is over (R91). -/
def Hw.repDone (h : Hw) (c : CoreId) (t : Tid) : Hw :=
  h.updT c t fun x => x.setSt fun s => { s with repActive := false, repLeft := 0 }

/-- The next of the iterations that remain, and the boundary behind it: the thread stays at the prefix until the last one
commits. A single-step trap follows each iteration of REP.I and the last of REP.N, a debugger step every one (R91, R130). -/
def Hw.repGo (n : Bool) (b : RepIns) (c : CoreId) (t : Tid) (left : Nat) (h : Hw) : IRes :=
  match left with
  | 0 => .ok (h.repDone c t) .seq
  | k + 1 =>
    let h := h.repLeave c t n (k + 1)
    match h.parity c t (repSrcs b) (Hw.repBody b h c t) with
    | .exc h e => .exc h e
    | .trap h e => .exc h e
    | .ok h .stay => .ok h .stay
    | .ok h _ =>
      if k = 0 then .ok (h.repDone c t) .seq
      else if n then .ok ((h.repLeave c t n k).endStep c t) .stay
      else .ok (h.repLeave c t n k) (.jump (h.thr c t).pc)

/-- The count of a prefix, its checks done in the order of R69: ILLEGAL, REPEAT, TAG; a count above 4,095 is REPEAT too
(R88). -/
def repCount (f : PF) (b : RepIns) (x : Thread) : Except Exc Nat := do
  mbz 0x07 (f.mbz = 0 && (if f.src then f.count = 0 else f.rc = 0))
  if b = .notRepeatable then .error ⟨12, 1, none⟩
  if x.st.repActive then .ok x.st.repLeft.toNat
  else if !f.src then .ok f.count.toNat
  else do
    let v ← needInt 0 (x.rd f.rc)
    if 4095 < v.toNat then .error ⟨12, 2, none⟩
    .ok v.toNat

/-- REP.I and REP.N. -/
def Hw.repIns (n : Bool) (f : PF) (b : RepIns) (h : Hw) (c : CoreId) (t : Tid) : IRes :=
  let r := match repCount f b (h.thr c t) with
    | .error e => .exc h e
    | .ok k => Hw.repGo n b c t k h
  if f.src && !(h.thr c t).st.repActive then h.parity c t [f.rc] r else r

/-! ### The meanings -/

/-- REP_I (R88). Repeat the following instruction, interruptible between iterations. Each command is one iteration. -/
def execRepI (c : CoreId) (t : Tid) (f : PF) (b : RepIns) (s : State) : Host.Outcome State Fault Refusal :=
  s.issueRep c t [] (Hw.repIns false f b)
/-- REP_N (R88). Repeat the following instruction, holding interrupts to the end. Each command is one iteration. -/
def execRepN (c : CoreId) (t : Tid) (f : PF) (b : RepIns) (s : State) : Host.Outcome State Fault Refusal :=
  s.issueRep c t [] (Hw.repIns true f b)

end Sys2Proof.Machine
end

