-- ==== Sys2Proof/Machine/Entries.lean ====
section
/-! DEFINITION. Boundaries without an instruction: wakes, asynchronous entries, halts, debugger steps, the STALL alarm
and delayed accesses (spec 03 R95, R102, R108, R109, R123–R131; spec 04 R141–R143). -/

namespace Sys2Proof.Machine

/-- A thread that stands at a boundary: running and not held, or in a wait that can be abandoned (R95, R188). -/
def Thread.atBoundary (x : Thread) : Bool := (x.state == .run && !x.wait.isHeld) || x.state.canAbandon

/-- An entry other than INTR is due. -/
def Hw.otherDue (h : Hw) (c : CoreId) (t : Tid) : Bool :=
  match h.dueEvent c t with | some e => e.cause != 18 | none => false

/-! ### Wakes (R86, R87, R95, R109, R273) -/

/-- The waiting instruction completes if its condition holds now. -/
def Hw.waitMet (h : Hw) (c : CoreId) (t : Tid) : Option Hw :=
  let x := h.thr c t
  match x.state, x.wait with
  | .waitEv, .wfe rd m => (h.wfeSample c t rd m).map fun h => h.complete c t fun h => .ok h .seq
  | .waitCnt, .waitc cad rd target m =>
    (h.waitcSample c t cad rd target m).map fun h => h.complete c t fun h => .ok h .seq
  | .waitEv, .mwait rd m => (h.mwaitSample c t rd m).map fun r => h.complete c t fun _ =>
      match r with
      | .ok h n => .ok (h.updT c t fun x => { x with state := .run, wait := .none }) n
      | .exc h e => .exc (h.updT c t fun x => { x with state := .run, wait := .none }) e
      | .trap h e => .trap h e
  | _, _ => none

/-- THREAD_WAKE. -/
def Hw.threadWake (h : Hw) (c : CoreId) (t : Tid) : Hw :=
  if h.coreRuns c.val && !h.otherDue c t then (h.waitMet c t).getD h else h

/-! ### Asynchronous entries (R108, R109, R123, R125, R327) -/

/-- The mask of a wait that takes events. -/
def Wait.mask : Wait → W32
  | .wfe _ m => m
  | .waitc _ _ _ m => m
  | .mwait _ m => m
  | _ => 0

/-- The entry due at this boundary is taken if it is that of slot `cause`. -/
def Hw.entryOf (h : Hw) (c : CoreId) (t : Tid) (cause : Nat) : Hw :=
  if h.coreRuns c.val && (h.thr c t).atBoundary then
    match h.dueHere c t with
    | some e => if e.cause = cause then (h.takeEvent c t e).endStep c t else h
    | none => h
  else h

/-- An interrupt is due for a bit that the wait itself takes (R109). -/
def Hw.waitTakes (h : Hw) (c : CoreId) (t : Tid) : Bool :=
  let x := h.thr c t
  !h.otherDue c t && x.state.canAbandon && x.st.ie && decide (x.evPend &&& x.intEn &&& x.wait.mask ≠ 0)

/-- INTR_ENTRY: a bit that the wait itself takes completes the wait instead (R109). -/
def Hw.intrEntry (h : Hw) (c : CoreId) (t : Tid) : Hw :=
  if h.coreRuns c.val && h.waitTakes c t then (h.waitMet c t).getD h else h.entryOf c t 18

/-! ### The STALL alarm (R126–R128) -/

/-- A state that counts as waiting (R126). -/
def TState.stalls : TState → Bool
  | .free | .waitEv | .waitCnt | .waitJoin | .waitLock | .exited | .haltFault | .haltStop => true
  | _ => false

/-- Keys of channels: core slots, and hub channels above them. -/
def slotKey (c : Nat) (n : Nat) : Nat := c * 4 + n
def Hw.chan (h : Hw) (key : Nat) : Chan := lookD h.chans key {}
def DState.active : DState → Bool
  | .ready | .run | .wait | .killing => true
  | _ => false

/-- A slot of the core keeps it awake: active, or armed for a period start (R127, R324). -/
def Hw.slotArmed (h : Hw) (c n : Nat) : Bool :=
  (h.chan (slotKey c n)).state.active ||
    (decide (fld (h.cpg c (0x200 + 32 * n)) 29 28 = 2) && decide (h.cpg c (0x210 + 32 * n) ≠ 0))

/-- A wake source is armed (R127). -/
def Hw.armed (h : Hw) (c : CoreId) : Bool :=
  let k := h.core c.val
  (tids.any fun t => (k.thr t).state == .waitCnt) || ((List.range 4).any fun n => h.slotArmed c.val n) ||
    decide (k.outs ≠ []) || (k.credits.any fun p => p.2.state == .req) ||
    (List.finRange 4).any fun n =>
      ((h.ring (coreIdW c) n).recs.any fun r => !r.pad) &&
        (let s := (k.thr (ringThread (h.rctl c.val n))).state; s == .waitEv || s == .waitCnt)

/-- Stall detection is suspended (R128). -/
def Hw.stallHeld (h : Hw) (c : CoreId) : Bool :=
  !h.coreRuns c.val || tids.any fun t => let s := ((h.core c.val).thr t).state; s == .haltDbg || s == .haltCore

/-- All four threads wait and nothing is armed: STALL_CNT counts (R126). -/
def Hw.stalled (h : Hw) (c : CoreId) : Bool :=
  !h.stallHeld c && (tids.all fun t => ((h.core c.val).thr t).state.stalls) && !h.armed c

/-- THREAD_STATE (R94). -/
def Core.threadState (k : Core) : W32 := pack 32 (tids.map fun t => (4 * t.val, (k.thr t).state.code))

/-- STALL_ENTRY. -/
def Hw.stallEntry (h : Hw) (c : CoreId) : Hw :=
  let k := h.core c.val
  let w := h.cpg c.val 0x064
  if h.stalled c && decide (w ≠ 0) && decide (w.toNat ≤ k.stallCnt.toNat) then
    (h.updC c.val fun k => { k with stallCnt := 0 }).enter c 0 ⟨19, k.threadState.setWidth 16, none⟩ (k.thr 0).pc
  else h

/-! ### Halts and debugger steps (R102, R129, R130, R133) -/

/-- A requested halt lands at the boundary, after any entry that is due there (R123); a wait completes first when it takes the
bit for which an interrupt is due (R109). -/
def Hw.haltLands (h : Hw) (c : CoreId) (t : Tid) (s : TState) : Hw :=
  if h.coreRuns c.val && (h.thr c t).atBoundary && decide (h.haltDue c t = some s) then
    let h := if h.waitTakes c t then (h.waitMet c t).getD h else h
    let h := match h.dueHere c t with | some e => h.takeEvent c t e | none => h
    if (h.thr c t).atBoundary then h.landHalt c t s else h
  else h

/-- The halt_req bits of DBG_CTL written (R129, R133). A new request ends a debugger step that a wait holds up; a request taken
back in the middle of a step leaves the step, so that its thread halts once more (DESIGN CHOICE, log 110). -/
def Hw.haltReq (h : Hw) (c : CoreId) (bits : BitVec 4) : Hw :=
  let old := h.cpg c.val 0x074
  let h := (h.setCpg c.val 0x074 (setFld old 3 0 bits.toNat)).wakeBy c.val 1 5
  tids.foldl (fun h t =>
    if old.getLsbD t.val && !bits.getLsbD t.val && (h.thr c t).state == .haltDbg then
      h.updT c t fun x => { x with state := .run, stepping := false }
    else if !old.getLsbD t.val && bits.getLsbD t.val && (h.thr c t).stepping then
      h.updT c t fun x => { x with stepping := false }
    else h) h

/-- DBG_CTL.step. -/
def Hw.dbgStep (h : Hw) (c : CoreId) (t : Tid) : Hw :=
  if (h.thr c t).state = .haltDbg then h.updT c t fun x => { x with state := .run, stepping := true } else h

/-- DBG_CTL.discard_cb. -/
def Hw.discardCb (h : Hw) (c : CoreId) (t : Tid) : Hw :=
  if (h.thr c t).state.halted then h.closeComp c t else h

/-! ### Delayed accesses (R141–R143) -/

/-- A delayed access is served: counted, and BANK for a scalar or vector instruction's access, at the boundary behind it or,
under REP.N, behind the last iteration for the first that was delayed (R142). A halt that has landed at that boundary stands
behind the entry (R123). The bank of an access whose window spans several banks is that of its first line (DESIGN CHOICE,
log 110). -/
def Hw.delayed (h : Hw) (c : CoreId) (d : Delayed) : Hw :=
  let bank := d.laddr.toNat / 64 % 24
  let h := (h.updCpg c.val 0x094 fun v => satAdd 32 v 1).setCpg c.val 0x098
    (pack 32 [(16, bank), (8, d.loser.val), (0, d.winner.val)])
  let x := h.thr c d.thread
  let halted := x.state == .haltDbg || x.state == .haltStop
  if (d.loser = 1 ∨ d.loser = 2) ∧ (h.cpg c.val 0x040).getLsbD 6 = true ∧ h.coreRuns c.val = true ∧
      (x.state = .run ∧ x.wait.isHeld = false ∨ halted = true) then
    let here : W32 × BitVec 16 × Word :=
      (x.nest, pack 16 [(8, bank), (4, Nat.min d.delay 15), (0, d.winner.val)], d.laddr.setWidth 64)
    let first := (x.bankDue.filter fun b => b.1 == x.nest).getD here
    if h.midN c d.thread then h.updT c d.thread fun x => { x with bankDue := some first }
    else
      let h := if x.bankDue.isSome then h.updT c d.thread fun x => { x with bankDue := none } else h
      let h := (h.enter c d.thread ⟨7, first.2.1, some first.2.2⟩ x.pc).endStep c d.thread
      if halted then h.updT c d.thread fun y => { y with state := x.state } else h
  else h

/-! ### The meanings -/

/-- INTR_ENTRY (R108). Enter INTR at a boundary when enabled events are pending. -/
def execIntrEntry (c : CoreId) (t : Tid) (s : State) : Host.Outcome State Fault Refusal :=
  s.run fun h => h.intrEntry c t
/-- THREADF_ENTRY (R125). Thread 0 enters THREADF when bit 31 is pending and ie is set. -/
def execThreadfEntry (c : CoreId) (s : State) : Host.Outcome State Fault Refusal := s.run fun h => h.entryOf c 0 20
/-- STALL_ENTRY (R126). STALL_CNT reaches STALL_WINDOW and thread 0 enters STALL. -/
def execStallEntry (c : CoreId) (s : State) : Host.Outcome State Fault Refusal := s.run fun h => h.stallEntry c
/-- THREAD_WAKE (R95). A parked thread's condition holds and it issues again. -/
def execThreadWake (c : CoreId) (t : Tid) (s : State) : Host.Outcome State Fault Refusal :=
  s.run fun h => h.threadWake c t
/-- STOP_HALT (R102). A stopped thread enters HALT_STOP at its next boundary. -/
def execStopHalt (c : CoreId) (t : Tid) (s : State) : Host.Outcome State Fault Refusal :=
  s.run fun h => h.haltLands c t .haltStop
/-- HALT_REQ (R133). A DBG_CTL.halt_req write requests or cancels a debugger halt. -/
def execHaltReq (c : CoreId) (bits : BitVec 4) (s : State) : Host.Outcome State Fault Refusal :=
  s.run fun h => h.onCore c.val fun h => h.haltReq c bits
/-- DEBUG_HALT (R129). A requested halt lands at the thread's next boundary. -/
def execDebugHalt (c : CoreId) (t : Tid) (s : State) : Host.Outcome State Fault Refusal :=
  s.run fun h => h.haltLands c t .haltDbg
/-- STEP (R130). DBG_CTL.step runs one step of a halted thread. -/
def execStep (c : CoreId) (t : Tid) (s : State) : Host.Outcome State Fault Refusal := 
  s.run fun h => h.onCore c.val fun h => h.dbgStep c t
/-- DISCARD_CB (R133). DBG_CTL.discard_cb discards a halted thread's composition buffer. -/
def execDiscardCb (c : CoreId) (t : Tid) (s : State) : Host.Outcome State Fault Refusal :=
  s.run fun h => h.onCore c.val fun h => h.discardCb c t
/-- DELAYED_ACCESS_SERVED (R142). A bank-conflicted access is retried and served. -/
def execDelayedAccessServed (c : CoreId) (d : Delayed) (s : State) : Host.Outcome State Fault Refusal :=
  s.run fun h => h.delayed c d
/-- DMA_ENTRY (R327). The owner thread enters DMA after a channel error. -/
def execDmaEntry (c : CoreId) (t : Tid) (s : State) : Host.Outcome State Fault Refusal :=
  s.run fun h => h.entryOf c t 15

end Sys2Proof.Machine
end

