-- ==== Sys2Proof/Machine/Global.lean ====
section
/-! DEFINITION. What a core's requests into the mesh bring back: responses, acknowledgements and cache fills, and the
waiting instructions they let go on (spec 04 R146, R147, R149, R160; spec 14 R423, R426). -/

namespace Sys2Proof.Machine

/-- The waiting instruction of a thread in WAIT_REQ goes on (R95). -/
def Hw.resume (h : Hw) (c : CoreId) (t : Tid) (p : Pend) : Hw :=
  let h := h.updT c t fun x => { x with state := .run, wait := .none }
  let st := (h.thr c t).st
  let done (len : Nat) (r : IRes) : Hw :=
    match r with
    | .exc h' e => h.finish c t len (.exc (h'.countMiss c e) e)
    | r => h.finish c t len r
  match p with
  | .rep b =>
    if st.repActive then done 8 (Hw.repGo st.repMode b c t st.repLeft.toNat h) else done 4 (Hw.repBody b h c t)
  | .tile op f r cfg id => done 4 (Hw.tileResume op f r cfg id h c t)
  | .dc op f => done 4 (Hw.dcIns op f h c t)
  | .fence => done 4 (h.fenceGo c t)
  | .send f => done 4 (Hw.sendIns f h c t)
  | .sendf f _ _ => done 4 (Hw.sendfIns f h c t)

/-- What a thread in WAIT_REQ waits to do. -/
def Thread.pend (x : Thread) : Option Pend :=
  match x.state, x.wait with
  | .waitReq, .req p => some p
  | _, _ => none

/-- A send waits for a grant, everything else for memory. -/
def Pend.isSend : Pend → Bool
  | .send _ | .sendf _ _ _ => true
  | _ => false

/-- Every thread that waits for memory tries again: accesses in their issue order (R147), then the others in thread order. -/
def Hw.retryAll (h : Hw) (c : CoreId) : Hw :=
  let first := (h.core c.val).gwaits.map (·.thread)
  (first ++ tids.filter fun t => !first.contains t).foldl (fun h t =>
    match (h.thr c t).pend with
    | some p => if p.isSend then h else h.resume c t p
    | none => h) h

/-- The first answer with an identifier for a core, and the hardware without it; none while it is held on its way. -/
def Hw.takeRsp (h : Hw) (c : CoreId) (id : Nat) : Option (MRsp × Hw) :=
  let here (r : MRsp) : Bool := r.id == id && r.core == c && !h.rspHeld r
  (h.rsps.find? here).map fun r => (r, { h with rsps := h.rsps.eraseP here })

def Core.out (k : Core) (id : Nat) : Option OutReq := k.outs.find? fun o => o.id == id
def Hw.dropOut (h : Hw) (c : CoreId) (id : Nat) : Hw :=
  h.updC c.val fun k => { k with outs := k.outs.filter fun o => o.id != id }

/-- An answer that is no line: data of an uncached read, or an acknowledgement; an error waits for the thread's next
access of memory (R426 source 7). An answer that the core no longer expects is dropped. -/
def Hw.globalResponse (h : Hw) (c : CoreId) (id : Nat) : Hw :=
  match h.takeRsp c id with
  | none => h
  | some (r, h') =>
    match (h.core c.val).out id with
    | none => h'
    | some o =>
      if o.kind.isFill then h
      else
        let h := (h'.dropOut c id).updT c o.thread fun x =>
          { x with resp := if o.kind = .read then some (x.resp.getD [] ++ r.data) else x.resp
                   respErr := match r.err with | some e => some e | none => x.respErr }
        h.retryAll c

/-- The way a fill takes: an invalid one first, else any, which the command names (R146). -/
def Core.fillWay (k : Core) (pline : Nat) (way : Fin 4) : Fin 4 :=
  let used := (k.dcache.filter fun l => l.pline % 128 == pline % 128).map (·.way)
  if used.contains way then (([0, 1, 2, 3] : List (Fin 4)).find? fun w => !used.contains w).getD way else way

/-- A line fill lands, evicting a victim; a dirty one needs a free write-back slot (R146). -/
def Hw.dcFill (h : Hw) (c : CoreId) (id : Nat) (way : Fin 4) : Hw :=
  match h.takeRsp c id with
  | none => h
  | some (r, h') =>
    let k := h.core c.val
    match k.out id with
    | none => h'
    | some o =>
      match o.kind with
      | .fill pl =>
        match r.err with
        | some e => ((h'.dropOut c id).updT c o.thread fun x => { x with respErr := some e }).retryAll c
        | none =>
          let w := k.fillWay pl way
          let victim := k.dcache.find? fun l => decide (l.pline % 128 = pl % 128) && l.way == w
          let put (h : Hw) : Hw :=
            let (kind, h) := (h.dropOut c id).inject (dieOf c.val) (siteIx c.val) 2
            let l : DLine := { pline := pl, way := w, bytes := sub r.data 0 128, dirty := 0,
                               bad := match kind with | some n => BitVec.ofNat 2 n | none => 0 }
            (h.updC c.val fun k => k.dcPut l).retryAll c
          match victim with
          | some l =>
            if l.dirty = 0 then put h'
            else if 8 ≤ k.wbacks then h
            else put (h'.writeBack c o.thread l (decide (2 ≤ l.bad.toNat)))
          | none => put h'
      | _ => h

/-- A tile row's uncached data arrives: the answer of a read for which a tile transfer waits (R160). -/
def Hw.tileRowDone (h : Hw) (c : CoreId) (id : Nat) : Hw :=
  match (h.core c.val).out id with
  | some o =>
    match (h.thr c o.thread).pend with
    | some (.tile _ _ _ _ _) => h.globalResponse c id
    | _ => h
  | none => h

/-- A lost request ends with a timeout error, 1 ms after its issue (R423). -/
def Hw.requestTimeout (h : Hw) (id : Nat) : Hw :=
  let pending := h.reqs.any (fun r => r.id == id) || h.rsps.any (fun r => r.id == id) ||
    h.mems.any fun m => m.2.combines.any fun w => (w.joined ++ w.held ++ w.queued).any fun r => r.id == id
  match h.cores.find? fun p => (p.2.out id).isSome with
  | none => h
  | some (n, k) =>
    if hn : n < 5120 then
      if pending then h
      else
        let c : CoreId := ⟨n, hn⟩
        match k.out id with
        | some o => ((h.dropOut c id).updT c o.thread fun x => { x with respErr := some 5 }).retryAll c
        | none => h
    else h

/-! ### The meanings -/

/-- GLOBAL_RESPONSE (R147). A memory response or acknowledgement reaches the core. -/
def execGlobalResponse (c : CoreId) (id : Nat) (s : State) : Host.Outcome State Fault Refusal :=
  s.run fun h => h.globalResponse c id
/-- DATA_CACHE_FILL (R146). A line fill lands in the data cache, evicting a victim. -/
def execDataCacheFill (c : CoreId) (id : Nat) (way : Fin 4) (s : State) : Host.Outcome State Fault Refusal :=
  s.run fun h => h.dcFill c id way
/-- TILE_ROW_DONE (R160). A global tile row's data arrives and the transfer continues. -/
def execTileRowDone (c : CoreId) (id : Nat) (s : State) : Host.Outcome State Fault Refusal :=
  s.run fun h => h.tileRowDone c id
/-- REQUEST_TIMEOUT (R423). A lost request ends 1 ms after issue with a timeout error. -/
def execRequestTimeout (id : Nat) (s : State) : Host.Outcome State Fault Refusal := s.run fun h => h.requestTimeout id

end Sys2Proof.Machine
end

