-- ==== Sys2Proof/Machine/Gmem.lean ====
section
/-! DEFINITION. Memory at its home: GDDR7 with the memory-side cache, the CXL tier, the poison list and retraining
(spec 07 R221–R239; spec 14 R423, R425, R430). -/

namespace Sys2Proof.Machine

/-! ### Homes (R223) -/

def Hw.home (h : Hw) (line : Nat) : Nat := (homeOf h.variant (128 * line)).1
/-- The channel of a line. -/
def Hw.chanOf (h : Hw) (line : Nat) : Nat :=
  let ln := (homeOf h.variant (128 * line)).2 / 128
  (ln ^^^ ln / 8 ^^^ ln / 64) % 8
/-- The set of a line (R229). -/
def Hw.setOf (h : Hw) (line : Nat) : Nat := (homeOf h.variant (128 * line)).2 / 128 % 32768

def MemDie.chan (x : MemDie) (ch : Nat) : ChanSt := lookD x.chans ch .ready
def Hw.lineDead (h : Hw) (line : Nat) : Bool := (h.mem (h.home line)).chan (h.chanOf line) == .dead

/-- Pages of memory-side die `m`. -/
def gddrPg (h : Hw) (m o : Nat) : W32 := h.pg (20 + m) 0x010 o
def Hw.bump (h : Hw) (d b o : Nat) : Hw := h.updPg d b o fun v => v + 1
def Hw.bumpSat (h : Hw) (d b o : Nat) : Hw := h.updPg d b o fun v => satAdd 32 v 1

/-- An UNCORRECTABLE entry of the record for a consumer that is no thread (R441). -/
def Hw.pfUnc (h : Hw) (d b kind a : Nat) : Hw :=
  h.pf 0x10 d b (pack 32 [(12, 15), (8, kind)]) (BitVec.ofNat 32 a)

/-! ### The memory-side cache -/

def MemDie.find (x : MemDie) (line : Nat) : Option MLine := x.lines.find? fun l => l.line == line
def MemDie.drop (x : MemDie) (line : Nat) : MemDie := { x with lines := x.lines.filter fun l => l.line != line }

/-- Bytes of a line in the devices. -/
def Hw.gddrLine (h : Hw) (line : Nat) : List Byte := h.padN (128 * line) (h.gddr.readN (128 * line) 128)
def Hw.setLine (h : Hw) (line : Nat) (bs : List Byte) : Hw := { h with gddr := h.gddr.writeN (128 * line) (h.padN (128 * line) bs) }

/-- A dirty line is written to its device (R232); an armed link error costs a retry (R432). -/
def Hw.toGddr (h : Hw) (l : MLine) : Hw :=
  let m := h.home l.line
  let h := (h.setLine l.line l.bytes).bump (20 + m) 0x011 0x050
  match h.inject (20 + m) 0x010 1 with
  | (some _, h) => h.bumpSat (20 + m) 0x010 0x05C
  | (none, h) => h

/-- A line joins the poison list, or is lost to it (R425). -/
def Hw.addPoison (h : Hw) (line : Nat) : Hw :=
  let m := h.home line
  let x := h.mem m
  if x.poison.contains line then h
  else if x.poison.length < 256 then h.updMem m fun x => { x with poison := x.poison ++ [line] }
  else
    -- the line is not listed: what its reads return is free from now on
    let n0 := h.free
    let bs := ((List.range 16).map fun i => leBytes 8 (Config.free (n0 + i)).toNat).flatten
    let h := (({ h with free := n0 + 16 } : Hw).setLine line bs).updMem m fun x =>
      { x with lines := x.lines.map fun (l : MLine) => if l.line = line then { l with bytes := bs } else l }
    (h.errCount (20 + m) 0x011 2).pf 0x13 (20 + m) 0x011 0 (BitVec.ofNat 32 (128 * line))

/-- A line put in a way: an invalid one first, else way `w`, whose dirty line is written back (R229). -/
def Hw.mscPut (h : Hw) (l : MLine) (w : Fin 16) : Hw :=
  let m := h.home l.line
  let h := h.updMem m fun x => x.drop l.line
  let x := h.mem m
  let inSet := x.lines.filter fun k => h.setOf k.line == h.setOf l.line
  let used := inSet.map (·.way)
  let w := if used.contains w then ((List.finRange 16).find? fun v => !used.contains v).getD w else w
  let h := match inSet.find? fun k => k.way == w with
    | some v => (if v.dirty then h.toGddr v else h).updMem m fun x => x.drop v.line
    | none => h
  h.updMem m fun x => { x with lines := { l with way := w } :: x.lines }

/-- What is read of a line, none of a device that is DEAD (R227): its bytes, or an error of R426's kinds, with the hardware after scrubbing. `w` is the way a
line that must be allocated takes. -/
def Hw.mscRead (h : Hw) (line : Nat) (alloc : Bool) (w : Fin 16) : Hw × Except Nat (List Byte) :=
  let m := h.home line
  let d := 20 + m
  let fetch (h : Hw) : Hw × Except Nat (List Byte) :=
    match h.inject d 0x010 2 with
    | (some _, h) => (h, .error 4)
    | (none, h) =>
      let bs := h.gddrLine line
      (if alloc then h.mscPut { line := line, way := w, bytes := bs, dirty := false } w else h, .ok bs)
  if h.lineDead line then (h, .error 4)
  else if (h.mem m).poison.contains line then ((h.bump d 0x011 0x048).errCount d 0x011 3, .error 3)
  else match (h.mem m).find line with
    | none => fetch (h.bump d 0x011 0x04C)
    | some l =>
      let h := h.bump d 0x011 0x048
      if l.bad = 0 then (h, .ok l.bytes)
      else if l.bad = 1 then
        ((h.updMem m fun x => { x with lines := x.lines.map fun k => if k.line = line then { k with bad := 0 } else k }).corrected
          d 0x011, .ok l.bytes)
      else if l.dirty then
        (((h.updMem m fun x => x.drop line).errCount d 0x011 2).addPoison line, .error 4)
      else fetch ((h.updMem m fun x => x.drop line).corrected d 0x011)

/-- Bytes by address merged into a line. -/
def mergeLine (line : Nat) (old : List Byte) (data : List (Nat × Byte)) : List Byte :=
  data.foldl (fun bs p => if p.1 / 128 = line then bs.set (p.1 % 128) p.2 else bs) old

/-- A write of bytes of one line is performed in the memory-side cache (R229–R231, R425); answers an error if the line's
device is DEAD or a fill fails. -/
def Hw.mscWrite (h : Hw) (line : Nat) (data : List (Nat × Byte)) (poison : Bool) (w : Fin 16) : Hw × Option Nat :=
  let m := h.home line
  let d := 20 + m
  let whole := decide (data.length = 128)
  if h.lineDead line then (h, some 4)
  else
    let old : Hw × Except Nat (List Byte) :=
      if whole then
        (h.bump d 0x011 (if ((h.mem m).find line).isSome then 0x048 else 0x04C), .ok (List.replicate 128 0))
      else if (h.mem m).poison.contains line then
        (h.bump d 0x011 0x048, .ok (match (h.mem m).find line with | some l => l.bytes | none => h.gddrLine line))
      else h.mscRead line true w
    match old with
    | (h, .error e) =>
      -- a dirty line that failed has joined the poison list; the partial write leaves it listed
      (h, some e)
    | (h, .ok bs) =>
      let (kind, h) := h.inject d 0x011 1
      let way := match (h.mem m).find line with | some l => l.way | none => w
      let l : MLine := { line := line, way := way, bytes := mergeLine line bs data, dirty := true,
                         bad := match kind with | some n => BitVec.ofNat 2 n | none => 0 }
      let h := h.mscPut l way
      let h := if whole ∧ poison = false then
        h.updMem m fun x => { x with poison := x.poison.filter fun p => p != line } else h
      (if poison then (h.errCount d 0x011 3).addPoison line else h, none)

/-! ### The CXL tier (R237–R239) -/

def Hw.cxlPort (h : Hw) (p : Nat) : CxlPort := lookD h.cxlPorts p {}
def cxlUnit : Nat := 0x10000000

/-- Port and device offset of a contiguous tier offset. -/
def Hw.cxlSeq (h : Hw) (o : Nat) : List Nat → Option (Nat × Nat)
  | [] => none
  | p :: ps =>
    let s := if (h.cxlPort p).mapped then (h.cxlPort p).size * cxlUnit else 0
    if o < s then some (p, o) else h.cxlSeq (o - s) ps

/-- Port and device offset of a tier offset (R238). -/
def Hw.cxlLoc (h : Hw) (o : Nat) : Option (Nat × Nat) :=
  if cxlBase + o < h.cxlTop then
    if (h.pg 38 0x010 0x044).getLsbD 8 then some (o / 4096 % 4, o / 16384 * 4096 + o % 4096) else h.cxlSeq o [0, 1, 2, 3]
  else none

/-- The key of a device's line in `cxlMem`. -/
def cxlKey (p : Nat × Nat) : Nat := p.1 * 2 ^ 44 + p.2

/-- Accesses to a port that is down, DEAD or out of service, and all accesses after a removed capacity, end with an error
(R239, R402). -/
def Hw.cxlRefuses (h : Hw) (p : Nat) : Bool :=
  !(h.cxlPort p).up || (h.cxlPort p).dead || decide (2 ≤ h.svc 38 (0x020 + p)) || (h.pg 38 0x010 0x044).getLsbD 9

/-- A read of a tier line (R239). -/
def Hw.cxlRead (h : Hw) (line : Nat) : Hw × Except Nat (List Byte) :=
  match h.cxlLoc (128 * line - cxlBase) with
  | none => (h, .error 4)
  | some p =>
    if h.cxlRefuses p.1 then (h, .error 4)
    else match h.inject 38 (0x020 + p.1) 1 with
      | (some _, h) => ((h.bumpSat 38 (0x020 + p.1) 0x048).errCount 38 (0x020 + p.1) 3, .error 4)
      | (none, h) =>
        if h.cxlPoison.contains (cxlKey p) then
          ((h.bumpSat 38 (0x020 + p.1) 0x048).errCount 38 (0x020 + p.1) 3, .error 4)
        else (h, .ok (h.padN (128 * line) (h.cxlMem.readN (cxlKey p) 128)))

/-- A write of a tier line: a whole line, or read, merged and written (R239). -/
def Hw.cxlWrite (h : Hw) (line : Nat) (data : List (Nat × Byte)) (poison : Bool) : Hw × Option Nat :=
  let put (h : Hw) (bs : List Byte) : Hw × Option Nat :=
    match h.cxlLoc (128 * line - cxlBase) with
    | none => (h, some 4)
    | some p =>
      if h.cxlRefuses p.1 then (h, some 4)
      else
        let key := cxlKey p
        let rest := h.cxlPoison.filter fun k => k != key
        ({ h with cxlMem := h.cxlMem.writeN key (h.padN (128 * line) (mergeLine line bs data))
                  cxlPoison := if poison then key :: rest else rest }, none)
  if data.length = 128 then put h (List.replicate 128 0)
  else match h.cxlRead line with
    | (h, .error e) => (h, some e)
    | (h, .ok bs) => put h bs

/-! ### Ways and populated addresses -/

/-- A free way for a line that must be allocated; the access is numbered as a request is. -/
def Hw.anyWay (h : Hw) : Fin 16 × Hw :=
  let (n, h) := h.choose 16
  (⟨n % 16, Nat.mod_lt _ (by decide)⟩, { h with nextId := h.nextId + 1 })

/-- A global address that memory populates (R153). -/
def Hw.populated (h : Hw) (a n : Nat) : Bool :=
  decide (a + n ≤ h.gddrTop) || (decide (cxlBase ≤ a) && decide (a + n ≤ h.cxlTop))

/-! ### Requests of cores at their home die (R228, R231, R233) -/

/-- The answer of a request travels to its core, past the injections armed on its way (R432). -/
def Hw.answer (h : Hw) (r : MReq) (data : List Byte) (err : Option Nat) : Hw :=
  match h.injectHops 1 none (!data.isEmpty) false (h.rspRoute r.core.val r.addr) with
  | (h, none) => h
  | (h, some poisoned) =>
    { h with rsps := h.rsps ++ [{ id := r.id, core := r.core, addr := r.addr, data := data
                                  err := if poisoned then some 3 else err.map (BitVec.ofNat 4) }] }

def Hw.dropReq (h : Hw) (id : Nat) : Hw := { h with reqs := h.reqs.filter fun r => r.id != id }

/-- An earlier request of the same core to the same line, or of the same thread when both are uncached accesses, is
still on its way (R147, R231). -/
def Hw.blocked (h : Hw) (r : MReq) : Bool :=
  h.reqs.any fun q => q.core == r.core && decide (q.id < r.id) &&
    (q.addr / 128 == r.addr / 128 || (q.thread == r.thread && q.unc && r.unc))

/-- Data of a request out of its line. -/
def lineSlice (r : MReq) (bs : List Byte) : List Byte := sub bs (r.addr % 128) r.len

/-- A read is answered from the line, or with the error met. -/
def Hw.serveRead (h : Hw) (r : MReq) (w : Fin 16) : Hw :=
  match h.mscRead (r.addr / 128) true w with
  | (h, .ok bs) => h.answer r (lineSlice r bs) none
  | (h, .error e) => h.answer r [] (some e)

def Hw.serveWrite (h : Hw) (r : MReq) (w : Fin 16) : Hw :=
  let (h, e) := h.mscWrite (r.addr / 128) r.data r.poison w
  h.answer r [] e

/-- Whether a read of a line misses: neither cached nor listed as poisoned. -/
def Hw.misses (h : Hw) (line : Nat) : Bool :=
  let x := h.mem (h.home line)
  !(x.poison.contains line) && match x.find line with | some l => decide (2 ≤ l.bad.toNat) && !l.dirty | none => true

def MemDie.combine (x : MemDie) (line : Nat) : Option Combine := x.combines.find? fun c => c.line == line
def MemDie.setCombine (x : MemDie) (c : Combine) : MemDie :=
  { x with combines := x.combines.map fun d => if d.line = c.line then c else d }

/-- A channel that neither tracks nor retrains (R228). -/
def Hw.chanReady (h : Hw) (line : Nat) : Bool :=
  match (h.mem (h.home line)).chan (h.chanOf line) with | .ready | .dead => true | _ => false

/-- A GDDR7 read reaches its home die: it hits, joins a window or a fill, queues behind a held write, or opens a window
(R233). A window of 0 issues at once. -/
def Hw.readAtHome (h : Hw) (r : MReq) : Hw :=
  let line := r.addr / 128
  let m := h.home line
  let h := h.dropReq r.id
  match (h.mem m).combine line with
  | some c =>
    if c.held = [] then
      (h.updMem m fun x => x.setCombine { c with joined := c.joined ++ [r] }).bumpSat (20 + m) 0x010 0x050
    else h.updMem m fun x => x.setCombine { c with queued := c.queued ++ [r] }
  | none =>
    if !h.misses line then let (w, h) := h.anyWay; h.serveRead r w
    else
      let issued := decide (fld (gddrPg h m 0x048) 8 0 = 0)
      h.updMem m fun x => { x with combines := x.combines ++ [{ line := line, issued := issued, joined := [r] }] }

/-- Writes held for the lines of one channel of a die, for MEM_WQ_PEAK and R228's limit. -/
def Hw.heldWrites (h : Hw) (m ch : Nat) : Nat :=
  ((h.mem m).combines.map fun c => if h.chanOf c.line = ch then c.held.length else 0).sum

/-- A write is held behind the pending reads of its line, or behind its channel's pause (R228, R233). -/
def Hw.holdWrite (h : Hw) (r : MReq) : Hw :=
  let line := r.addr / 128
  let m := h.home line
  let h := h.dropReq r.id
  let h := match (h.mem m).combine line with
    | some c => h.updMem m fun x => x.setCombine { c with issued := true, held := c.held ++ [r] }
    | none => h.updMem m fun x =>
        { x with combines := x.combines ++ [({ line := line, issued := true, joined := [], held := [r] } : Combine)] }
  let n := h.heldWrites m (h.chanOf line)
  h.updPg (20 + m) 0x010 0x060 fun v => BitVec.ofNat 32 (Nat.max (fld v 8 0) n)

/-- A GDDR7 write reaches its home die (R228, R231, R233): none while its channel's queue is full. -/
def Hw.writeAtHome (h : Hw) (r : MReq) (w : Fin 16) : Hw :=
  let line := r.addr / 128
  let m := h.home line
  if ((h.mem m).combine line).isSome || !h.chanReady line then
    if h.chanReady line = false ∧ 256 ≤ h.heldWrites m (h.chanOf line) then h else h.holdWrite r
  else (h.dropReq r.id).serveWrite r w

/-- The window of a line closes and its read issues (R233). -/
def Hw.windowClose (h : Hw) (m : Fin 16) (line : Nat) : Hw :=
  match (h.mem m.val).combine line with
  | some c => h.updMem m.val fun x => x.setCombine { c with issued := true }
  | none => h

/-- A fill lands: the joined reads are served, then the held writes and the queued reads in order (R233). -/
def Hw.fillLands (h : Hw) (m : Fin 16) (line : Nat) (w : Fin 16) : Hw :=
  match (h.mem m.val).combine line with
  | none => h
  | some c =>
    if !c.issued || !h.chanReady line then h
    else
      let h := h.updMem m.val fun x => { x with combines := x.combines.filter fun d => d.line != line }
      let h := match c.joined with
        | [] => h
        | _ =>
          let (h, e) := h.mscRead line true w
          c.joined.foldl (fun h r => match e with
            | .ok bs => h.answer r (lineSlice r bs) none
            | .error k => h.answer r [] (some k)) h
      let h := c.held.foldl (fun h r => h.serveWrite r w) h
      c.queued.foldl (fun h r => h.serveRead r w) h

/-- Link replays that an access of a line meets are counted at its port (R260). -/
def Hw.cxlReplays (h : Hw) (line n : Nat) : Hw :=
  match h.cxlLoc (128 * line - cxlBase) with
  | some p => if h.cxlRefuses p.1 then h else h.updPg 38 (0x020 + p.1) 0x044 fun v => satAdd 32 v n
  | none => h

/-- A request of the CXL tier at X0, with the link replays that it meets (R239, R260). -/
def Hw.cxlServe (h : Hw) (id replays : Nat) : Hw :=
  match h.reqs.find? fun r => r.id == id with
  | none => h
  | some r =>
    if r.addr < cxlBase ∨ regBase ≤ r.addr ∨ h.blocked r ∨ h.reqHeld r ∨ h.awake 38 = false then h
    else
      let h := (h.dropReq id).cxlReplays (r.addr / 128) replays
      if r.write then let (h, e) := h.cxlWrite (r.addr / 128) r.data r.poison; h.answer r [] e
      else match h.cxlRead (r.addr / 128) with
        | (h, .ok bs) => h.answer r (lineSlice r bs) none
        | (h, .error e) => h.answer r [] (some e)

/-! ### Retraining (R227, R228) -/

/-- The held writes and waiting reads of a channel that is ready again proceed (R228): those that wait behind no fill. -/
def Hw.chanResumes (h : Hw) (m : Fin 16) (ch : Nat) : Hw :=
  ((h.mem m.val).combines.filter fun c => c.joined.isEmpty && h.chanOf c.line == ch).foldl
    (fun h c => let (w, h) := h.anyWay; h.fillLands m c.line w) h

def Hw.setChan (h : Hw) (m : Fin 16) (ch : Nat) (s : ChanSt) : Hw :=
  h.updMem m.val fun x => { x with chans := put x.chans ch s }

/-- A channel of the die tracks or retrains: one at a time. -/
def MemDie.paused (x : MemDie) : Bool := (List.range 8).any fun c => match x.chan c with | .tracking | .retrain => true | _ => false

/-- The next channel in the order of tracking that is not DEAD. -/
def MemDie.toTrack (x : MemDie) : Option Nat :=
  ((List.range 8).map fun i => (x.nextTrack + i) % 8).find? fun c => x.chan c != .dead

/-- A channel pauses for tracking, in channel order. -/
def Hw.tracking (h : Hw) (m : Fin 16) (ch : Fin 8) : Hw :=
  let x := h.mem m.val
  if fld (gddrPg h m.val 0x040) 15 8 = 0 || x.paused || x.toTrack != some ch.val || x.selfRefresh || h.fusedDie (20 + m.val) then h
  else ((h.updMem m.val fun x => { x with nextTrack := (ch.val + 1) % 8 }).setChan m ch.val .tracking).bumpSat (20 + m.val) 0x010 0x054

/-- The next requested full retrain starts, one channel of a die at a time. -/
def Hw.startRetrain (h : Hw) (m : Fin 16) : Hw :=
  let x := h.mem m.val
  if x.paused then h
  else match (List.range 8).find? fun c => (gddrPg h m.val 0x040).getLsbD c && x.chan c != .dead with
    | some c => (h.setChan m c .retrain).bumpSat (20 + m.val) 0x010 0x058
    | none => h

/-- The pause ends; a full retrain that was requested in it follows. -/
def Hw.trackingEnd (h : Hw) (m : Fin 16) (ch : Fin 8) : Hw :=
  if (h.mem m.val).chan ch.val = .tracking then ((h.setChan m ch.val .ready).chanResumes m ch.val).startRetrain m else h

/-- MEM_CTL.retrain_req; a FUSED die has none (R36). -/
def Hw.retrainReq (h : Hw) (m : Fin 16) (mask : BitVec 8) : Hw :=
  if h.fusedDie (20 + m.val) then h else (h.updPg (20 + m.val) 0x010 0x040 fun v => v ||| mask.setWidth 32).startRetrain m

/-- More than 64 CRC retries of a channel within 1 ms (R227). -/
def Hw.crcThreshold (h : Hw) (m : Fin 16) (ch : Fin 8) : Hw :=
  if h.fusedDie (20 + m.val) then h
  else (h.updPg (20 + m.val) 0x010 0x05C fun v => satAdd 32 v 65).retrainReq m (BitVec.ofNat 8 (2 ^ ch.val))

/-- MSC_CTL.flush (R232). -/
def Hw.mscFlush (h : Hw) (m : Nat) : Hw :=
  let h := ((h.mem m).lines.filter (·.dirty)).foldl (fun h l => h.toGddr l) h
  h.updMem m fun x => { x with lines := x.lines.map fun l => { l with dirty := false } }

/-! ### Accesses of engines, channels and windows (R228, R230–R233) -/

/-- The code of an access that waits; no error of R426 has it. -/
def memWait : Nat := 0x100

/-- The unit of a mesh identifier and port cannot reach an address now (R29, R410). -/
def Hw.unitHeld (h : Hw) (u : Nat × Nat) (a : Nat) : Bool :=
  let e := meshEntry u.1 u.2
  let x := meshPoint u.1 u.2
  let q := h.memPoint a
  h.routeHeld (entryLink u.1 e) (routeOf 160 e (q.1, q.2.1) q.2.2) ||
    h.routeHeld (hopLink q) (routeOf 160 (q.1, q.2.1) (x.1, x.2.1) x.2.2)

/-- A unit's access of a line waits: the way or the home die is not open, or its channel is paused and it is no hit (R228). -/
def Hw.lineWaits (h : Hw) (u : Nat × Nat) (line : Nat) (write : Bool) : Bool :=
  let x := h.mem (h.home line)
  h.unitHeld u (128 * line) ||
    (if 128 * line < cxlBase then
      !h.awake (20 + h.home line) ||
        !h.chanReady line && (write || h.misses line || (x.combine line).isSome)
    else !h.awake 38)

/-- A unit's access of a line meets the window or the fill of cores' reads: a read joins it, a write closes the window and is
held, so that the fill lands and the writes held before are performed first (R231, R233; log 93). -/
def Hw.settle (h : Hw) (line : Nat) (write : Bool) (w : Fin 16) : Hw :=
  let m : Fin 16 := ⟨h.home line % 16, Nat.mod_lt _ (by decide)⟩
  match (h.mem m.val).combine line with
  | none => h
  | some c =>
    let h := if !write && c.held.isEmpty then h.bumpSat (20 + m.val) 0x010 0x050 else h
    (h.windowClose m line).fillLands m line w

/-- Reads of `n` bytes from a global address by line, with the first error met. -/
def Hw.memReadGo (h : Hw) (u : Nat × Nat) (alloc : Bool) : Nat → Nat → Nat → List Byte → Hw × Except Nat (List Byte)
  | 0, _, _, acc => (h, .ok acc)
  | fuel + 1, a, n, acc =>
    if n = 0 then (h, .ok acc)
    else if h.lineWaits u (a / 128) false then (h, .error memWait)
    else
      let k := Nat.min n (128 - a % 128)
      let (w, h) := h.anyWay
      match (if a < cxlBase then (h.settle (a / 128) false w).mscRead (a / 128) alloc w else h.cxlRead (a / 128)) with
      | (h, .error e) => (h, .error e)
      | (h, .ok bs) => h.memReadGo u alloc fuel (a + k) (n - k) (acc ++ sub bs (a % 128) k)

def Hw.memRead (h : Hw) (u : Nat × Nat) (alloc : Bool) (a n : Nat) : Hw × Except Nat (List Byte) :=
  h.memReadGo u alloc (n / 128 + 2) a n []

/-- Writes of bytes to a global address by line, with the first error met. -/
def Hw.memWriteGo (h : Hw) (u : Nat × Nat) : Nat → Nat → List Byte → Hw × Option Nat
  | 0, _, _ => (h, none)
  | fuel + 1, a, bs =>
    if bs = [] then (h, none)
    else if h.lineWaits u (a / 128) true then (h, some memWait)
    else
      let k := Nat.min bs.length (128 - a % 128)
      let (w, h) := h.anyWay
      let data := (bs.take k).zipIdx.map fun p => (a + p.2, p.1)
      match (if a < cxlBase then (h.settle (a / 128) true w).mscWrite (a / 128) data false w else h.cxlWrite (a / 128) data false) with
      | (h, some e) => (h, some e)
      | (h, none) => h.memWriteGo u fuel (a + k) (bs.drop k)

def Hw.memWrite (h : Hw) (u : Nat × Nat) (a : Nat) (bs : List Byte) : Hw × Option Nat := h.memWriteGo u (bs.length / 128 + 2) a bs

/-! ### The meanings -/

/-- COMBINE_WINDOW_CLOSE (R233). The combining window expires and the GDDR7 read issues. -/
def execCombineWindowClose (m : Fin 16) (line : Nat) (s : State) : Host.Outcome State Fault Refusal :=
  s.run fun h => h.windowClose m line
/-- GDDR_FILL_LANDING (R233). A fill lands, serving joined reads and releasing held writes. -/
def execGddrFillLanding (m : Fin 16) (line : Nat) (way : Fin 16) (s : State) : Host.Outcome State Fault Refusal :=
  s.run fun h => h.fillLands m line way
/-- GDDR_TRACKING (R227). A channel's tracking interval expires and it pauses for tracking. -/
def execGddrTracking (m : Fin 16) (ch : Fin 8) (s : State) : Host.Outcome State Fault Refusal :=
  s.run fun h => h.tracking m ch
/-- TRACKING_PAUSE_END (R227). A channel's tracking pause of at most 500 ns ends and its held writes and waiting
reads proceed. -/
def execTrackingPauseEnd (m : Fin 16) (ch : Fin 8) (s : State) : Host.Outcome State Fault Refusal :=
  s.run fun h => h.trackingEnd m ch
/-- RETRAIN_REQ (R227). MEM_CTL.retrain_req starts a full retrain of a channel. -/
def execRetrainReq (m : Fin 16) (mask : BitVec 8) (s : State) : Host.Outcome State Fault Refusal :=
  s.run fun h => h.retrainReq m mask
/-- CRC_RETRY_THRESHOLD (R227). A channel exceeds 64 CRC retries in 1 ms and retrains. -/
def execCrcRetryThreshold (m : Fin 16) (ch : Fin 8) (s : State) : Host.Outcome State Fault Refusal :=
  s.run fun h => h.crcThreshold m ch
/-- MSC_FLUSH (R232). Write back every dirty memory-side cache line. -/
def execMscFlush (m : Fin 16) (s : State) : Host.Outcome State Fault Refusal := s.run fun h => h.mscFlush m.val
/-- CXL_ACCESS (R239). X0 serves a CXL tier access as 64-byte requests. -/
def execCxlAccess (a : CxlServed) (s : State) : Host.Outcome State Fault Refusal := s.run fun h => h.cxlServe a.id a.replays

end Sys2Proof.Machine
end

