-- ==== Sys2Proof/Machine/Move.lean ====
section
/-! DEFINITION. DMA channels, the addresses they name and MOVE (spec 10 R314–R320, R326, R330). Between two commands no data is
in flight inside an engine or hub: each MOVE is one command. -/

namespace Sys2Proof.Machine

/-! ### Channels and their registers (R332, R333) -/

def Hw.updChan (h : Hw) (key : Nat) (f : Chan → Chan) : Hw := { h with chans := put h.chans key (f (h.chan key)) }

/-- The key of a hub channel, above those of the core slots. -/
def hubKey (d n : Nat) : Nat := 0x100000 + d * 32 + n

/-- A kill drops a channel that is READY, RUN or WAIT, and leaves any other as it is (R330). -/
def Chan.kill (x : Chan) : Chan :=
  match x.state with
  | .ready | .run | .wait => { x with state := .killing, wait := .none }
  | _ => x

/-- Keys of channels. -/
def chanKey : ChanId → Nat
  | .core c n => slotKey c.val n.val
  | .hub d n => hubKey d.val n.val

def chanDie : ChanId → Nat
  | .core c _ => dieOf c.val
  | .hub d _ => d.val
def chanBlk : ChanId → Nat
  | .core c _ => siteIx c.val
  | .hub _ _ => 0x101
def chanNo : ChanId → Nat
  | .core _ n => n.val
  | .hub _ n => n.val
def chHub : ChanId → Bool
  | .hub _ _ => true
  | _ => false

/-- A channel's own page register at offset `o` of its group. -/
def Hw.chReg (h : Hw) (ch : ChanId) (o : Nat) : W32 := h.pg (chanDie ch) (chanBlk ch) (0x200 + 32 * chanNo ch + o)
def Hw.chCtl (h : Hw) (ch : ChanId) : W32 := h.chReg ch 0
/-- DMA_CHn_EV and DMA_HCHn_EV of channel `n` of the same engine or hub. -/
def evOff (ch : ChanId) (n : Nat) : Nat := 0x200 + 32 * n + (if (chHub ch) then 0x18 else 0x14)
def Hw.chEv (h : Hw) (ch : ChanId) (n : Nat) : W32 := h.pg (chanDie ch) (chanBlk ch) (evOff ch n)
def Hw.setChEv (h : Hw) (ch : ChanId) (n : Nat) (v : W32) : Hw := h.setPg (chanDie ch) (chanBlk ch) (evOff ch n) v
/-- Counter `j` of an engine or hub. -/
def cntOff (ch : ChanId) (j : Nat) : Nat := (if (chHub ch) then 0x080 else 0x1C0) + 4 * j
def Hw.chCnt (h : Hw) (ch : ChanId) (j : Nat) : W32 := h.pg (chanDie ch) (chanBlk ch) (cntOff ch j)
def counters (ch : ChanId) : Nat := if (chHub ch) then 16 else 8
def Hw.ch (h : Hw) (ch : ChanId) : Chan := h.chan (chanKey ch)
def Hw.updCh (h : Hw) (ch : ChanId) (f : Chan → Chan) : Hw := h.updChan (chanKey ch) f
/-- The other channels of the same engine or hub. -/
def chSib : ChanId → Nat → ChanId
  | .core c _, n => .core c ⟨n % 4, Nat.mod_lt _ (by decide)⟩
  | .hub d _, n => .hub d ⟨n % 32, Nat.mod_lt _ (by decide)⟩
def chCount : ChanId → Nat
  | .core _ _ => 4
  | .hub _ _ => 32

/-! ### Addresses (R315, R326) -/

/-- Reasons of R327. -/
def badProg : Nat := 1
def badAlign : Nat := 2
def badAddr : Nat := 3
def memErr : Nat := 6

/-- Where an address field points: a core's local memory, or the global space. -/
inductive DLoc where
  | loc (c : Nat) (a : Int)
  | glob (a : Int)
  deriving DecidableEq, Repr

def DLoc.shift (d : Int) : DLoc → DLoc
  | .loc c a => .loc c (a + d)
  | .glob a => .glob (a + d)
def DLoc.addr : DLoc → Int
  | .loc _ a => a
  | .glob a => a

/-- Whether a channel may name a core's local memory. -/
def Hw.dmaCore (h : Hw) (ch : ChanId) (c : Nat) : Bool :=
  isSite c && !h.goneSite c && match ch with
    | .core o _ => o.val == c
    | .hub d _ => decide (d.val < 20) && dieOf c == d.val

/-- An address field (R315). -/
def Hw.dmaLoc (h : Hw) (ch : ChanId) (isLocal : Bool) (v : BitVec 64) : Except Nat DLoc :=
  if isLocal then
    if fld v 47 21 = 0 ∧ h.dmaCore ch (fld v 63 48) = true then .ok (.loc (fld v 63 48) (fld v 20 0)) else .error badAddr
  else if fld v 63 48 = 0 then .ok (.glob (fld v 47 0)) else .error badAddr

/-- Local bytes read by a consumer that is no thread: an uncorrectable word is an error, counted and recorded. -/
def Hw.locRead (h : Hw) (c a n : Nat) : Hw × Except Nat (List Byte) :=
  let e := (h.core c).lmErr a n
  if 2 ≤ e then
    ((h.errCount (dieOf c) (siteIx c) (if e = 3 then 3 else 2)).pfUnc (dieOf c) (siteIx c) (lmKind e) a, .error memErr)
  else (h.lmScrub c a n, .ok ((h.core c).lmem.readN a n))

/-- The physical address of a global access of a channel: a user channel's is translated (R326). -/
def Hw.dmaXlate (h : Hw) (ch : ChanId) (u : Use) (a : Nat) : Except Nat Nat :=
  match ch, (h.ch ch).priv with
  | .core c _, false => match h.xlate c false u a with | .ok (p, _) => .ok p | .error _ => .error 5
  | _, _ => .ok a

/-- A channel's engine on the mesh. -/
def chUnit (ch : ChanId) : Nat × Nat := ((srcOf (chanDie ch) (chanBlk ch)).toNat, 0)

/-- Global bytes, read line by line. -/
def Hw.globRead (h : Hw) (ch : ChanId) : Nat → Nat → Nat → List Byte → Hw × Except Nat (List Byte)
  | 0, _, _, acc => (h, .ok acc)
  | fuel + 1, a, n, acc =>
    if n = 0 then (h, .ok acc)
    else
      let k := Nat.min n (128 - a % 128)
      match h.dmaXlate ch .read a with
      | .error e => (h, .error e)
      | .ok p =>
        if !h.populated p k then (h, .error badAddr)
        else match h.memRead (chUnit ch) true p k with
          | (h, .error kind) => if kind = memWait then (h, .error memWait) else (h.pfUnc (chanDie ch) (chanBlk ch) kind p, .error memErr)
          | (h, .ok bs) => h.globRead ch fuel (a + k) (n - k) (acc ++ bs)

/-- Global bytes, written line by line. -/
def Hw.globWrite (h : Hw) (ch : ChanId) : Nat → Nat → List Byte → Hw × Option Nat
  | 0, _, _ => (h, none)
  | fuel + 1, a, bs =>
    if bs = [] then (h, none)
    else
      let k := Nat.min bs.length (128 - a % 128)
      match h.dmaXlate ch .write a with
      | .error e => (h, some e)
      | .ok p =>
        if !h.populated p k then (h, some badAddr)
        else match h.memWrite (chUnit ch) p (bs.take k) with
          | (h, some e) => (h, some (if e = memWait then memWait else memErr))
          | (h, none) =>
            (h.updCh ch fun x => { x with bytes := x.bytes + BitVec.ofNat 32 k }).globWrite ch fuel (a + k) (bs.drop k)

def Hw.dmaRead (h : Hw) (ch : ChanId) (l : DLoc) (n : Nat) : Hw × Except Nat (List Byte) :=
  match l with
  | .loc c a => if 0 ≤ a ∧ a + n ≤ localTop then h.locRead c a.toNat n else (h, .error badAddr)
  | .glob a => if 0 ≤ a ∧ a + n ≤ globalTop then h.globRead ch (n / 128 + 2) a.toNat n [] else (h, .error badAddr)

def Hw.dmaWrite (h : Hw) (ch : ChanId) (l : DLoc) (bs : List Byte) : Hw × Option Nat :=
  match l with
  | .loc c a =>
    if 0 ≤ a ∧ a + bs.length ≤ localTop then
      if (h.ch ch).priv = false ∧ a < h.guardTop c then (h, some 4)
      else ((h.lmWrite c a.toNat bs).updCh ch fun x => { x with bytes := x.bytes + BitVec.ofNat 32 bs.length }, none)
    else (h, some badAddr)
  | .glob a =>
    if 0 ≤ a ∧ a + bs.length ≤ globalTop then h.globWrite ch (bs.length / 128 + 2) a.toNat bs else (h, some badAddr)

/-! ### The instruction at the index (R314) -/

/-- What an instruction of a channel does to it. -/
inductive DRes where
  | next
  | jump (i : Nat)
  | fail (reason : Nat)
  | wait (w : DWait)
  | root
  | done
  /-- The instruction cannot proceed yet: it has had no effect. -/
  | hold
  deriving DecidableEq, Repr

/-- A word of an instruction. -/
def dw (bs : List Byte) (o : Nat) : W32 := BitVec.ofNat 32 (leAt bs o 4)
def dq (bs : List Byte) (o : Nat) : BitVec 64 := BitVec.ofNat 64 (leAt bs o 8)
def dop (bs : List Byte) : Nat := fld (dw bs 0) 31 28
def dkind (bs : List Byte) : Nat := fld (dw bs 0) 27 24

/-- Assigned opcodes and kinds. -/
def dKnown (bs : List Byte) : Bool :=
  match dop bs with
  | 1 | 2 | 15 => true
  | 3 => decide (dkind bs ≤ 3)
  | 4 => decide (dkind bs ≤ 4)
  | _ => false

/-- The 32 bytes at the channel's index. -/
def Hw.dmaFetch (h : Hw) (ch : ChanId) : Hw × Except Nat (List Byte) :=
  let x := h.ch ch
  let a := x.prog + 32 * x.index
  if 256 ≤ x.index then (h, .error badProg)
  else if localTop < a + 32 ∨ !isSite x.home ∨ h.goneSite x.home then (h, .error badAddr)
  else h.locRead x.home a 32

/-! ### MOVE (R316–R320) -/

/-- Source element bytes of a conversion, and its MX source format (R318). -/
def convSrc (conv es : Nat) : Nat := match conv with | 0 => es | 1 | 3 | 4 | 6 | 7 | 8 => 4 | 2 | 5 | 9 => 2 | _ => 1
def convMx (conv : Nat) : Option Fmt := match conv with | 10 => some e2m1 | 11 => some e4m3 | _ => none
/-- The MX destination: the format code of R189 and its element format. -/
def convToMx (conv : Nat) : Option (Nat × Fmt) :=
  match conv with | 6 => some (3, e4m3) | 7 => some (5, e2m3) | 8 | 9 => some (7, e2m1) | _ => none
/-- Destination element bytes of a conversion that forms no blocks. -/
def convDst (conv es : Nat) : Nat := match conv with | 0 => es | 1 | 10 | 11 => 2 | 2 => 4 | 3 | 4 | 5 => 1 | _ => 1

/-- Groups of `n`. -/
def chunks {α : Type} (n : Nat) : Nat → List α → List (List α)
  | 0, _ => []
  | fuel + 1, l => if l.isEmpty then [] else l.take n :: chunks n fuel (l.drop n)

/-- Elements of a source row as values. -/
def decRow (conv : Nat) (bs : List Byte) : List FV :=
  match convMx conv with
  | some f =>
    let bb := 4 * f.width
    let nb := bs.length / (bb + 1)
    (List.range (32 * nb)).map fun i =>
      let s := ((bs.getD (nb * bb + i / 32) 0)).toNat
      if s = 255 then .nan false else (f.dec (elemBits (bs.take (nb * bb)) f.width i)).scale (s - 127)
  | none =>
    let f := if convSrc conv 1 = 4 then fp32 else bf16
    (chunks (convSrc conv 1) bs.length bs).map fun e => f.dec (leNat e)

/-- Values as destination bytes: elements, then one scale byte per block of an MX format. -/
def encRow (conv : Nat) (vs : List FV) : List Byte :=
  match convToMx conv with
  | some (code, f) =>
    let bl := (chunks 32 vs.length vs).map (mxBlock code f)
    let elems := (bl.map fun b => leBytes (4 * f.width) (b.1.foldr (fun x a => a * 2 ^ f.width + x % 2 ^ f.width) 0)).flatten
    elems ++ bl.map fun b => BitVec.ofNat 8 b.2
  | none =>
    let f := match conv with | 2 => fp32 | 3 => e4m3 | 4 => e5m2 | 5 => e4m3 | _ => bf16
    let sat := f.width == 8
    (vs.map fun v => if sat && v.isNan then [(0x7F : Byte)] else leBytes (f.width / 8) (f.enc 0 sat v).1).flatten

/-- A row converted without transposing. -/
def convRow (conv : Nat) (bs : List Byte) : List Byte := if conv = 0 then bs else encRow conv (decRow conv bs)

/-- Destination row `c` of a transposing MOVE (R319). -/
def transRow (conv es c : Nat) (rows : List (List Byte)) : List Byte :=
  let n := convSrc conv es
  let col := rows.map fun r => sub r (n * c) n
  if conv = 0 then col.flatten else encRow conv ((col.map (decRow conv)).flatten)

/-- The fields of a MOVE. -/
structure Move where
  conv : Nat
  tr : Bool
  es : Nat
  rows : Nat
  rb : Nat
  src : DLoc
  dst : DLoc
  ss : Int
  ds : Int
  deriving DecidableEq, Repr

/-- The sum over the loop levels whose body holds the index (R320). -/
def Chan.delta (x : Chan) (dst : Bool) : Int :=
  ((List.range 4).map fun l =>
    match x.body.getD l none with
    | some (t, i, s, d) => if t ≤ x.index ∧ x.index ≤ i then (x.i.getD l 0 : Int) * (if dst then d else s) else 0
    | none => 0).sum

/-- Source elements of a row. -/
def Move.elems (m : Move) : Nat :=
  match convMx m.conv with
  | some f => 32 * (m.rb / (4 * f.width + 1))
  | none => m.rb / convSrc m.conv m.es

/-- The alignment of R316 and the whole blocks of R318 and R319. -/
def Move.alignOk (m : Move) : Bool :=
  let d (n : Nat) (x : Int) : Bool := decide (x % n = 0)
  if m.conv = 0 then d 8 m.src.addr && d 8 m.dst.addr && d 8 m.rb && d 8 m.ss && d 8 m.ds
  else
    let s := convSrc m.conv 1
    let t := convDst m.conv 1
    let blocks := match convMx m.conv with | some f => d (4 * f.width + 1) m.rb | none => true
    let whole := if (convToMx m.conv).isSome then d 32 (if m.tr then m.rows else m.elems) else true
    d s m.src.addr && d s m.ss && d s m.rb && d t m.dst.addr && d t m.ds && blocks && whole

/-- A MOVE's fields, checked (R314–R316, R318, R320). -/
def Hw.moveOf (h : Hw) (ch : ChanId) (bs : List Byte) : Except Nat Move := do
  let w := dw bs 0
  let x := h.ch ch
  let conv := fld w 27 24
  let rb := fld (dw bs 4) 23 0
  if fld w 18 16 ≠ 0 ∨ fld (dw bs 4) 31 24 ≠ 0 ∨ rb < 8 ∨ 16777208 < rb ∨ 11 < conv ∨ ((convMx conv).isSome ∧ w.getLsbD 23) then
    .error badProg
  let src ← h.dmaLoc ch (w.getLsbD 21) (dq bs 8)
  let dst ← h.dmaLoc ch (w.getLsbD 22) (dq bs 16)
  let m : Move := { conv := conv, tr := w.getLsbD 23, es := 2 ^ fld w 20 19, rows := fld w 15 0 + 1, rb := rb,
                    src := src.shift (x.delta false), dst := dst.shift (x.delta true),
                    ss := (dw bs 0x18).toInt, ds := (dw bs 0x1C).toInt }
  if m.src.addr < 0 ∨ m.dst.addr < 0 then .error badAddr
  if m.alignOk then .ok m else .error badAlign

/-- Source and destination ranges of a MOVE: destination rows and their length. -/
def Move.dstRows (m : Move) : Nat := if m.tr then m.elems else m.rows
def Move.dstLen (m : Move) : Nat :=
  let n := if m.tr then m.rows else m.elems
  match convToMx m.conv with
  | some (_, f) => n / 32 * (4 * f.width + 1)
  | none => if m.conv = 0 ∧ m.tr = false then m.rb else n * convDst m.conv m.es

/-- Ranges [a, a + n) and [b, b + m) of one space meet. -/
def DLoc.meets (a : DLoc) (n : Nat) (b : DLoc) (m : Nat) : Bool :=
  (match a, b with | .loc c _, .loc d _ => c == d | .glob _, .glob _ => true | _, _ => false) &&
    decide (a.addr < b.addr + m) && decide (b.addr < a.addr + n)

/-- Some destination row meets a source range. -/
def Move.touched (m : Move) (a : DLoc) (n : Nat) : Bool :=
  (List.range m.dstRows).any fun r => a.meets n (m.dst.shift (r * m.ds)) m.dstLen

/-- Units of `n` bytes, aligned at the address `a` of the first byte, each as in `new` or as in `old`, by free choices. -/
def Hw.mixUnits (h : Hw) (n : Nat) (a : Int) (old new : List Byte) : Hw × List Byte :=
  let k := h.free
  ({ h with free := k + new.length / n + 2 }, new.zipIdx.map fun p =>
    if Config.pick (k + ((a.toNat + p.2) / n - a.toNat / n)) % 2 = 1 then p.1 else old.getD p.2 0)

/-- The rows of a MOVE read, converted and written in order. -/
def Hw.moveRows (h : Hw) (ch : ChanId) (m : Move) : List Nat → Hw × Option Nat
  | [] => (h, none)
  | r :: rs =>
    match h.dmaRead ch (m.src.shift (r * m.ss)) m.rb with
    | (h, .error e) => (h, some e)
    | (h, .ok bs) =>
      match h.dmaWrite ch (m.dst.shift (r * m.ds)) (convRow m.conv bs) with
      | (h, some e) => (h, some e)
      | (h, none) => h.moveRows ch m rs

/-- The source rows of a transposing MOVE. -/
def Hw.readRows (h : Hw) (ch : ChanId) (m : Move) : List Nat → List (List Byte) → Hw × Except Nat (List (List Byte))
  | [], acc => (h, .ok acc.reverse)
  | r :: rs, acc =>
    match h.dmaRead ch (m.src.shift (r * m.ss)) m.rb with
    | (h, .error e) => (h, .error e)
    | (h, .ok bs) => h.readRows ch m rs (bs :: acc)

def Hw.writeRows (h : Hw) (ch : ChanId) (m : Move) : List (Nat × List Byte) → Hw × Option Nat
  | [] => (h, none)
  | (r, bs) :: rs =>
    match h.dmaWrite ch (m.dst.shift (r * m.ds)) bs with
    | (h, some e) => (h, some e)
    | (h, none) => h.writeRows ch m rs

/-- The parts in which a MOVE forms its destination: 64-bit words of rows that it only copies, rows that it converts, destination
rows of a transposition. -/
def Move.parts (m : Move) : Nat := if m.tr then m.elems else if m.conv = 0 then m.rows * (m.rb / 8) else m.rows

/-- One part: where it goes, and its bytes computed from the source as it stands in `h`. -/
def Hw.movePart (h : Hw) (ch : ChanId) (m : Move) (i : Nat) : Hw × Except Nat (DLoc × List Byte) :=
  if m.tr then
    match h.readRows ch m (List.range m.rows) [] with
    | (h, .error e) => (h, .error e)
    | (h, .ok rows) => (h, .ok (m.dst.shift (i * m.ds), transRow m.conv m.es i rows))
  else
    let w := m.rb / 8
    let (r, o, n) := if m.conv = 0 then (i / w, 8 * (i % w), 8) else (i, 0, m.rb)
    match h.dmaRead ch (m.src.shift (r * m.ss + o)) n with
    | (h, .error e) => (h, .error e)
    | (h, .ok bs) => (h, .ok (m.dst.shift (r * m.ds + o), convRow m.conv bs))

/-- The parts of a MOVE whose destination meets its source: each 64-bit word is computed from the source as it stood before, in
`old`, or from bytes already written, as free choices (R317, log 18). -/
def Hw.overlapGo (old : Hw) (ch : ChanId) (m : Move) : List Nat → Hw → Hw × Option Nat
  | [], h => (h, none)
  | i :: is, h =>
    match (old.movePart ch m i).2, h.movePart ch m i with
    | .ok (d, a), (h, .ok (_, b)) =>
      let (h, out) := h.mixUnits 8 d.addr a b
      match h.dmaWrite ch d out with
      | (h, some e) => (h, some e)
      | (h, none) => Hw.overlapGo old ch m is h
    | _, (h, .error e) => (h, some e)
    | .error e, (h, _) => (h, some e)

/-- MOVE. -/
def Hw.moveIns (ch : ChanId) (h : Hw) (bs : List Byte) : Hw × DRes :=
  match h.moveOf ch bs with
  | .error e => (h, .fail e)
  | .ok m =>
    let stop (h : Hw) (e : Nat) : Hw × DRes := (h, if e = memWait then .hold else .fail e)
    let fin (r : Hw × Option Nat) : Hw × DRes := match r with | (h, some e) => stop h e | (h, none) => (h, .next)
    if (List.range m.rows).any fun r => m.touched (m.src.shift (r * m.ss)) m.rb then
      let (n, h) := h.choose 2
      fin (Hw.overlapGo h ch m (if n = 0 then List.range m.parts else (List.range m.parts).reverse) h)
    else if !m.tr then fin (h.moveRows ch m (List.range m.rows))
    else match h.readRows ch m (List.range m.rows) [] with
      | (h, .error e) => stop h e
      | (h, .ok rows) => fin (h.writeRows ch m ((List.range m.elems).map fun c => (c, transRow m.conv m.es c rows)))

/-! ### A MOVE cut short (R330) -/

/-- The MOVE in which a kill may have struck: what the channel would do next (R330). -/
def Hw.killedMove (h : Hw) (ch : ChanId) : Option Move :=
  match h.dmaFetch ch with
  | (_, .ok bs) => if dop bs = 1 then (h.moveOf ch bs).toOption else none
  | _ => none

/-- Destination of a MOVE cut short: each 64-bit local word, or 64-byte unit of a global line, keeps its old value or takes the new
one (R330). -/
def Hw.cutMove (h : Hw) (ch : ChanId) (m : Move) : Hw :=
  let b := (h.ch ch).bytes
  let put (h : Hw) (d : DLoc) (new : List Byte) : Hw :=
    match h.dmaRead ch d new.length with
    | (_, .error _) => h
    | (_, .ok old) =>
      let (h, mix) := h.mixUnits (match d with | .loc _ _ => 8 | .glob _ => 64) d.addr old new
      (h.dmaWrite ch d mix).1
  let h := if m.tr then h else
    (List.range m.rows).foldl (fun h (r : Nat) =>
      match h.dmaRead ch (m.src.shift (r * m.ss)) m.rb with
      | (_, .ok bs) => put h (m.dst.shift (r * m.ds)) (convRow m.conv bs)
      | _ => h) h
  let h := if !m.tr then h else
    match h.readRows ch m (List.range m.rows) [] with
    | (_, .ok rows) => (List.range m.elems).foldl (fun h (c : Nat) => put h (m.dst.shift (c * m.ds)) (transRow m.conv m.es c rows)) h
    | _ => h
  h.updCh ch fun x => { x with bytes := b }

end Sys2Proof.Machine
end

