-- ==== Sys2Proof/Machine/Island.lean ====
section
/-! DEFINITION. A core's island: CORE reset, the boot ROM's check of the image, START, PARK and RETAIN (spec 13
R395, R396, R403, R407–R409, R415; spec 03 R97; spec 14 R428). -/

namespace Sys2Proof.Machine

/-! ### Kill and CORE reset (R330, R404, R414) -/

/-- Of a tile whose island lost its registers, each row is 0 or what it was, as free choices from number `n` on fix (R49,
log 3). -/
def Tile.afterReset (n : Nat) (x : Tile) : Tile :=
  let keep (r : Nat) : Bool := Config.pick (n + r) % 2 == 1
  { bytes := x.bytes.filter fun p => keep (p.1 / 256), bad := x.bad.filter fun r => keep r.val }

/-- The tiles of a core after such a loss; 256 choices. -/
def Core.tilesAfter (k : Core) (n : Nat) : Tab Tile := k.tiles.map fun p => (p.1, p.2.afterReset (n + 32 * p.1))

/-- A core whose island has lost every register; local memory and the router's tables stay (R291, R414). -/
def Core.restart (n : Nat) (k : Core) : Core :=
  { lmem := k.lmem, ltag := k.ltag, lbad := k.lbad, credits := k.credits, frStaged := k.frStaged,
    islandErr := k.islandErr, tiles := k.tilesAfter n }

/-- A CORE or stronger reset acts as a kill on a slot of the core engine: a MOVE that was due may have been under way (R330). -/
def Hw.cutSlot (h : Hw) (c : CoreId) (n : Fin 4) : Hw :=
  match (h.ch (.core c n)).state with
  | .ready | .run | .killing =>
    match h.killedMove (.core c n) with
    | some m => let (k, h) := h.choose 2; if k = 0 then h else h.cutMove (.core c n) m
    | none => h
  | _ => h

/-- The island of core `c` loses its registers (what a MOVE or ROWRED2 in progress has written stands, R215, R330), and the page those Kept NONE (R16, R332, R409). -/
def Hw.clearIsland (h : Hw) (c : Nat) : Hw :=
  let h := if hc : c < 5120 then ((List.finRange 4).foldl (fun h n => h.cutSlot ⟨c, hc⟩ n) h).cutRowred ⟨c, hc⟩ else h
  let h := h.resetRegs 1 fun d b => d == dieOf c && b == siteIx c
  let n := h.free
  let h := ({ h with free := n + 256 } : Hw).updC c (Core.restart n)
  { h with chans := (List.range 4).foldl (fun t n => del t (slotKey c n)) h.chans }

/-! ### The boot ROM (R394–R396) -/

/-- CRC-32C, one byte (R47). -/
def crcByte (r : W32) (b : Byte) : W32 :=
  (List.range 8).foldl (fun (r : W32) _ => if r.getLsbD 0 then (r >>> 1) ^^^ 0x82F63B78 else r >>> 1) (r ^^^ b.setWidth 32)

/-- CRC-32C of bytes: reflected, initial value and final XOR of all ones (R47). -/
def crc32c (bs : List Byte) : W32 := (bs.foldl crcByte 0xFFFFFFFF) ^^^ 0xFFFFFFFF

/-- BOOT_CORE_STAT.state. -/
def Hw.boot (h : Hw) (c : Nat) : Nat := fld (h.cpg c 0x28C) 2 0
def Hw.setBoot (h : Hw) (c n : Nat) : Hw := h.updCpg c 0x28C fun v => setFld v 2 0 n

/-- The record at 0x0000: its magic, and its length and CRC when its fields are valid (R394). -/
def Core.record (k : Core) : Bool × Option (Nat × W32) :=
  let bs := k.lmem.readN 0 64
  let len := leAt bs 4 4
  (decide (leAt bs 0 4 = 0x544C4E31),
    if len % 64 = 0 ∧ 64 ≤ len ∧ len ≤ 0x17FC00 ∧ leAt bs 12 52 = 0 then some (len, BitVec.ofNat 32 (leAt bs 8 4)) else none)

/-- The image of `len` bytes has this CRC, and every word of it can be read. -/
def Core.imageOk (k : Core) (len : Nat) (crc : W32) : Bool :=
  crc32c (k.lmem.readN 0x400 len) == crc && decide (k.lmErr 0x400 len < 2)

/-- What the boot ROM does first after a CORE reset (R396): it checks a record or BOOT_LEN, or waits for a record. -/
def Hw.bootStart (h : Hw) (c : Nat) : Hw :=
  let (magic, r) := (h.core c).record
  h.setBoot c (if (magic && r.isSome) || decide (h.cpg c 0x294 ≠ 0) then 1 else 0)

/-- BOOT_CORE_CTL.recheck: only in NOIMG (R396). -/
def Hw.bootRecheck (h : Hw) (c : Nat) : Hw :=
  if h.boot c = 4 then h.bootStart c else h.accErr (dieOf c) (siteIx c) 0x290 4

/-! ### START (R97) -/

/-- Thread 0 enters START and the core runs, with nothing in its instruction cache (log 14); a RETAIN request that waits acts now
(R407). -/
def Hw.start (h : Hw) (c : Nat) (detail : BitVec 16) : Hw :=
  ((h.updC c fun k =>
    { k with threads := [(0, { state := .run, pc := ⟨.laddr, 0x0400⟩, st := { priv := true, detail := detail } })]
             gens := [], locks := [], stallCnt := 0, icache := [] }).setBoot c 5).setPwr c
    (if (h.cpg c 0x280).getLsbD 30 then 3 else 0)

/-- START_ENTRY: after CORE reset once the image is accepted, for an island whose threads may run and that K0 has released, or on
waking from RETAIN (R97, R388, R396, R402). -/
def Hw.startEntry (h : Hw) (c : Nat) : Hw :=
  let seq := fld (h.pg 39 0x012 0x040) 31 28
  if h.mayRun c = false ∨ (h.die (dieOf c)).sleep ≠ .run then h
  else if h.pwr c = 4 then h.start c 1
  else if h.boot c = 2 ∧ (seq = 1 ∨ seq = 2) ∧ h.pwr c = 0 then h.start c 0
  else h

/-- A CORE reset of a running module (R396, R404): the island restarts, or is held when its block is OUT (R403). -/
def Hw.coreReset (h : Hw) (c : Nat) : Hw :=
  if h.goneSite c then h
  else
    let h := h.clearIsland c
    let h := (h.updCpg c 0x29C fun v => satAdd 32 v 1).updCpg c 0x280 fun v => setFld v 31 28 0
    let h := h.updCpg c 0x28C fun v => setFld v 15 8 0
    let h := h.updC c fun k => { k with wakeSrc := 0 }
    if h.svc (dieOf c) (siteIx c) = 2 then (h.setPwr c 5).setBoot c 0 else (h.setPwr c 0).bootStart c

/-! ### PARK (R408) -/

/-- No slot is active, no remote request is outstanding (R332, R408). -/
def Hw.quietSlots (h : Hw) (c : Nat) : Bool := (List.range 4).all fun n => !(h.chan (slotKey c n)).state.active
def Hw.noOuts (h : Hw) (c : Nat) : Bool := (h.core c).outs.isEmpty

/-- A condition that takes a core out of PARK, by its wake_src code: a thread's waiting condition or an exception (4), but none
for an event that only a beat has set (R307), or a halt request or OPERAND message (5). -/
def Hw.parkWake (h : Hw) (c : CoreId) : BitVec 3 :=
  if (h.core c.val).wakeSrc = 5 then 5
  else if tids.any fun t => (h.thr c t).atBoundary && (h.haltDue c t).isSome then 5
  else if tids.any fun t => (h.waitMet c t).isSome || ((h.thr c t).atBoundary &&
      ((h.updT c t fun x => { x with evPend := x.evPend &&& ~~~x.beatEv }).dueEvent c t).isSome) then 4 else 0

/-- PWR_CTL.park, refused on a core that is OUT (R403). -/
def Hw.parkRequest (h : Hw) (c : CoreId) : Hw :=
  if h.svc (dieOf c.val) (siteIx c.val) = 2 then h.accErr (dieOf c.val) (siteIx c.val) 0x280 4
  else h.updCpg c.val 0x280 fun v => setBit v 29 true

/-- PARK_ENTRY: by the request, or by park_en once STALL_CNT reaches PARK_IDLE before STALL_WINDOW; a stopped clock holds
STALL_CNT at 0 (R128, R408). -/
def Hw.parkEntry (h : Hw) (c : CoreId) : Hw :=
  let ctl := h.cpg c.val 0x280
  let byReq := ctl.getLsbD 29 && (tids.all fun t => let s := (h.thr c t).state; s != .run && s != .waitReq) &&
    h.quietSlots c.val && h.noOuts c.val
  let w := (h.cpg c.val 0x064).toNat
  let idle := (h.cpg c.val 0x288).toNat
  let byIdle := ctl.getLsbD 0 && h.stalled c && decide (idle ≤ (h.core c.val).stallCnt.toNat) &&
    !(decide (w ≠ 0) && decide (w ≤ idle))
  if h.coreRuns c.val && (byReq || byIdle) && h.parkWake c == 0 then
    ((h.setPwr c.val 1).updCpg c.val 0x280 fun v => setBit v 29 false).updC c.val fun k => { k with stallCnt := 0 }
  else h

/-- The wake source of PWR_STAT, and the state. -/
def Hw.woken (h : Hw) (c : Nat) (src : BitVec 3) (st : Nat) : Hw :=
  ((h.updCpg c 0x284 fun v => setFld v 10 8 src.toNat).setPwr c st).updC c fun k =>
    { k with wakeSrc := 0, threads := k.threads.map fun p => (p.1, { p.2 with beatEv := 0 }) }

/-- PARK_EXIT. -/
def Hw.parkExit (h : Hw) (c : CoreId) : Hw :=
  if h.pwr c.val = 1 ∧ h.parkWake c ≠ 0 then h.woken c.val (h.parkWake c) 0 else h

/-! ### RETAIN (R409) -/

/-- PWR_CTL.retain: the threads stop at their next boundary; a parked core wakes first (R403, R413); of a core that does not run
yet the request waits for START (R407); a core in RETAIN is where it asks to be. A core in HALT_CORE takes the request like any
other and leaves RETAIN through START, although R121 says that only a CORE or stronger reset ends HALT_CORE (DESIGN CHOICE,
log 110). -/
def Hw.retainRequest (h : Hw) (c : CoreId) : Hw :=
  if h.svc (dieOf c.val) (siteIx c.val) = 2 then h.accErr (dieOf c.val) (siteIx c.val) 0x280 4
  else if h.pwr c.val = 2 then h
  else if h.boot c.val = 5 ∧ h.pwr c.val ≤ 1 then
    (h.updCpg c.val 0x280 fun v => setBit v 30 true).setPwr c.val 3
  else h.updCpg c.val 0x280 fun v => setBit v 30 true

/-- RETAIN_ENTRY: threads in WAIT_REQ and requests are waited for, dirty lines are written back as slots allow, then
the island loses its registers (R150, R409). -/
def Hw.retainEntry (h : Hw) (c : CoreId) : Hw :=
  let k := h.core c.val
  if h.pwr c.val ≠ 3 ∨ (tids.any fun t => (k.thr t).state == .waitReq) ∨ h.quietSlots c.val = false then h
  else match k.dcache.filter fun l => l.dirty != 0 with
    | [] =>
      if h.noOuts c.val then
        (((h.clearIsland c.val).setPwr c.val 2).updCpg c.val 0x280 fun v => setBit v 30 false).updC c.val fun x =>
          { x with wakeSrc := k.wakeSrc }
      else h
    | ds =>
      (ds.take (8 - k.wbacks)).foldl (fun h l =>
        (h.writeBack c 0 l (decide (2 ≤ l.bad.toNat))).updC c.val fun k => k.dcPut { l with dirty := 0 }) h

/-- RETAIN_WAKE: an enabled source struck; START follows (R409). -/
def Hw.retainWake (h : Hw) (c : CoreId) : Hw :=
  let src := (h.core c.val).wakeSrc
  if h.pwr c.val = 2 ∧ src ≠ 0 then h.woken c.val src 4 else h

/-- WAKE: PWR_CTL.wake leaves PARK or RETAIN (R403, R408, R409). -/
def Hw.wakeBit (h : Hw) (c : CoreId) : Hw :=
  if h.svc (dieOf c.val) (siteIx c.val) = 2 then h.accErr (dieOf c.val) (siteIx c.val) 0x280 4
  else if h.pwr c.val = 1 then h.woken c.val 1 0
  else if h.pwr c.val = 2 then h.woken c.val 1 4
  else h

/-! ### The meanings -/

/-- START_ENTRY (R97). Thread 0 enters START after boot acceptance or RETAIN wake. -/
def execStartEntry (c : CoreId) (s : State) : Host.Outcome State Fault Refusal := s.run fun h => h.startEntry c.val
/-- BOOT_RECHECK (R396). BOOT_CORE_CTL.recheck starts an image check in NOIMG. -/
def execBootRecheck (c : CoreId) (s : State) : Host.Outcome State Fault Refusal :=
  s.run fun h => h.onPage (dieOf c.val) (siteIx c.val) fun h => h.bootRecheck c.val
/-- CORE_RESET (R404). PWR_CTL.core_rst resets one island. -/
def execCoreReset (c : CoreId) (s : State) : Host.Outcome State Fault Refusal :=
  s.run fun h => h.onPage (dieOf c.val) (siteIx c.val) fun h => h.coreReset c.val
/-- PARK_REQUEST (R408). PWR_CTL.park requests PARK. -/
def execParkRequest (c : CoreId) (s : State) : Host.Outcome State Fault Refusal :=
  s.run fun h => h.onPage (dieOf c.val) (siteIx c.val) fun h => h.parkRequest c
/-- PARK_ENTRY (R408). The core parks when its conditions or PARK_IDLE are met. -/
def execParkEntry (c : CoreId) (s : State) : Host.Outcome State Fault Refusal := s.run fun h => h.parkEntry c
/-- PARK_EXIT (R408). A wake condition restarts a parked core's clock. -/
def execParkExit (c : CoreId) (s : State) : Host.Outcome State Fault Refusal := s.run fun h => h.parkExit c
/-- RETAIN_REQUEST (R409). PWR_CTL.retain requests RETAIN. -/
def execRetainRequest (c : CoreId) (s : State) : Host.Outcome State Fault Refusal :=
  s.run fun h => h.onPage (dieOf c.val) (siteIx c.val) fun h => h.retainRequest c
/-- RETAIN_WAKE (R409). An enabled wake source wakes a retained core to START. -/
def execRetainWake (c : CoreId) (s : State) : Host.Outcome State Fault Refusal := s.run fun h => h.retainWake c
/-- WAKE (R408). PWR_CTL.wake leaves PARK or RETAIN. -/
def execWake (c : CoreId) (s : State) : Host.Outcome State Fault Refusal :=
  s.run fun h => h.onPage (dieOf c.val) (siteIx c.val) fun h => h.wakeBit c

end Sys2Proof.Machine
end

