-- ==== Sys2Proof/Machine/Smap.lean ====
section
/-! DEFINITION. The links of the package and the site map that K0 publishes (spec 01 R20–R29, R36–R48). -/

namespace Sys2Proof.Machine

/-! ### Links -/

/-- A link that a UV40 fuses (R36). -/
def Hw.linkFused (h : Hw) (n : Nat) : Bool :=
  h.variant == .uv40 && match linkPeer n with | some (d, _, _) => 20 ≤ d && d < 36 && fusedMem (d - 20) | none => false

/-- Lanes 0–67 retired. -/
def Link.lost (l : Link) : Nat := popCount l.retired
/-- A spare lane that passed qualification and is unused, the lowest-numbered first (R391, R424). -/
def Link.spare (l : Link) : Option Nat :=
  ([0, 1, 2, 3] : List Nat).find? fun i => !l.retired.getLsbD (64 + i) && !l.spareUsed.getLsbD i

/-- A lane is retired; a data lane, or a spare that carries data, is replaced by a spare lane if one is left (R391,
R424). -/
def Link.retire (l : Link) (lane : Nat) : Link :=
  if l.retired.getLsbD lane then l
  else
    let carried := decide (lane < 64) || l.spareUsed.getLsbD (lane - 64)
    let l := { l with retired := l.retired ||| BitVec.ofNat 68 (2 ^ lane)
                      spareUsed := if lane < 64 then l.spareUsed else l.spareUsed &&& ~~~BitVec.ofNat 4 (2 ^ (lane - 64)) }
    match carried, l.spare with
    | true, some i => { l with spareUsed := l.spareUsed ||| BitVec.ofNat 4 (2 ^ i) }
    | _, _ => l

/-! ### The body (R42–R46) -/

/-- Codes of R44. -/
def SiteSt.code : SiteSt → Nat
  | .active => 0 | .spare => 1 | .dead => 2 | .fused => 3

def smapHead : Nat := 0x020
def Hw.siteIs (h : Hw) (d : Nat) (st : SiteSt) : Nat :=
  ((List.range 256).filter fun s => (h.site (d * 256 + s)).st == st).length

/-- SITE_ENTRY (R45). -/
def Hw.siteEntry (h : Hw) (c : Nat) : W32 :=
  let s := h.site c
  let heat := if s.st = .fused then 31 else s.heat.toNat
  pack 32 [(29, s.st.code), (24, if s.st = .dead then s.cause.toNat else 0), (16, s.rows.toNat), (8, heat), (0, c % 256)]

/-- A word of a link slot (R46). -/
def Hw.slotWord (h : Hw) (n i : Nat) : W32 :=
  match linkPeer n with
  | none => if i = 0 then pack 32 [(29, 7)] else 0
  | some (d, e, p) =>
    let l := h.link n
    match i with
    | 0 => pack 32 [(29, if h.linkFused n then 3 else if l.dead then 2 else 0), (21, d), (19, e), (17, p), (0, l.lost)]
    | 1 => l.retired.setWidth 32
    | 2 => (l.retired >>> 32).setWidth 32
    | _ => pack 32 [(4, l.spareUsed.toNat), (0, fld l.retired 67 64)]

/-- The index of the unit at an offset of block 0x023; none where no unit is (R46). -/
def unitIndex (o : Nat) : Option Nat :=
  if o % 4 ≠ 0 then none
  else if 0x100 ≤ o ∧ o < 0x200 then some ((o - 0x100) / 4)
  else if 0x200 ≤ o ∧ o < 0x308 then some ((o - 0x200) / 4)
  else if 0x400 ≤ o ∧ o < 0x430 then some ((o - 0x400) / 4)
  else if 0x500 ≤ o ∧ o < 0x540 then some ((o - 0x500) / 4) else none

def Hw.unitWord (h : Hw) (o : Nat) : W32 :=
  match unitIndex o with
  | none => 0
  | some i =>
    let u := lookD h.units o {}
    pack 32 [(29, if h.unitFused o then 3 else if u.dead then 2 else 0), (24, if u.dead then u.cause.toNat else 0), (0, i)]

/-- The word that a publish writes at offset `o` of body block `b` (R42). -/
def Hw.bodyWord (h : Hw) (b o : Nat) : W32 :=
  if b = 0x023 then h.unitWord o
  else if b < 0x023 then if 0x100 ≤ o ∧ o < 0x100 + 2560 then h.slotWord (160 * (b - 0x021) + (o - 0x100) / 16) (o / 4 % 4) else 0
  else
    let d := b - 0x040
    match o with
    | 0x040 => BitVec.ofNat 32 (h.siteIs d .active)
    | 0x044 => BitVec.ofNat 32 (h.siteIs d .spare)
    | 0x048 => BitVec.ofNat 32 (h.siteIs d .dead)
    | 0x04C => BitVec.ofNat 32 (h.siteIs d .fused)
    | _ => if 0x100 ≤ o ∧ o < 0x500 then h.siteEntry (d * 256 + (o - 0x100) / 4) else 0

/-- The body blocks in ascending order (R47). -/
def bodyBlocks : List Nat := [0x021, 0x022, 0x023] ++ (List.range 20).map (· + 0x040)
def bodyKeys : List (Nat × Nat) := (bodyBlocks.map fun b => (List.range 1008).map fun i => (b, 0x040 + 4 * i)).flatten

/-- ACTIVE sites guaranteed per die (R38, R43). -/
def Hw.guarantee (h : Hw) : Nat := match h.variant with | .uv48 => 240 | .uv40 => 200
/-- A link that is not fused. -/
def Hw.liveSlots (h : Hw) : List Nat :=
  (List.range 320).filter fun n => (linkPeer n).isSome && linkKey n == n && !h.linkFused n

/-- SMAP_STATUS but for valid. -/
def Hw.smapFlags (h : Hw) : W32 :=
  pack 32 [(3, (decide (∃ d ∈ List.range 20, h.siteIs d .active < h.guarantee)).toNat),
    (2, (h.liveSlots.any fun n => (h.link n).spare.isNone).toNat), (1, (h.liveSlots.any fun n => (h.link n).dead).toNat)]

/-- K0 publishes the site map (R48). -/
def Hw.publish (h : Hw) : Hw :=
  let pg (h : Hw) (o : Nat) (v : W32) : Hw := h.setPg 39 smapHead o v
  let h := h.updPg 39 smapHead 0x048 fun v => if v.getLsbD 0 then v + 2 else v + 1
  let words := bodyKeys.map fun k => (k, h.bodyWord k.1 k.2)
  let h := h.updK fun k => { k with smapBody := (words.filter fun w => w.2 != 0).map fun w => (w.1.1 * 4096 + w.1.2, w.2) }
  let h := pg h 0x050 (crc32c (words.map fun w => leBytes 4 w.2.toNat).flatten)
  let total (st : SiteSt) : Nat := ((List.range 20).map fun d => h.siteIs d st).sum
  let h := pg (pg (pg h 0x060 (BitVec.ofNat 32 (total .active))) 0x064 (BitVec.ofNat 32 (total .spare))) 0x068
    (BitVec.ofNat 32 (total .dead))
  let h := pg h 0x06C (BitVec.ofNat 32 ((h.liveSlots.map fun n => (h.link n).lost).sum))
  let h := pg (pg h 0x054 (h.k0.rootCount.setWidth 32)) 0x058 ((h.k0.rootCount >>> 32).setWidth 32)
  let h := h.updPg 39 smapHead 0x048 fun v => v + 1
  let h := pg h 0x04C (setBit h.smapFlags 0 true)
  h.blkEvt 39 smapHead 16

/-- The sequencer's state changes (R417). -/
def Hw.setSeq (h : Hw) (n : Nat) : Hw := h.updPg 39 0x012 0x040 fun v => setFld v 31 28 n

/-- A site's entry changes. -/
def Hw.setSite (h : Hw) (c : Nat) (f : Site → Site) : Hw := { h with sites := put h.sites c (f (h.site c)) }

/-- A site is marked DEAD, and its island loses power (R37, R39, R393, R395, R397, R398). -/
def Hw.killSite (h : Hw) (c : Nat) (cause : BitVec 3) : Hw :=
  h.setSite c fun s => if s.st = .dead ∨ s.st = .fused then s
    else { s with st := .dead, cause := cause, powered := false, awaits := false }

/-- A unit of block 0x023 is marked DEAD, with its photo-finish entry (R46, R441). -/
def Hw.killUnit (h : Hw) (o : Nat) (cause : BitVec 3) : Hw :=
  if h.unitFused o ∨ h.unitDead o then h
  else
    ({ h with units := put h.units o { dead := true, cause := cause } } : Hw).pf 0x24 39 0x012 (BitVec.ofNat 32 o)
      (cause.setWidth 32)

/-- The first step that fails the bring-up (R389), and the step in progress failed. -/
def Hw.failAt (h : Hw) (n : Nat) : Hw := h.updK fun k => if k.failStep = 0 then { k with failStep := BitVec.ofNat 4 n } else k
def Hw.failNow (h : Hw) : Hw := if h.seqSt = 0 then h.failAt (fld (h.pg 39 0x012 0x040) 27 24) else h

/-- A link becomes DEAD at run time or in a qualification: its traffic moves to its partner, or, with both DEAD, the
module leaves the ready state; in a bring-up the step in progress fails (R28, R29, R389). -/
def Hw.killLink (h : Hw) (n : Nat) : Hw :=
  let part := (linkPartner n).getD n
  let d (x : Nat) : W32 := BitVec.ofNat 32 x
  if (h.link n).dead then h
  else
    let h := ((h.updLink n fun l => { l with dead := true }).pf 0x21 39 0x012 (d n) (d part)).failNow
    if (h.link part).dead then
      let h := h.pf 0x22 39 0x012 (d n) (d part)
      if h.seqSt = 1 then h.setSeq 2 else h
    else h

end Sys2Proof.Machine
end

