-- ==== Sys2Proof/Machine/Service.lean ====
section
/-! DEFINITION. Service changes: staging in BLK_SVC and the transition at a beat (spec 13 R400–R403). -/

namespace Sys2Proof.Machine

/-- A queue pair of a network die. -/
def NetDie.qp (x : NetDie) (q : Nat) : Qp := lookD x.qps q {}
def Qp.word (x : Qp) (i : Nat) : W32 := lookD x.w i 0
/-- QP_W0.state: 0 RESET, 1 RTS, 2 ERR; the port it is bound to (R339, R364). -/
def Qp.state (x : Qp) : Nat := fld (x.word 0) 31 30
def Qp.port (x : Qp) : Nat := fld (x.word 0) 29 28

def Hw.eng (h : Hw) (e : Nat) : Jasper := lookD h.engines e {}
def Hw.port (h : Hw) (p : Nat) : Port := lookD h.ports p {}

/-- The engine, port or hub that a block of a die is. -/
def engAt (d b : Nat) : Nat := if d = 38 then 64 + b else 4 * (d - 20) + b
def portAt (d b : Nat) : Nat := 4 * (d - 36) + b

/-- No channel of a hub is READY, RUN, WAIT or KILLING. -/
def Hw.hubQuiet (h : Hw) (d : Nat) : Bool := (List.range 32).all fun n => !(h.chan (hubKey d n)).state.active

/-- No job in the ring or running (R253). -/
def Hw.engIdle (h : Hw) (e : Nat) : Bool :=
  (h.ring (engId (engOf e)) 0).recs.isEmpty && !(h.eng e).running

/-- The drain conditions of a core site (R402, R413). -/
def Hw.coreDrained (h : Hw) (c : Nat) : Bool :=
  let k := h.core c
  let id : BitVec 16 := BitVec.ofNat 16 c
  ((List.finRange 4).all fun n => let r := h.ring id n; r.recallFrom.isEmpty && r.granted == 0) &&
    (h.pwr c == 2 ||
      (h.quietSlots c && k.outs.isEmpty && (k.dcache.all fun l => l.dirty == 0) &&
        tids.all fun t => let s := (k.thr t).state; s.stalls || s.halted))

/-- Whether a request still on its way goes to a port of the CXL tier. -/
def Hw.cxlBusy (h : Hw) (p : Nat) : Bool :=
  h.reqs.any fun r => decide (cxlBase ≤ r.addr) && (match h.cxlLoc (r.addr - cxlBase) with | some (q, _) => q == p | none => false)

/-- BLK_SVC.drained (R402). -/
def Hw.drained (h : Hw) (d b : Nat) : Bool :=
  match kindOf d b with
  | some .core => h.coreDrained (d * 256 + b)
  | some .jasper => h.engIdle (engAt d b)
  | some .hub => h.hubQuiet d
  | some .port => (h.net (d - 36)).qps.all fun q => !(q.2.state == 1 && q.2.port == b)
  | some .cxlPort => !h.cxlBusy (b - 0x020)
  | _ => false

/-- BLK_SVC.ready (R402). -/
def Hw.ready (h : Hw) (d b : Nat) : Bool :=
  match kindOf d b with
  | some .core => h.boot (d * 256 + b) == 2
  | some .jasper => true
  | some .hub => true
  | some .port => (h.port (portAt d b)).up
  | some .cxlPort => (h.cxlPort (b - 0x020)).up && (h.cxlPort (b - 0x020)).mapped
  | _ => false

/-- BLK_SVC as it reads (R400): the stored state, next and pend with the computed bits. -/
def Hw.svcWord (h : Hw) (d b : Nat) : W32 :=
  let v := h.pg d b 0x024
  let st := h.svc d b
  let pend := v.getLsbD 8
  pack 32 [(11, (match kindOf d b with | some k => k.can | none => false).toNat), (10, (st == 3 && h.ready d b).toNat),
    (9, (st == 1 && h.drained d b).toNat), (8, pend.toNat), (4, if pend then fld v 6 4 else st), (0, st)]

/-- BLK_SVC_WRITE (R400). -/
def Hw.svcWrite (h : Hw) (d b : Nat) (v : W32) : Hw :=
  match kindOf d b with
  | none => h
  | some k =>
    let st := h.svc d b
    let nxt := fld v 6 4
    if h.fused d b then h
    else if 4 ≤ nxt then h.accErr d b 0x024 3
    else if k.can = false ∨ h.dead d b then h.accErr d b 0x024 4
    else if nxt = st then h.updPg d b 0x024 fun v => setFld (setBit v 8 false) 6 4 st
    else if nxt = (st + 1) % 4 then h.updPg d b 0x024 fun v => setFld (setBit v 8 true) 6 4 nxt
    else h.accErr d b 0x024 4

/-- Every enabled ring of a core starts a recall, and its queued requests are denied (R287). -/
def Hw.drainRings (h : Hw) (c : Nat) : Hw :=
  let id : BitVec 16 := BitVec.ofNat 16 c
  (List.finRange 4).foldl (fun h n =>
    let ws := (h.ring id n).waiting
    let h := ws.foldl (fun h q => h.send { q := .bnc, src := id, dest := holderSrc q.h, body := .deny q.h n 1, port := q.port })
      (h.updRing id n fun r => { r with waiting := [] })
    if ringEn (h.rctl c n) then h.startRecall id n else h) h

/-- What a block does as it enters a state (R402, R403). -/
def Hw.svcEnter (h : Hw) (d b st : Nat) : Hw :=
  let c := d * 256 + b
  match kindOf d b, st with
  | some .core, 1 => h.drainRings c
  | some .core, 2 => h.coreReset c
  | some .core, 3 => (h.setPwr c 0).bootStart c
  | some .core, _ =>
    let h := (List.finRange 4).foldl (fun h n => Hw.serveRing (BitVec.ofNat 16 c) n 8 h) h
    if h.boot c = 2 then h.start c 0 else h
  | some .jasper, 0 => Hw.serveRing (engId (engOf (engAt d b))) 0 8 h
  | some .port, 2 => { h with ports := put h.ports (portAt d b) { h.port (portAt d b) with up := false } }
  | _, _ => h

/-- A staged transition at beat `n` of its die (R401). -/
def Hw.svcBeat (h : Hw) (d b : Nat) (n : BitVec 48) : Hw :=
  let v := h.pg d b 0x024
  let nxt := fld v 6 4
  if v.getLsbD 8 && decide ((n.setWidth 32 - h.pg d b 0x028).toNat < 2 ^ 31) && (nxt != 2 || h.drained d b) &&
      (nxt != 0 || h.ready d b) then
    ((h.setPg d b 0x024 (BitVec.ofNat 32 (nxt * 17))).svcEnter d b nxt).blkEvt d b 17
  else h

/-- The blocks of a die whose BLK_SVC stages a transition. -/
def Hw.svcStaged (h : Hw) (d : Nat) : List Nat :=
  h.regs.filterMap fun kv =>
    if kv.1 / 2 ^ 24 = d ∧ kv.1 % 2 ^ 12 = 0x024 ∧ kv.2.getLsbD 8 = true then some (kv.1 / 2 ^ 12 % 2 ^ 12) else none

/-- SVC_OUT word `i`: blocks not IN_SERVICE (R458). -/
def Hw.svcOut (h : Hw) (d i : Nat) : W32 :=
  pack 32 ((List.range 32).map fun j =>
    (j, match kindOf d (32 * i + j) with | some _ => (h.svc d (32 * i + j) != 0).toNat | none => 0))

/-! ### The meanings -/

/-- BLK_SVC_WRITE (R400). Stage or cancel a service transition. -/
def execBlkSvcWrite (d : DieId) (b : BitVec 12) (v : BitVec 32) (s : State) : Host.Outcome State Fault Refusal :=
  s.run fun h => h.onPage d.val b.toNat fun h => h.svcWrite d.val b.toNat v

end Sys2Proof.Machine
end

