-- ==== Sys2Proof/Machine/Cadence.lean ====
section
/-! DEFINITION. The cadence: requests, the root, beats at the leaves and rejoining (spec 09 R295–R313). -/

namespace Sys2Proof.Machine

/-! ### Requests (R298–R301) -/

def cadBlk : Nat := 0x030

/-- The die whose leaf a unit writes; a register window's write that names no leaf is taken at K0's. -/
def beatDie : BeatSrc → Nat
  | .core c => dieOf c.val
  | .chan (.core c _) => dieOf c.val
  | .chan (.hub d _) => d.val
  | .window => 39

/-- Whether CAD_ROOT_CTL names this unit as the starter (R298, R311). -/
def isStarter (ctl : W32) : BeatSrc → Bool
  | .core c => fld ctl 31 30 == 1 && fld ctl 15 0 == c.val
  | .chan (.core c n) => fld ctl 31 29 == 4 && fld ctl 15 0 == c.val && fld ctl 20 16 == n.val
  | .chan (.hub d n) => fld ctl 31 29 == 5 && fld ctl 15 0 == d.val * 256 && fld ctl 20 16 == n.val
  | .window => false

/-- A write of CAD_REQ: the leaf forwards the request to the root. -/
def Hw.cadReq (h : Hw) (d : Nat) (u : BeatSrc) : Hw := h.updDie d fun x => { x with beatReqs := x.beatReqs ++ [u] }

/-- The starter's write of CAD_REQ finds no room at the root: it stays unacknowledged (R301). -/
def Hw.cadFull (h : Hw) (d : Nat) (u : BeatSrc) : Bool :=
  isStarter (h.pg 39 cadBlk 0x040) u && beatDie u == d && decide (65535 ≤ h.k0.pendingBeats + (h.die d).beatReqs.length)

/-- A channel whose SIGNAL BEAT has been answered goes on (R322). -/
def Hw.rootDone (h : Hw) : BeatSrc → Hw
  | .chan ch => h.updChan (chanKey ch) fun x =>
      if x.wait = .root then { x with state := .ready, wait := .none, index := x.index + 1 } else x
  | _ => h

/-- A refused request is counted and recorded at the page written (R299). -/
def Hw.cadRefuse (h : Hw) (d b o : Nat) : Hw := (h.updPg 39 cadBlk 0x060 fun v => satAdd 32 v 1).accErr d b o 5

/-- The root accepts a request. -/
def Hw.cadAccept (h : Hw) : Hw := h.updK fun k => { k with pendingBeats := k.pendingBeats + 1, accepted := k.accepted + 1 }

/-- BEAT_REQUEST_ARRIVAL: the first request of a die's leaf reaches the root; the starter's, written to the leaf of its own die
(R298), waits while pending is full (R301). -/
def Hw.beatArrives (h : Hw) (d : Nat) : Hw :=
  match (h.die d).beatReqs with
  | [] => h
  | u :: rest =>
    let take (h : Hw) : Hw := (h.updDie d fun x => { x with beatReqs := rest }).rootDone u
    if isStarter (h.pg 39 cadBlk 0x040) u && beatDie u == d then
      if 65535 ≤ h.k0.pendingBeats then h else (take h).cadAccept
    else (take h).cadRefuse d 0x111 0x040

/-- CAD_FW_BEAT by K0's firmware; while pending is full the write waits (R301). -/
def Hw.fwBeat (h : Hw) : Hw :=
  if fld (h.pg 39 cadBlk 0x040) 31 30 = 0 then
    if 65535 ≤ h.k0.pendingBeats then h.updK fun k => { k with fwWaits := k.fwWaits + 1 } else h.cadAccept
  else h.cadRefuse 39 0x111 0x05C

/-! ### Beats (R301–R306) -/

/-- BEAT_ISSUE: the root issues the next beat to every leaf whose count is valid; none during a hold or STANDBY. -/
def Hw.beatIssue (h : Hw) : Hw :=
  if h.k0.pendingBeats = 0 ∨ h.k0.hold ≠ [] ∨ h.seqSt = 4 then h
  else
    let n := h.k0.rootCount + 1
    let h := h.updK fun k => { k with rootCount := n, pendingBeats := k.pendingBeats - 1, lastIssue := some h.now }
    let h := if h.k0.fwWaits = 0 then h else (h.updK fun k => { k with fwWaits := k.fwWaits - 1 }).cadAccept
    (List.range 40).foldl (fun h d => if (h.die d).sync then h.updDie d fun x => { x with due := x.due ++ [n] } else h) h

/-- Staged fixed routes of core `c` take effect at count `n` (R282). -/
def Hw.routesAt (h : Hw) (c : Nat) (n : BitVec 48) : Hw :=
  let b : BitVec 48 := (h.cpg c 0x0D8).setWidth 48 ||| ((h.cpg c 0x0DC).setWidth 48 <<< 32)
  if (n - b).toNat < 2 ^ 47 then
    ((h.core c).frStaged.foldl (fun h p => h.setCpg c (0x0E0 + 4 * p.1) p.2) h).updC c fun k => { k with frStaged := [] }
  else h

/-- Staged routes of an engine take effect at the next beat of its die (R258, R282). -/
def Hw.engRoutesAt (h : Hw) (e : Nat) : Hw :=
  let x := h.eng e
  let h := x.frStaged.foldl (fun h p => h.setPg (engDie (engOf e)) (engBlk (engOf e)) (0x060 + 4 * p.1) p.2) h
  { h with engines := put h.engines e { x with frStaged := [] } }

/-- A beat event sets its bit; in a parked core a bit that was not pending is noted, since it wakes only a wait (R307, R310). -/
def Hw.beatSet (h : Hw) (c : CoreId) (t : Tid) (b : Nat) : Hw :=
  h.updT c t fun x =>
    let m := BitVec.ofNat 32 (2 ^ b)
    { x with evPend := x.evPend ||| m, beatEv := if h.pwr c.val = 1 ∧ x.evPend &&& m = 0 then x.beatEv ||| m else x.beatEv }

/-- The beat events of a die's cores at count `n` (R310). -/
def Hw.beatEvents (h : Hw) (d : Nat) (n : BitVec 48) : Hw :=
  h.regs.foldl (fun h kv =>
    let c := d * 256 + kv.1 / 2 ^ 12 % 2 ^ 12
    if kv.1 / 2 ^ 24 = d ∧ kv.1 % 2 ^ 12 = 0x190 ∧ kv.2.getLsbD 31 = true ∧ n.toNat % 2 ^ fld kv.2 15 12 = 0 then
      if hc : c < 5120 then h.beatSet ⟨c, hc⟩ (tidOf (fld kv.2 8 7)) (fld kv.2 4 0) else h
    else h) h

/-- A leaf has still to apply an earlier beat than `n` (R303). -/
def Hw.lagging (h : Hw) (n : BitVec 48) : Bool := h.dies.any fun p => p.2.due.any fun m => m + 1 == n

/-- Count `c` has reached `b` (R296). -/
def countAt (c b : BitVec 48) : Bool := decide ((c - b).toNat < 2 ^ 47)

/-- A WAITC.B of a core that runs or is parked, or a WAIT of a DMA channel of an awake die, is met and has not gone on: what an
applied beat launches starts before the next beat (R303). -/
def Hw.launchDue (h : Hw) : Bool :=
  (h.cores.any fun p => decide (h.pwr p.1 ≤ 1) && decide (h.boot p.1 = 5) && tids.any fun t =>
    match (p.2.thr t).state, (p.2.thr t).wait with
    | .waitCnt, .waitc true _ target _ => countAt (h.cadence p.1) (target.setWidth 48)
    | _, _ => false) ||
  h.chans.any fun p =>
    let d := if p.1 < 0x100000 then dieOf (p.1 / 4) else (p.1 - 0x100000) / 32
    match p.2.state, p.2.wait with
    | .wait, .beat target => h.awake d && countAt (h.die d).count target
    | _, _ => false

/-- BEAT: the count of a die becomes n; staged changes act first, then the beat events (R305). -/
def Hw.beat (h : Hw) (d : Nat) : Hw :=
  match (h.die d).due with
  | [] => h
  | n :: rest =>
    if h.lagging n || h.launchDue then h
    else
      let h := h.updDie d fun x => { x with due := rest, count := n }
      let h := if d < 20 then h.cores.foldl (fun h p => if p.2.frStaged != [] && dieOf p.1 == d then h.routesAt p.1 n else h) h
        else h.engines.foldl (fun h p => if p.2.frStaged != [] && engDie (engOf p.1) == d then h.engRoutesAt p.1 else h) h
      let h := (h.svcStaged d).foldl (fun h b => h.svcBeat d b n) h
      if d < 20 then h.beatEvents d n else h

/-- CAD_EVT_WRITE (R310, R313). -/
def Hw.cadEvt (h : Hw) (c : Nat) (v : W32) : Hw :=
  let b := fld v 4 0
  if v.getLsbD 31 && !(decide (16 ≤ b) && decide (b ≤ 30)) then h.accErr (dieOf c) (siteIx c) 0x190 3
  else h.setCpg c 0x190 (v &&& 0x8000F19F)

/-- A write of CAD_ROOT_CTL: src 3 is refused (R311). -/
def Hw.cadCtl (h : Hw) (v : W32) : Hw :=
  if fld v 31 30 = 3 then h.accErr 39 cadBlk 0x040 3 else h.setPg 39 cadBlk 0x040 (v &&& 0xE01FFFFF)

/-! ### Rejoining (R297, R308) -/

/-- A leaf loses its count and asks the root for a hold. -/
def Hw.leafOff (h : Hw) (d : Nat) : Hw := h.updDie d fun x => { x with sync := false, due := [], count := 0 }
def Hw.leafHold (h : Hw) (d : DieId) : Hw :=
  (h.leafOff d.val).updK fun k => { k with hold := if k.hold.contains d then k.hold else k.hold ++ [d] }

/-- LEAF_REJOIN: once every beat issued has been applied at every running leaf, the count is copied from a running
neighbour, or from the root when no leaf runs. -/
def Hw.leafRejoin (h : Hw) (d : DieId) (nb : Option DieId) : Hw :=
  let running (x : Nat) : Bool := (h.die x).sync
  let src : Option (BitVec 48) := match nb with
    | some n => if running n.val then some (h.die n.val).count else none
    | none => if (List.range 40).any running then none else some h.k0.rootCount
  match src with
  | none => h
  | some n =>
    if h.k0.hold.contains d && h.dies.all fun p => p.2.due.isEmpty then
      let h := h.updDie d.val fun x => { x with count := n, sync := true, sleep := if x.sleep = .waking then .run else x.sleep }
      let h := (h.setPg d.val 0x111 0x050 (lookD h.k0.delays d.val 0)).bumpSat d.val 0x111 0x054
      let h := h.updPg d.val 0x112 0x044 fun v => setFld v 1 0 0
      h.updK fun k => { k with hold := k.hold.filter fun x => x != d }
    else h

/-! ### The meanings -/

/-- CAD_REQ (R298). A starter's write asks for one beat. -/
def execCadReq (u : BeatSrc) (s : State) : Host.Outcome State Fault Refusal := s.run fun h => h.cadReq (beatDie u) u
/-- CAD_FW_BEAT (R298). K0 firmware asks for one beat. -/
def execCadFwBeat (s : State) : Host.Outcome State Fault Refusal := s.run fun h => h.fwBeat
/-- BEAT_REQUEST_ARRIVAL (R299). A beat request reaches the root and is checked against the starter. -/
def execBeatRequestArrival (d : DieId) (s : State) : Host.Outcome State Fault Refusal :=
  s.run fun h => h.beatArrives d.val
/-- BEAT_ISSUE (R301). The root issues the next beat when the gap allows. -/
def execBeatIssue (s : State) : Host.Outcome State Fault Refusal := s.run fun h => h.beatIssue
/-- BEAT (R305). A unit's count advances and staged changes and launches act. -/
def execBeat (d : DieId) (s : State) : Host.Outcome State Fault Refusal := s.run fun h => h.beat d.val
/-- CAD_EVT_WRITE (R310). Configure the beat event, refusing bad bits. -/
def execCadEvtWrite (c : CoreId) (v : BitVec 32) (s : State) : Host.Outcome State Fault Refusal :=
  s.run fun h => h.onCore c.val fun h => h.cadEvt c.val v
/-- LEAF_REJOIN (R308). A returning leaf holds the root, copies the count and releases. -/
def execLeafRejoin (d : DieId) (nb : Option DieId) (s : State) : Host.Outcome State Fault Refusal :=
  s.run fun h => h.leafRejoin d nb

end Sys2Proof.Machine
end

