-- ==== Sys2Proof/Machine/Dma.lean ====
section
/-! DEFINITION. DMA: channel programs of the core engines and the die hubs but for MOVE (spec 10 R314, R320–R333). -/

namespace Sys2Proof.Machine

/-! ### Control registers (R332, R333) -/

/-- CTL.start, chain_src, and the completion event: enabled, thread, bit. -/
def chStartMode (v : W32) : Nat := fld v 29 28
def chainSrc (ch : ChanId) (v : W32) : Nat := if (chHub ch) then fld v 27 23 else fld v 27 26
def chEvent (ch : ChanId) (v : W32) : Option (Tid × Nat) :=
  if (chHub ch) then if v.getLsbD 22 then some (tidOf (fld v 21 20), fld v 19 15) else none
  else if v.getLsbD 25 then some (tidOf (fld v 24 23), fld v 22 18) else none

/-- Codes of DMA_CHn_STAT.state. -/
def DState.code : DState → Nat
  | .idle => 0 | .ready => 1 | .run => 2 | .wait => 3 | .done => 4 | .error => 5 | .killed => 6 | .killing => 7

/-- DMA_CHn_STAT; a hub reserves priv and owner. -/
def Chan.stat (hub : Bool) (x : Chan) : W32 :=
  pack 32 [(29, x.state.code), (28, if hub then 0 else x.priv.toNat), (26, if hub then 0 else x.owner.val),
    (16, Nat.min x.index 255), (0, x.reason.toNat)]

/-! ### Starting (R324) -/

/-- A channel whose engine runs: its die is awake and, for a core slot, its island is not held (R308, R403, R410). -/
def Hw.chAwake (h : Hw) (ch : ChanId) : Bool :=
  h.awake (chanDie ch) && match ch with | .core c _ => !h.noneHeld c.val | .hub _ _ => true

/-- A channel starts if its state allows it, and a hub takes starts in service only (R402). -/
def Hw.chStart (h : Hw) (ch : ChanId) (priv : Bool) (owner : Tid) (prog : Nat) : Option Hw :=
  let x := h.ch ch
  let free := match x.state with | .idle | .done | .error | .killed => true | _ => false
  if !free || !h.chAwake ch || ((chHub ch) && h.svc (chanDie ch) 0x101 != 0) then none
  else
    some (h.updCh ch fun y =>
      { swPriv := y.swPriv, swOwner := y.swOwner, started := y.started, cred := y.cred
        state := .ready, priv := priv, owner := owner, prog := prog
        home := match ch with | .core c _ => c.val | .hub _ _ => fld (h.chReg ch 8) 15 0
        beat0 := (h.die (chanDie ch)).count
        cnt0 := (List.range (counters ch)).map fun j => (j, h.chCnt ch j) })

/-- The program address of PROG or PROG_LO. -/
def Hw.chProg (h : Hw) (ch : ChanId) : Nat := fld (h.chReg ch 4) 20 0

/-- A software start. -/
def Hw.chSoft (h : Hw) (ch : ChanId) (priv : Bool) (owner : Tid) (prog : Nat) : Option Hw :=
  (h.chStart ch priv owner prog).map fun h =>
    h.updCh ch fun x => { x with swPriv := priv, swOwner := owner, started := true }

/-- A refused chain or period start sets the slot's overrun bit. -/
def Hw.overrun (h : Hw) : ChanId → Hw
  | .core c n => h.updCpg c.val 0x1A0 fun v => setBit v (8 + n.val) true
  | .hub _ _ => h

/-- A write of a channel's registers: those of a core slot are Kept NONE. -/
def Hw.onChan (h : Hw) (ch : ChanId) (f : Hw → Hw) : Hw :=
  match ch with
  | .core c _ => h.onCore c.val f
  | .hub d _ => h.onPage d.val 0x101 f

/-- CHANNEL_GO: a page write of go; supervisor, thread 0. -/
def Hw.chGo (h : Hw) (ch : ChanId) : Hw :=
  match h.chSoft ch true 0 (h.chProg ch) with
  | some h => h
  | none => h.accErr (chanDie ch) (chanBlk ch) (0x200 + 32 * chanNo ch) 4

/-- PERIOD_START. -/
def Hw.chPeriod (h : Hw) (ch : ChanId) : Hw :=
  let x := h.ch ch
  let period := h.chReg ch (if (chHub ch) then 0x14 else 0x10)
  if chStartMode (h.chCtl ch) = 2 ∧ period ≠ 0 ∧ x.started = true ∧ h.chAwake ch = true then
    match h.chStart ch x.swPriv x.swOwner (h.chProg ch) with
    | some h => h
    | none => h.overrun ch
  else h

/-! ### The instruction at the index (R314, R327–R329) -/

/-- A channel stops with a reason (R327). -/
def Hw.chFail (h : Hw) (ch : ChanId) (reason : Nat) : Hw :=
  let h := h.updCh ch fun x => { x with state := .error, wait := .none, reason := BitVec.ofNat 8 reason }
  match ch with
  | .core c n =>
    if (h.chCtl ch).getLsbD 17 then
      h.updT c (h.ch ch).owner fun x => { x with dmaErrs := x.dmaErrs ++ [(n, BitVec.ofNat 8 reason)] }
    else h
  | .hub d n => (h.blkEvt d.val 0x101 16).updDie d.val fun x => { x with errChan := n.val }

/-- A slot of a core engine runs when it is the next READY slot after the one that ran last, and none runs (R328); the
channels of a hub run together (R329). -/
def Hw.dmaTurn (h : Hw) : ChanId → Bool
  | .hub _ _ => true
  | .core c n =>
    let st (m : Nat) : DState := (h.chan (slotKey c.val (m % 4))).state
    let cur := fld (h.cpg c.val 0x1A0) 1 0
    ([0, 1, 2, 3].all fun m => st m != .run) && (([1, 2, 3, 4].find? fun d => st (cur + d) == .ready).map fun d => (cur + d) % 4) ==
      some n.val

/-- The engine's last slot. -/
def Hw.dmaCur (h : Hw) : ChanId → Hw
  | .hub _ _ => h
  | .core c n => h.updCpg c.val 0x1A0 fun v => setFld v 1 0 n.val

/-- How an instruction leaves its channel. -/
def Hw.dmaEnd (h : Hw) (ch : ChanId) : DRes → Hw
  | .next => h.updCh ch fun x => { x with state := .ready, wait := .none, index := x.index + 1 }
  | .jump i => h.updCh ch fun x => { x with state := .ready, wait := .none, index := i }
  | .fail r => h.chFail ch r
  | .wait w => h.updCh ch fun x => { x with state := .wait, wait := w }
  | .root => h.updCh ch fun x => { x with state := .run, wait := .root }
  | .done => h.updCh ch fun x => { x with state := .done, wait := .none }
  | .hold => h

/-- A hub channel's MOVE is not served while no buffer slot is free, or under a quota of 0 (R329, log 105). -/
def Hw.unserved (h : Hw) (ch : ChanId) (bs : List Byte) : Bool :=
  match ch with
  | .hub d _ => dop bs == 1 && (decide (4096 ≤ (h.die d.val).orphans) || decide (fld (h.chReg ch 0x1C) 12 0 = 0))
  | .core _ _ => false

/-- The instruction of a READY channel whose turn it is, if it is of the kind that the command names; one that has to wait for
memory, a sleeping die or buffer slots has no effect yet. -/
def Hw.dmaRun (h : Hw) (ch : ChanId) (mine : List Byte → Bool) (go : Hw → List Byte → Hw × DRes) : Hw :=
  if (h.ch ch).state ≠ .ready ∨ h.dmaTurn ch = false ∨ h.chAwake ch = false then h
  else match h.dmaFetch ch with
    | (h', .error e) => (h'.dmaCur ch).chFail ch e
    | (h', .ok bs) =>
      if !dKnown bs then (h'.dmaCur ch).chFail ch badProg
      else if !mine bs || h.unserved ch bs then h
      else match go (h'.dmaCur ch) bs with
        | (_, .hold) => h
        | (h, r) => h.dmaEnd ch r

/-! ### LOOP and WAIT (R320, R321) -/

/-- LOOP. -/
def Hw.loopIns (ch : ChanId) (h : Hw) (bs : List Byte) : Hw × DRes :=
  let w := dw bs 0
  let x := h.ch ch
  let l := fld w 27 26
  let t := fld w 15 8
  let n := leAt bs 4 4
  if fld w 25 16 ≠ 0 ∨ fld w 7 0 ≠ 0 ∨ n = 0 ∨ 65535 < n ∨ x.index ≤ t ∨ leAt bs 16 16 ≠ 0 then (h, .fail badProg)
  else if x.i.getD l 0 + 1 < n then
    (h.updCh ch fun x => { x with i := x.i.set l (x.i.getD l 0 + 1)
                                  body := x.body.set l (some (t, x.index, (dw bs 8).toInt, (dw bs 12).toInt)) }, .jump t)
  else (h.updCh ch fun x => { x with i := x.i.set l 0, body := x.body.set l none }, .next)

/-- The condition a channel waits for holds; a CHEV clears its bits. -/
def Hw.dmaMet (h : Hw) (ch : ChanId) : DWait → Option Hw
  | .chev m =>
    let v := h.chEv ch (chanNo ch)
    let b := v &&& m.setWidth 32
    if b = 0 then none else some (h.setChEv ch (chanNo ch) (v &&& ~~~b))
  | .beat t => if ((h.die (chanDie ch)).count - t).toNat < 2 ^ 47 then some h else none
  | .cnt j t => if (h.chCnt ch j - t).toNat < 2 ^ 31 then some h else none
  | .timer t => if ((h.ch ch).timer - t).toNat < 2 ^ 31 then some h else none
  | _ => none

/-- A WAIT whose condition is `w`: it completes at once, or the channel waits. -/
def Hw.dmaWait (h : Hw) (ch : ChanId) (w : DWait) : Hw × DRes :=
  match h.dmaMet ch w with
  | some h => (h, .next)
  | none => (h, .wait w)

/-- WAIT: a relative target counts from the previous one of its kind. -/
def Hw.waitIns (ch : ChanId) (h : Hw) (bs : List Byte) : Hw × DRes :=
  let w := dw bs 0
  let rel := w.getLsbD 23
  let v := dq bs 8
  let j := fld w 20 16
  let x := h.ch ch
  if fld w 22 21 ≠ 0 ∨ fld w 15 8 ≠ 0 ∨ leAt bs 4 4 ≠ 0 ∨ leAt bs 16 16 ≠ 0 then (h, .fail badProg)
  else match dkind bs with
  | 0 => if rel ∨ v ≠ 0 then (h, .fail badProg) else h.dmaWait ch (.chev (BitVec.ofNat 8 (fld w 7 0)))
  | 1 =>
    let t := if rel then x.relBeat.getD x.beat0 + v.setWidth 48 else v.setWidth 48
    (h.updCh ch fun x => { x with relBeat := some t }).dmaWait ch (.beat t)
  | 2 =>
    if counters ch ≤ j then (h, .fail badProg)
    else
      let t := if rel then lookD x.relCnt j (lookD x.cnt0 j 0) + v.setWidth 32 else v.setWidth 32
      (h.updCh ch fun x => { x with relCnt := put x.relCnt j t }).dmaWait ch (.cnt j t)
  | _ =>
    let t := if rel then x.relTimer + v.setWidth 32 else v.setWidth 32
    (h.updCh ch fun x => { x with relTimer := t }).dmaWait ch (.timer t)

/-- DMA_WAIT_MET. -/
def Hw.waitDone (h : Hw) (ch : ChanId) : Hw :=
  let x := h.ch ch
  if x.state = .wait ∧ h.chAwake ch = true then
    match h.dmaMet ch x.wait with
    | some h => h.dmaEnd ch .next
    | none => h
  else h

/-! ### SIGNAL and END (R322, R323) -/

/-- The reserved bits of a SIGNAL. -/
def signalOk (bs : List Byte) : Bool :=
  let w := dw bs 0
  fld w 23 20 == 0 && fld w 15 8 == 0 && leAt bs 4 4 == 0 && fld (dw bs 0x14) 31 16 == 0 && leAt bs 0x18 8 == 0

/-- A well-formed event handle (R92). -/
def eventHandle (v : BitVec 64) : Bool :=
  fld v 63 32 == 0 && v.getLsbD 31 && fld v 23 16 == 0 && decide (fld v 15 0 < 5120)

/-- SIGNAL SEV. -/
def Hw.signalSev (ch : ChanId) (h : Hw) (bs : List Byte) : Hw × DRes :=
  let a := dq bs 8
  if !signalOk bs || !eventHandle a then (h, .fail badProg)
  else
    let c := fld a 15 0
    let t := tidOf (fld a 25 24)
    let here := match ch with | .core o _ => o.val == c | .hub _ _ => false
    if hc : c < 5120 then
      if here then (h.setEv ⟨c, hc⟩ t (fld a 30 26), .next)
      else (h.send { q := .msg, src := srcOf (chanDie ch) (chanBlk ch), dest := BitVec.ofNat 16 c,
                     body := .event t ⟨fld a 30 26 % 32, Nat.mod_lt _ (by decide)⟩ }, .next)
    else (h, .fail badProg)

/-- An increment of counter `j`: of a core engine, or of a hub (R332, R333). -/
def Hw.cntInc (h : Hw) (c j : Nat) (v : W32) : Hw := h.onCore c fun h => h.updCpg c (0x1C0 + 4 * j) fun x => x + v
def Hw.hubCntInc (h : Hw) (d j : Nat) (v : W32) : Hw :=
  h.onPage d 0x101 fun h => h.updPg d 0x101 (0x080 + 4 * j) fun x => x + v

/-- SIGNAL CNT: the posted write of an increment register; it waits for a sleeping die (R446). -/
def Hw.signalCnt (ch : ChanId) (h : Hw) (bs : List Byte) : Hw × DRes :=
  if !signalOk bs then (h, .fail badProg)
  else match h.dmaXlate ch .write (dq bs 8).toNat with
  | .error e => (h, .fail e)
  | .ok p =>
    let d := (p - regBase) / 2 ^ 24
    let b := (p - regBase) / 2 ^ 12 % 2 ^ 12
    let o := p % 2 ^ 12
    let v := dw bs 0x10
    if p < regBase ∨ regTop ≤ p ∨ o % 4 ≠ 0 then (h, .fail badAddr)
    else if h.awake d = false then (h, .hold)
    else if d < 20 ∧ b < 256 ∧ 0x1E0 ≤ o ∧ o < 0x200 then (h.cntInc (d * 256 + b) ((o - 0x1E0) / 4) v, .next)
    else if d < 36 ∧ b = 0x101 ∧ 0x0C0 ≤ o ∧ o < 0x100 then (h.hubCntInc d ((o - 0x0C0) / 4) v, .next)
    else (h, .fail badAddr)

/-- Credits of a hub channel's own entry are spent, or asked for (R277, R322). -/
def Hw.hubSpend (h : Hw) (ch : ChanId) (dest : BitVec 16) (ring : Fin 4) (cost : Nat) : CRes :=
  match ch with
  | .core c _ => h.spend c dest ring cost
  | .hub d n =>
    let hd : Holder := .hub d n
    let x := h.ch ch
    let e := x.cred
    let gran := h.reqGran x.home
    let ask (h : Hw) (e : CEnt) (need : Nat) : CRes :=
      .wait ((h.updCh ch fun x => { x with cred := { e with state := .req } }).askCredit hd dest ring need gran)
    if e.state ≠ .empty ∧ e.dest = dest ∧ e.ring = ring then
      if cost ≤ e.credits then .spent (h.updCh ch fun x => { x with cred := { e with credits := e.credits - cost } })
      else if e.state = .req then .wait h else ask h e (cost - e.credits)
    else match e.state with
      | .req => .again h
      | .held =>
        ask (h.send { q := .ctl, src := holderSrc hd, dest := e.dest, body := .ret hd e.ring e.credits })
          { dest := dest, ring := ring } cost
      | .empty => ask h { dest := dest, ring := ring } cost

/-- The core a channel's messages come from. -/
def Hw.chSrc (h : Hw) (ch : ChanId) : Nat := match ch with | .core c _ => c.val | .hub _ _ => (h.ch ch).home

/-- The message of a SIGNAL MSG, its granules read (R322). -/
def Hw.signalMessage (ch : ChanId) (h : Hw) (bs : List Byte) : Hw × Except Nat Msg :=
  let v := dw bs 0x10
  let n := fld (dw bs 0) 19 16 + 1
  let a := dq bs 8
  if !signalOk bs then (h, .error badProg)
  else match h.dmaLoc ch (fld a 63 48 != 0) a with
  | .error e => (h, .error e)
  | .ok l =>
    if l.addr % 64 ≠ 0 then (h, .error badAlign)
    else if fld v 31 18 ≠ 0 ∨ destOk (fld v 15 0) = false then (h, .error badProg)
    else match h.dmaRead ch l (64 * n) with
      | (h, .error e) => (h, .error e)
      | (h, .ok data) =>
        (h, .ok (normalMsg (BitVec.ofNat 16 (h.chSrc ch)) (v.setWidth 16) ⟨fld v 17 16 % 4, Nat.mod_lt _ (by decide)⟩ n
          (BitVec.ofNat 16 (fld (dw bs 0x14) 15 0)) (data.drop 16)))

/-- SIGNAL MSG. -/
def Hw.signalMsg (ch : ChanId) (h : Hw) (bs : List Byte) : Hw × DRes :=
  match h.signalMessage ch bs with
  | (h, .error e) => (h, if e = memWait then .hold else .fail e)
  | (h, .ok m) =>
    match h.hubSpend ch m.dest m.ring m.n with
    | .spent h =>
      let src := match ch with | .core c _ => coreIdW c | .hub d _ => srcOf d.val 0x101
      (h.send { q := .msg, src := src, dest := m.dest, body := .message m }, .next)
    | .wait h => (h, .wait (.credit m.dest m.ring))
    | .again h => (h, .wait .retry)

/-- SIGNAL BEAT. -/
def Hw.signalBeat (ch : ChanId) (h : Hw) (bs : List Byte) : Hw × DRes :=
  if !signalOk bs then (h, .fail badProg) else (h.cadReq (chanDie ch) (.chan ch), .root)

/-- SIGNAL CHEV. -/
def Hw.signalChev (ch : ChanId) (h : Hw) (bs : List Byte) : Hw × DRes :=
  let a := dq bs 8
  if !signalOk bs || fld a 63 5 != 0 || decide (chCount ch ≤ fld a 4 0) then (h, .fail badProg)
  else (h.setChEv ch (fld a 4 0) (h.chEv ch (fld a 4 0) ||| BitVec.ofNat 32 (fld (dw bs 0) 7 0)), .next)

/-- DMA_MSG_RETRY: the channel asks again (R322). -/
def Hw.dmaRetry (h : Hw) (ch : ChanId) : Hw :=
  if (h.ch ch).state = .wait ∧ (h.ch ch).wait = .retry then h.updCh ch fun x => { x with state := .ready, wait := .none } else h

/-- END: the completion event, then the chained starts. -/
def Hw.endIns (ch : ChanId) (h : Hw) (bs : List Byte) : Hw × DRes :=
  if leNat (sub bs 0 32) ≠ 0xF0000000 then (h, .fail badProg)
  else
    let x := h.ch ch
    let h := h.dmaEnd ch .done
    let h := match chEvent ch (h.chCtl ch), ch with
      | some (t, b), .core c _ => h.setEv c t b
      | some (t, b), .hub d _ =>
        h.send { q := .msg, src := srcOf d.val 0x101, dest := BitVec.ofNat 16 x.home,
                 body := .event t ⟨b % 32, Nat.mod_lt _ (by decide)⟩ }
      | none, _ => h
    let h := (List.range (chCount ch)).foldl (fun h n =>
      let o := chSib ch n
      let v := h.chCtl o
      if chStartMode v = 1 ∧ chainSrc ch v = chanNo ch then
        match h.chStart o x.priv x.owner (h.chProg o) with
        | some h => h
        | none => h.overrun o
      else h) h
    (h, if (h.ch ch).state = .done then .done else .jump 0)

/-! ### Kill (R330, R331) -/

/-- CHANNEL_KILL and DMAKILL. -/
def Hw.chKill (h : Hw) (ch : ChanId) : Hw :=
  let x := h.ch ch
  match x.state with
  | .ready | .run | .wait =>
    (h.updCh ch Chan.kill).pf 0x14 (chanDie ch) (chanBlk ch) (pack 32 [(31, (chHub ch).toNat), (0, chanNo ch)]) x.bytes
  | _ => h

/-- KILL_COMPLETE, with an outcome among those of R330: bytes beyond those acknowledged, and orphaned buffer slots, only
where a MOVE was under way. -/
def Hw.killDone (h : Hw) (ch : ChanId) (k : KillOutcome) : Hw :=
  let x := h.ch ch
  if x.state ≠ .killing then h
  else
    let mv := h.killedMove ch
    let h := match mv with
      | some m => if k.bytes = x.bytes then h else h.cutMove ch m
      | none => h
    let most := match mv with | some m => m.dstRows * m.dstLen | none => 0
    let bytes := if (k.bytes - x.bytes).toNat ≤ most ∧ (k.bytes - x.bytes).toNat % 8 = 0 then k.bytes else x.bytes
    let h := match ch with
      | .hub d n =>
        let quota := if mv.isSome then fld (h.chReg ch 0x1C) 12 0 else 0
        let h := h.updDie d.val fun y => { y with orphans := Nat.min 4096 (y.orphans + Nat.min k.orphans quota) }
        if k.returned && x.cred.state == CState.held then
          h.send { q := .ctl, src := holderSrc (.hub d n), dest := x.cred.dest, body := .ret (.hub d n) x.cred.ring x.cred.credits }
        else h
      | .core _ _ => h
    h.updCh ch fun x => { x with state := .killed, reason := 7, bytes := bytes, cred := {}, wait := .none }

/-- HUB_RECLAIM: every orphaned slot is free again; refused while a channel runs (R331, log 20). -/
def Hw.reclaim (h : Hw) (d : Nat) : Hw :=
  if (List.range 32).all fun n => match (h.chan (hubKey d n)).state with | .ready | .run | .wait => false | _ => true then
    h.updDie d fun x => { x with orphans := 0 }
  else h.accErr d 0x101 0x040 4

/-! ### Instructions of op 0x32 (R325) -/

/-- A slot number. -/
def slotArg (operand : Nat) (w : TWord) : Except Exc (Fin 4) := do
  let v ← needInt operand w
  inRange 0x32 (decide (v.toNat < 4))
  .ok ⟨v.toNat % 4, Nat.mod_lt _ (by decide)⟩

def Hw.dmastartIns (f : RF) (h : Hw) (c : CoreId) (t : Tid) : IRes :=
  let x := h.thr c t
  IRes.ofE h do
    let p ← needAddr 0 (x.rd f.ra)
    let _ ← needInt 1 (x.rd f.rb)
    inRange 0x32 (p.tag = .laddr && decide (p.val.toNat % 32 = 0))
    let n ← slotArg 1 (x.rd f.rb)
    match h.chSoft (.core c n) x.st.priv t p.val.toNat with
    | some h => .ok (h.wrG c t f.rd (int 0), .seq)
    | none => .ok (h.wrG c t f.rd (int 1), .seq)

def Hw.dmastatIns (f : RF) (h : Hw) (c : CoreId) (t : Tid) : IRes :=
  IRes.ofE h do
    mbz 0x32 (f.rb = 0)
    let n ← slotArg 0 ((h.thr c t).rd f.ra)
    .ok (h.wrG c t f.rd (int (((h.ch (.core c n)).stat false).setWidth 64)), .seq)

def Hw.dmakillIns (f : RF) (h : Hw) (c : CoreId) (t : Tid) : IRes :=
  let x := h.thr c t
  IRes.ofE h do
    mbz 0x32 (f.rd = 0 && f.rb = 0)
    let n ← slotArg 0 (x.rd f.ra)
    if !x.st.priv && (h.ch (.core c n)).priv then .error (privExc 0x32 0)
    .ok (h.chKill (.core c n), .seq)

/-! ### The meanings -/

/-- DMASTART (R325). Start a core DMA slot from a program address. -/
def execDmastart (c : CoreId) (t : Tid) (f : RF) (s : State) : Host.Outcome State Fault Refusal :=
  s.issue c t 4 [f.ra, f.rb] (Hw.dmastartIns f)
/-- DMASTAT (R325). Read a slot's state. -/
def execDmastat (c : CoreId) (t : Tid) (f : RF) (s : State) : Host.Outcome State Fault Refusal :=
  s.issue c t 4 [f.ra] (Hw.dmastatIns f)
/-- DMAKILL (R330). Kill a core DMA slot. -/
def execDmakill (c : CoreId) (t : Tid) (f : RF) (s : State) : Host.Outcome State Fault Refusal :=
  s.issue c t 4 [f.ra] (Hw.dmakillIns f)
/-- CHANNEL_GO (R324). A page write of go starts a channel. -/
def execChannelGo (ch : ChanId) (s : State) : Host.Outcome State Fault Refusal :=
  s.run fun h => h.onChan ch fun h => h.chGo ch
/-- CHANNEL_KILL (R330). A page write of kill drops a channel. -/
def execChannelKill (ch : ChanId) (s : State) : Host.Outcome State Fault Refusal :=
  s.run fun h => h.onChan ch fun h => h.chKill ch
/-- KILL_COMPLETE (R330). A killing channel's requests stop and it reads KILLED. -/
def execKillComplete (ch : ChanId) (k : KillOutcome) (s : State) : Host.Outcome State Fault Refusal :=
  s.run fun h => h.killDone ch k
/-- PERIOD_START (R324). A channel starts at a multiple of its period. -/
def execPeriodStart (ch : ChanId) (s : State) : Host.Outcome State Fault Refusal := s.run fun h => h.chPeriod ch
/-- MOVE (R316). Copy rows with optional conversion and transpose. -/
def execMoveOp (ch : ChanId) (s : State) : Host.Outcome State Fault Refusal :=
  s.run fun h => h.dmaRun ch (fun b => dop b == 1) (Hw.moveIns ch)
/-- LOOP (R320). Repeat a body of channel instructions. -/
def execLoopOp (ch : ChanId) (s : State) : Host.Outcome State Fault Refusal :=
  s.run fun h => h.dmaRun ch (fun b => dop b == 2) (Hw.loopIns ch)
/-- WAIT_CHEV (R321). Hold the channel for channel event bits. -/
def execWaitChev (ch : ChanId) (s : State) : Host.Outcome State Fault Refusal :=
  s.run fun h => h.dmaRun ch (fun b => dop b == 3 && dkind b == 0) (Hw.waitIns ch)
/-- WAIT_BEAT (R321). Hold the channel for a cadence count. -/
def execWaitBeat (ch : ChanId) (s : State) : Host.Outcome State Fault Refusal :=
  s.run fun h => h.dmaRun ch (fun b => dop b == 3 && dkind b == 1) (Hw.waitIns ch)
/-- WAIT_CNT (R321). Hold the channel for a counter value. -/
def execWaitCnt (ch : ChanId) (s : State) : Host.Outcome State Fault Refusal :=
  s.run fun h => h.dmaRun ch (fun b => dop b == 3 && dkind b == 2) (Hw.waitIns ch)
/-- WAIT_TIMER (R321). Hold the channel for its timer. -/
def execWaitTimer (ch : ChanId) (s : State) : Host.Outcome State Fault Refusal :=
  s.run fun h => h.dmaRun ch (fun b => dop b == 3 && dkind b == 3) (Hw.waitIns ch)
/-- DMA_WAIT_MET (R321). A channel WAIT's condition holds and the channel continues. -/
def execDmaWaitMet (ch : ChanId) (s : State) : Host.Outcome State Fault Refusal := s.run fun h => h.waitDone ch
/-- SIGNAL_SEV (R322). After acknowledgement, set an event bit. -/
def execSignalSev (ch : ChanId) (s : State) : Host.Outcome State Fault Refusal :=
  s.run fun h => h.dmaRun ch (fun b => dop b == 4 && dkind b == 0) (Hw.signalSev ch)
/-- SIGNAL_CNT (R322). After acknowledgement, add to a counter. -/
def execSignalCnt (ch : ChanId) (s : State) : Host.Outcome State Fault Refusal :=
  s.run fun h => h.dmaRun ch (fun b => dop b == 4 && dkind b == 1) (Hw.signalCnt ch)
/-- SIGNAL_MSG (R322). After acknowledgement, send a NORMAL message. -/
def execSignalMsg (ch : ChanId) (s : State) : Host.Outcome State Fault Refusal :=
  s.run fun h => h.dmaRun ch (fun b => dop b == 4 && dkind b == 2) (Hw.signalMsg ch)
/-- SIGNAL_BEAT (R322). After acknowledgement, request a beat. -/
def execSignalBeat (ch : ChanId) (s : State) : Host.Outcome State Fault Refusal :=
  s.run fun h => h.dmaRun ch (fun b => dop b == 4 && dkind b == 3) (Hw.signalBeat ch)
/-- SIGNAL_CHEV (R322). After acknowledgement, set channel event bits. -/
def execSignalChev (ch : ChanId) (s : State) : Host.Outcome State Fault Refusal :=
  s.run fun h => h.dmaRun ch (fun b => dop b == 4 && dkind b == 4) (Hw.signalChev ch)
/-- DMA_MSG_RETRY (R322). A channel asks again for credit after 4 timer cycles. -/
def execDmaMsgRetry (ch : ChanId) (s : State) : Host.Outcome State Fault Refusal := s.run fun h => h.dmaRetry ch
/-- END (R323). End a channel program after acknowledgement. -/
def execEndOp (ch : ChanId) (s : State) : Host.Outcome State Fault Refusal :=
  s.run fun h => h.dmaRun ch (fun b => dop b == 15) (Hw.endIns ch)
/-- DMA_CNT_INC (R332). Add the written value to a core DMA counter. -/
def execDmaCntInc (c : CoreId) (j : Fin 8) (v : BitVec 32) (s : State) : Host.Outcome State Fault Refusal :=
  s.run fun h => h.cntInc c.val j.val v
/-- HUB_CNT_INC (R333). Add the written value to a hub counter. -/
def execHubCntInc (d : Fin 36) (j : Fin 16) (v : BitVec 32) (s : State) : Host.Outcome State Fault Refusal :=
  s.run fun h => h.hubCntInc d.val j.val v
/-- HUB_RECLAIM (R331). Free every orphaned hub buffer slot. -/
def execHubReclaim (d : Fin 36) (s : State) : Host.Outcome State Fault Refusal :=
  s.run fun h => h.onPage d.val 0x101 fun h => h.reclaim d.val

end Sys2Proof.Machine
end

