-- ==== Sys2Proof/Machine/Jasper.lean ====
section
/-! DEFINITION. Jasper engines: jobs of the job ring, what they compute and how results are delivered (spec 07
R241–R254; spec 05 R186). -/

namespace Sys2Proof.Machine

def Hw.updEng (h : Hw) (e : Eng) (f : Jasper → Jasper) : Hw := { h with engines := put h.engines e.val (f (h.eng e.val)) }
def Hw.engPg (h : Hw) (e : Eng) (o : Nat) : W32 := h.pg (engDie e) (engBlk e) o
def Hw.updEngPg (h : Hw) (e : Eng) (o : Nat) (f : W32 → W32) : Hw := h.updPg (engDie e) (engBlk e) o f

/-! ### Descriptors (R243–R245, R249) -/

/-- Status codes of R249. -/
def jBadDesc : Nat := 1
def jBadAddr : Nat := 2
def jMemErr : Nat := 3
def jBadIndex : Nat := 4
def jAborted : Nat := 5

/-- Fields of a descriptor: a 32-bit word, an address. -/
def jw (d : List Byte) (o : Nat) : Nat := leAt d o 4
def ja (d : List Byte) (o : Nat) : Nat := leAt d o 8
def jtype (d : List Byte) : Nat := jw d 0 % 256
def jdeliver (d : List Byte) : Nat := jw d 0 / 2 ^ 9 % 4
/-- A word whose bits above `n` are zero. -/
def jfits (d : List Byte) (o n : Nat) : Bool := decide (jw d o < 2 ^ n)

/-- Results go to memory rather than into replies. -/
def toMem (d : List Byte) : Bool := decide (2 ≤ jdeliver d)

/-- Field ranges, reserved bits and alignment (R243–R245, R251). -/
def descOk (d : List Byte) : Bool :=
  let al (os : List Nat) : Bool := os.all fun o => ja d o % 16 == 0
  let z (o n : Nat) : Bool := leAt d o n == 0
  let m (x n : Nat) : Bool := x % n == 0
  jfits d 0 17 && z 0x0E 2 &&
    match jtype d with
    | 1 =>
      let n := jw d 0x34
      let k := jw d 0x38
      let j := jw d 0x3C % 16
      jfits d 0x30 24 && jfits d 0x34 17 && jfits d 0x38 15 && jfits d 0x3C 5 && decide (1 ≤ n ∧ n ≤ 65536) &&
        decide (32 ≤ k ∧ k ≤ 16384) && m k 32 && decide (1 ≤ j ∧ j ≤ 12) && decide (k / 2 ≤ jw d 0x30) && m (jw d 0x30) 16 &&
        al [0x10, 0x18, 0x20, 0x28]
    | 2 =>
      let w := jw d 0x3C
      let dd := w % 512
      let q := w / 4096 % 16
      let fmt := w / 65536 % 4
      jfits d 0x30 24 && jfits d 0x34 21 && jfits d 0x3C 18 && w / 512 % 8 == 0 && decide (fmt < 3) && decide (32 ≤ dd ∧ dd ≤ 256) &&
        m dd 32 && decide (1 ≤ q ∧ q ≤ 12) && decide (jw d 0x34 ≤ 1048576) && m (jw d 0x30) 64 &&
        decide (dd * (if fmt = 2 then 2 else 1) ≤ jw d 0x30) && al [0x10, 0x18, 0x20, 0x28]
    | 3 =>
      let rb := jw d 0x38
      jfits d 0x30 20 && jfits d 0x38 15 && z 0x2C 4 && z 0x3C 4 && decide (64 ≤ rb ∧ rb ≤ 16384) && m rb 64 && m (jw d 0x28) 64 &&
        decide (rb ≤ jw d 0x28) && al [0x10, 0x18, 0x20]
    | 4 =>
      jfits d 0x30 24 && jfits d 0x34 5 && jfits d 0x3C 2 && z 0x1C 4 && z 0x28 8 && z 0x38 4 && decide (2 ≤ jw d 0x34 ∧ jw d 0x34 ≤ 16) &&
        decide (16 ≤ jw d 0x30) && m (jw d 0x30) 16 && m (jw d 0x18) 64 && al [0x10, 0x20]
    | 5 =>
      decide (ja d 0x20 < 2 ^ 40) && decide (64 ≤ ja d 0x20) && m (ja d 0x20) 64 && m (ja d 0x10) 64 && m (ja d 0x18) 64 && z 0x28 24 &&
        !toMem d
    | 6 =>
      decide (ja d 0x20 < 2 ^ 40) && decide (64 ≤ ja d 0x20) && m (ja d 0x20) 64 && m (ja d 0x10) 64 && z 0x28 24 && !toMem d
    | _ => false

/-- Bytes of a result element. -/
def gemvOut (d : List Byte) : Nat := if jw d 0x3C / 16 % 2 = 1 then 2 else 4
def reduceOut (d : List Byte) : Nat := if jw d 0x3C / 2 % 2 = 1 then 2 else 4
def reduceIn (d : List Byte) : Nat := if jw d 0x3C % 2 = 1 then 2 else 4
/-- Bytes of a K or V element. -/
def kvBytes (d : List Byte) : Nat := if jw d 0x3C / 65536 % 4 = 2 then 2 else 1

/-- Every address of the chunks that bytes [a, a + n) touch, one per 2 MiB chunk. -/
def chunksOf (a n : Nat) : List Nat := if n = 0 then [] else (List.range ((a + n - 1) / 2 ^ 21 + 1 - a / 2 ^ 21)).map fun i => a / 2 ^ 21 + i

/-- A region that an engine may stream (R247). -/
def Hw.homeRegion (h : Hw) (e : Eng) (r : Nat × Nat) : Bool :=
  h.populated r.1 r.2 &&
    (if e.val < 64 then (chunksOf r.1 r.2).all fun c => decide (r.1 + r.2 ≤ h.gddrTop) && (homeOf h.variant (c * 2 ^ 21)).1 == e.val / 4
     else decide (cxlBase ≤ r.1))

/-- Regions that must be home, and regions that may lie anywhere (R247); address and length. -/
def regions (d : List Byte) : List (Nat × Nat) × List (Nat × Nat) :=
  let out (o n : Nat) : List (Nat × Nat) := if toMem d then [(ja d o, n)] else []
  match jtype d with
  | 1 =>
    let n := jw d 0x34
    let k := jw d 0x38
    let j := jw d 0x3C % 16
    ((ja d 0x18, n * (k / 32)) :: (List.range n).map fun i => (ja d 0x10 + i * jw d 0x30, k / 2),
      (ja d 0x20, 2 * j * k) :: out 0x28 (j * n * gemvOut d))
  | 2 =>
    let w := jw d 0x3C
    let dd := w % 512
    let q := w / 4096 % 16
    let row := dd * kvBytes d
    ((List.range (jw d 0x34)).map (fun t => (ja d 0x18 + t * jw d 0x30, row)) ++
        (List.range (jw d 0x34)).map (fun t => (ja d 0x20 + t * jw d 0x30, row)),
      (ja d 0x10, 2 * q * dd) :: out 0x28 (q * (64 + 4 * dd)))
  | 3 => ([], (ja d 0x18, 4 * jw d 0x30) :: out 0x20 (jw d 0x30 * jw d 0x38))
  | 4 => ([], ((List.range (jw d 0x34)).map fun s => (ja d 0x10 + s * jw d 0x18, jw d 0x30 * reduceIn d)) ++
      out 0x20 (jw d 0x30 * reduceOut d))
  | 5 => ([(ja d 0x10, ja d 0x20)], [(ja d 0x18, ja d 0x20)])
  | _ => ([(ja d 0x10, ja d 0x20)], [])

/-- The start check of a job: 0, or the status with which it ends (R249). -/
def Hw.jobCheck (h : Hw) (e : Eng) (d : List Byte) : Nat :=
  if !descOk d then jBadDesc
  else
    let (home, any) := regions d
    if (home.all fun r => h.homeRegion e r) && any.all fun r => h.populated r.1 r.2 then 0 else jBadAddr

/-! ### Arithmetic (R186, R245, R246) -/

/-- A sum by R186: exact block sums rounded to FP32, added in any order. -/
def blockSum (seed : Nat) (ps : List (EV × EV)) : Nat :=
  let sums := (chunks 32 ps.length ps).map fun b => (fp32.enc 0 false (exactSum b).1).1
  (addAll 0 (anyOrder seed sums.length sums)).1

/-- Values of `n`-byte elements. -/
def elems (f : Fmt) (bs : List Byte) : List EV := (chunks (f.width / 8) bs.length bs).map fun c => ⟨f.dec (leNat c), false⟩

/-- An MXFP4 row of W with its scales. -/
def mxRow (w s : List Byte) (k : Nat) : List EV :=
  (List.range k).map fun i =>
    let sc := (s.getD (i / 32) 0).toNat
    if sc = 255 then ⟨.nan false, true⟩ else ⟨(e2m1.dec (elemBits w 4 i)).scale (sc - 127), false⟩

/-- A running state of ATTN: maximum, sum and outputs, FP32. -/
structure Attn where
  m : Nat
  l : Nat
  o : List Nat
  deriving DecidableEq, Repr

def f32add (a b : Nat) : Nat := (fp32.op 0 .add a b 0).1
def f32mul (a b : Nat) : Nat := (fp32.op 0 .mul a b 0).1
/-- e^(a - b), within 2 ulp, the same on every engine (R246, log 9). -/
def jexp (a b : Nat) : Nat :=
  let x := (fp32.op 0 .sub a b 0).1
  (fp32.approxBy (Config.jspExp (BitVec.ofNat 32 x)).toNat .exp x).1
def f32max (a b : Nat) : Nat := if (fp32.dec a).lt (fp32.dec b) then b else a

/-- A block of tokens, each with its score and V row, enters the running state, which is rescaled (R245, log 22). -/
def attnBlock (st : Option Attn) (ts : List (Nat × List EV)) (d : Nat) : Option Attn :=
  match ts with
  | [] => st
  | t :: rest =>
    let bm := (rest.map (·.1)).foldl f32max t.1
    let m := match st with | some a => f32max a.m bm | none => bm
    let ps := ts.map fun t => (jexp t.1 m, t.2)
    let l := (addAll 0 (ps.map (·.1))).1
    let o := (List.range d).map fun i =>
      (fp32.enc 0 false (exactSum (ps.map fun p => (⟨fp32.dec p.1, false⟩, p.2.getD i ⟨.fin false 0 0, false⟩))).1).1
    match st with
    | none => some ⟨m, l, o⟩
    | some a =>
      let r := jexp a.m m
      some ⟨m, f32add (f32mul a.l r) l, (a.o.zip o).map fun p => f32add (f32mul p.1 r) p.2⟩

/-- The record of one query (R245). -/
def attnRecord (seed len d : Nat) (toks : List (Nat × List EV)) : List Byte :=
  let st := (chunks 32 toks.length (anyOrder seed toks.length toks)).foldl (fun st b => attnBlock st b d) none
  let a := st.getD ⟨0xFF800000, 0, List.replicate d 0⟩
  leBytes 4 a.m ++ leBytes 4 a.l ++ leBytes 4 len ++ List.replicate 52 0 ++ (a.o.map (leBytes 4)).flatten

/-- FP32 or BF16 bytes of an FP32 value. -/
def outBytes (n v : Nat) : List Byte := if n = 2 then leBytes 2 (convert fp32 bf16 0 false v).1 else leBytes 4 v

/-! ### Jobs (R245, R249) -/

/-- The status of a job that has ended no way: its memory cannot be reached now (R29, R410). -/
def jWaits : Nat := memWait

/-- An engine on the mesh. -/
def engUnit (e : Eng) : Nat × Nat := ((engId e).toNat, 0)

/-- Memory as an engine reads it: an error is recorded. -/
def Hw.engRead (h : Hw) (e : Eng) (alloc : Bool) (a n : Nat) : Hw × Except Nat (List Byte) :=
  match h.memRead (engUnit e) alloc a n with
  | (h, .error kind) => if kind = memWait then (h, .error jWaits) else (h.pfUnc (engDie e) (engBlk e) kind a, .error jMemErr)
  | r => r

/-- Memory as an engine writes it: the status that results. -/
def Hw.engWrite (h : Hw) (e : Eng) (a : Nat) (bs : List Byte) : Hw × Nat :=
  match h.memWrite (engUnit e) a bs with
  | (h, some kind) => (h, if kind = memWait then jWaits else jMemErr)
  | (h, none) => (h, 0)

/-- Reads of several regions in order. -/
def Hw.engReads (h : Hw) (e : Eng) (alloc : Bool) : List (Nat × Nat) → List (List Byte) → Hw × Except Nat (List (List Byte))
  | [], acc => (h, .ok acc.reverse)
  | r :: rs, acc =>
    match h.engRead e alloc r.1 r.2 with
    | (h, .error k) => (h, .error k)
    | (h, .ok bs) => h.engReads e alloc rs (bs :: acc)

/-- The result data of a job, and its status. -/
abbrev JRes := Hw × List Byte × Nat

/-- Whether the stream reads of a job allocate (R230, R257). -/
def Hw.streamAlloc (h : Hw) (e : Eng) (d : List Byte) : Bool :=
  !(jw d 0 / 65536 % 2 == 1 || (decide (e.val < 64) && (h.pg (engDie e) 0x011 0x040).getLsbD 0))

def Hw.gemvJob (h : Hw) (e : Eng) (d : List Byte) : JRes :=
  let n := jw d 0x34
  let k := jw d 0x38
  let j := jw d 0x3C % 16
  let al := h.streamAlloc e d
  match h.engReads e true ((List.range j).map fun i => (ja d 0x20 + 2 * i * k, 2 * k)) [] with
  | (h, .error s) => (h, [], s)
  | (h, .ok xs) =>
    match h.engReads e al ((List.range n).map fun i => (ja d 0x10 + i * jw d 0x30, k / 2)) [] with
    | (h, .error s) => (h, [], s)
    | (h, .ok ws) =>
      match h.engReads e al ((List.range n).map fun i => (ja d 0x18 + i * (k / 32), k / 32)) [] with
      | (h, .error s) => (h, [], s)
      | (h, .ok ss) =>
        let seed := h.free
        let rows := (ws.zip ss).map fun p => mxRow p.1 p.2 k
        let ys := (xs.map (elems bf16)).zipIdx.map fun x => rows.zipIdx.map fun w =>
          outBytes (gemvOut d) (blockSum (seed + (x.2 * n + w.2) * (k / 32)) (w.1.zip x.1))
        ({ h with free := seed + j * n * (k / 32) }, (ys.map List.flatten).flatten, 0)

def Hw.attnJob (h : Hw) (e : Eng) (d : List Byte) : JRes :=
  let w := jw d 0x3C
  let dd := w % 512
  let q := w / 4096 % 16
  let len := jw d 0x34
  let f := match w / 65536 % 4 with | 0 => e4m3 | 1 => e5m2 | _ => bf16
  let row := dd * kvBytes d
  let al := h.streamAlloc e d
  let rd (base : Nat) : List (Nat × Nat) := (List.range len).map fun t => (base + t * jw d 0x30, row)
  match h.engReads e true ((List.range q).map fun i => (ja d 0x10 + 2 * i * dd, 2 * dd)) [] with
  | (h, .error s) => (h, [], s)
  | (h, .ok qs) =>
    match h.engReads e al (rd (ja d 0x18)) [] with
    | (h, .error s) => (h, [], s)
    | (h, .ok ks) =>
      match h.engReads e al (rd (ja d 0x20)) [] with
      | (h, .error s) => (h, [], s)
      | (h, .ok vs) =>
        let seed := h.free
        let per := len * (dd / 32) + len
        let recs := qs.zipIdx.map fun x =>
          let base := seed + x.2 * per
          let toks := (ks.zip vs).zipIdx.map fun t =>
            (f32mul (jw d 0x38) (blockSum (base + len + t.2 * (dd / 32)) ((elems bf16 x.1).zip (elems f t.1.1))), elems f t.1.2)
          attnRecord base len dd toks
        ({ h with free := seed + q * per }, recs.flatten, 0)

/-- The rows of a GATHER before the first bad index, and whether one was met. -/
def gatherRows (d : List Byte) (idx : List Int) : List Nat × Bool :=
  let good := idx.takeWhile fun i => decide (0 ≤ i ∧ i < (jw d 0x34 : Int))
  (good.map Int.toNat, decide (good.length < idx.length))

/-- Reads that stop at an error, with what was read before it. -/
def Hw.engPrefix (h : Hw) (e : Eng) (alloc : Bool) : List (Nat × Nat) → List Byte → Hw × List Byte × Nat
  | [], acc => (h, acc, 0)
  | r :: rs, acc =>
    match h.engRead e alloc r.1 r.2 with
    | (h, .error k) => (h, acc, k)
    | (h, .ok bs) => h.engPrefix e alloc rs (acc ++ bs)

def Hw.gatherJob (h : Hw) (e : Eng) (d : List Byte) : JRes :=
  match h.engRead e true (ja d 0x18) (4 * jw d 0x30) with
  | (h, .error s) => (h, [], s)
  | (h, .ok bs) =>
    let (rows, bad) := gatherRows d ((List.range (jw d 0x30)).map fun i => sgn 32 (leAt bs (4 * i) 4))
    let regs := rows.map fun r => (ja d 0x10 + r * jw d 0x28, jw d 0x38)
    if !(regs.all fun r => h.homeRegion e r) then (h, [], jBadAddr)
    else
      let (h, data, s) := h.engPrefix e (h.streamAlloc e d) regs []
      (h, data, if s ≠ 0 then s else if bad then jBadIndex else 0)

def Hw.reduceJob (h : Hw) (e : Eng) (d : List Byte) : JRes :=
  let n := jw d 0x30
  let f := if reduceIn d = 2 then bf16 else fp32
  match h.engReads e (h.streamAlloc e d) ((List.range (jw d 0x34)).map fun s => (ja d 0x10 + s * jw d 0x18, n * reduceIn d)) [] with
  | (h, .error s) => (h, [], s)
  | (h, .ok srcs) =>
    let val (bs : List Byte) (i : Nat) : Nat :=
      let x := leAt bs (i * reduceIn d) (reduceIn d)
      if reduceIn d = 2 then (convert f fp32 0 false x).1 else x
    let out := (List.range n).map fun i =>
      match srcs.map fun s => val s i with
      | [] => 0
      | v :: vs => vs.foldl f32add v
    (h, (out.map (outBytes (reduceOut d))).flatten, 0)

def Hw.copyJob (h : Hw) (e : Eng) (d : List Byte) : JRes :=
  match h.engRead e (h.streamAlloc e d) (ja d 0x10) (ja d 0x20) with
  | (h, .error s) => (h, [], s)
  | (h, .ok bs) =>
    let (h, s) := h.engWrite e (ja d 0x18) bs
    (h, [], s)

def Hw.fillJob (h : Hw) (e : Eng) (d : List Byte) : JRes :=
  let (h, s) := h.engWrite e (ja d 0x10) (List.replicate (ja d 0x20 / 8) (sub d 0x18 8)).flatten
  (h, [], s)

/-! ### Duration (R254) -/

/-- Bytes of the x or q vectors, arithmetic as operations and operations per mdc, and stream bytes with the most that can be
streamed per mdc. -/
def jobWork (d : List Byte) : Nat × (Nat × Nat) × (Nat × Nat) :=
  let w := jw d 0x3C
  match jtype d with
  | 1 =>
    let n := jw d 0x34
    let k := jw d 0x38
    let j := w % 16
    (2 * j * k, (j * n * k, 512), (n * (k / 2 + k / 32), 512))
  | 2 =>
    let x := w % 512 * jw d 0x34
    let q := w / 4096 % 16
    (2 * q * (w % 512), (2 * x * q, if kvBytes d = 2 then 128 else 256), (2 * x * kvBytes d, 512))
  | 3 => (0, (0, 1), (jw d 0x30 * jw d 0x38, 256))
  | 4 => (0, (0, 1), (jw d 0x34 * jw d 0x30 * reduceIn d, 256))
  | _ => (0, (0, 1), (ja d 0x20, 256))

/-- A quotient rounded one way or the other: the spec counts in whole mdc and gives no rounding (log 97). -/
def Hw.quot (h : Hw) (a b : Nat) : Nat × Hw :=
  if a % b = 0 then (a / b, h) else let (n, h) := h.choose 2; (a / b + n, h)

/-- The mdc that a job takes: 16 + F + max (A, B) + 64, where the bandwidth left by other requesters is open and only its greatest
value is given. Of a job that ends with another status than DONE the spec states no time (log 97). -/
def Hw.jobTime (h : Hw) (d : List Byte) (status : Nat) : Nat × Hw :=
  let (x, h) := h.free64
  if status ≠ 0 then (x.toNat, h)
  else
    let w := jobWork d
    let (f, h) := h.quot w.1 256
    let (a, h) := h.quot w.2.1.1 w.2.1.2
    (16 + f + max a (w.2.2.1 / w.2.2.2 + x.toNat) + 64, h)

/-! ### Results (R250, R251) -/

/-- The result record of one reply. -/
def resultRecord (e : Eng) (d : List Byte) (status part : Nat) (last : Bool) (len off start dur : Nat) : List Byte :=
  sub (leBytes 4 (pack 32 [(24, status), (16, jtype d), (0, leAt d 6 2)]).toNat ++ leBytes 4 (part % 65536 + 65536 * last.toNat) ++
    leBytes 4 len ++ leBytes 4 off ++ leBytes 8 start ++ leBytes 4 dur ++ leBytes 4 (engId e).toNat) 0 64

/-- The replies of a job: its data in parts of 896 bytes, or one final reply without data. -/
def Hw.jobReplies (h : Hw) (e : Eng) (d data : List Byte) (status start dur : Nat) : List Reply :=
  let parts := if toMem d || data.isEmpty then [[]] else chunks 896 data.length data
  let fixed := jdeliver d % 2 == 1
  let route := jw d 0 / 2 ^ 11 % 8
  let v := h.engPg e (0x060 + 4 * route)
  parts.zipIdx.map fun p =>
    let last := p.2 + 1 == parts.length
    let bytes := resultRecord e d (if last then status else 0) p.2 last p.1.length (896 * p.2) start (if last then dur else 0) ++ p.1
    let n := (bytes.length + 63) / 64
    if fixed then { route := some route, dest := frDest v, ring := frRing v, tag := frTag v, bytes := sub bytes 0 (64 * n), n := n }
    else { route := none, dest := BitVec.ofNat 16 (leAt d 4 2), ring := ⟨jw d 0 / 2 ^ 14 % 4, Nat.mod_lt _ (by decide)⟩,
           tag := BitVec.ofNat 16 (leAt d 6 2), bytes := sub bytes 0 (64 * n), n := n + 1 }

/-- The descriptor at the head of the job ring. -/
def Hw.jobHead (h : Hw) (e : Eng) : Option (List Byte) :=
  ((h.ring (engId e) 0).recs.head?).bind fun r => r.msg.map fun m => sub m.bytes 64 64

/-- A job waits for its start beat (R248). -/
def Hw.jobWaits (h : Hw) (e : Eng) (d : List Byte) : Bool :=
  jw d 0 / 256 % 2 == 1 && !decide (((h.die (engDie e)).count - BitVec.ofNat 48 (leAt d 8 6)).toNat < 2 ^ 47)

/-- Where a job with deliver 2 or 3 writes its result. -/
def outAddr (d : List Byte) : Nat := if jtype d = 3 ∨ jtype d = 4 then ja d 0x20 else ja d 0x28

/-- The job at the head of the ring runs, if it is of type `ty`, or of no type at all, and may start (R248, R249, R258); while memory that it needs cannot be reached, it does not
start (log 93). -/
def Hw.runJob (h : Hw) (e : Eng) (ty : Nat) (go : Hw → List Byte → JRes) : Hw :=
  match h.jobHead e with
  | none => h
  | some d =>
    let mine := jtype d == ty || jtype d == 0 || decide (6 < jtype d)
    if !mine || (h.eng e.val).running || !(h.engPg e 0x040).getLsbD 0 || h.jobWaits e d || !h.awake (engDie e) ||
        h.dead (engDie e) (engBlk e) then h
    else
      let old := h
      let start := (h.die (engDie e)).count.toNat
      let c := h.jobCheck e d
      let (h, data, status) := if c ≠ 0 then (h, [], c) else go h d
      let (h, status) := if toMem d && !data.isEmpty then
          let keep := if status = jMemErr then data.take (data.length / 64 * 64) else data
          let (h, s) := h.engWrite e (outAddr d) keep
          (h, if s = 0 then status else s)
        else (h, status)
      if status = jWaits then old
      else
        let (dur, h) := h.jobTime d status
        h.updEng e fun x =>
          { x with running := true, status := BitVec.ofNat 8 status, duration := BitVec.ofNat 32 dur
                   replies := h.jobReplies e d data status start (min dur (2 ^ 32 - 1)) }

/-- JSP_LAST_ERR. -/
def Hw.lastErr (h : Hw) (e : Eng) (status : BitVec 8) : Hw :=
  match h.jobHead e with
  | some d => if status = 0 then h
    else h.setPg (engDie e) (engBlk e) 0x04C (pack 32 [(24, status.toNat), (16, jtype d), (0, leAt d 6 2)])
  | none => h

/-- The head job ends: it leaves the ring and its granules return (R242, R258). -/
def Hw.jobEnds (h : Hw) (e : Eng) : Hw :=
  let x := h.eng e.val
  let h := (h.lastErr e x.status).updEngPg e 0x048 fun v => v + 1
  let h := h.updEngPg e 0x050 fun v => v + x.duration
  let h := h.updEng e fun x => { x with running := false, status := 0, replies := [], duration := 0 }
  h.freed (engId e) 0 fun r => { r with free := r.free + 2, occ := r.occ - 2, ret := r.ret + 2, recs := r.recs.tail }

/-- The first reply is gone: sent, or given up. -/
def Hw.replyGone (h : Hw) (e : Eng) : Hw :=
  match (h.eng e.val).replies with
  | _ :: r :: rs => h.updEng e fun x => { x with replies := r :: rs }
  | _ => h.jobEnds e

/-- Credits of a table with one entry for each destination ring, as engines and endpoints keep (log 23). -/
def tableSpend (t : Tab CEnt) (dest : BitVec 16) (ring : Fin 4) (cost : Nat) : Except (Tab CEnt × Nat) (Tab CEnt) :=
  let e := lookD t (ringKey dest ring) {}
  if cost ≤ e.credits then .ok (put t (ringKey dest ring) { e with credits := e.credits - cost })
  else if e.state = .req then .error (t, 0)
  else .error (put t (ringKey dest ring) { e with dest := dest, ring := ring, state := .req }, cost - e.credits)

/-- JOB_REPLY: the first waiting reply is sent when the engine holds credit for it, which it asks for (R251). A route that
is not valid sends nothing (log 21). -/
def Hw.jobReply (h : Hw) (e : Eng) : Hw :=
  match (h.eng e.val).replies with
  | [] => h
  | r :: _ =>
    let v := match r.route with | some n => (h.engPg e (0x060 + 4 * n)).getLsbD 31 | none => true
    if !v then h.replyGone e
    else
      match tableSpend (h.eng e.val).credits r.dest r.ring (if r.route.isSome then r.n + 1 else r.n) with
      | .ok t =>
        let h := h.updEng e fun x => { x with credits := t }
        let m := match r.route with
          | some n => fixedMsg (engId e) r.dest r.ring r.n r.tag n r.bytes
          | none => normalMsg (engId e) r.dest r.ring r.n r.tag (List.replicate 48 0 ++ r.bytes)
        (h.send { q := if r.route.isSome then .fix else .msg, src := engId e, dest := r.dest, body := .message m }).replyGone e
      | .error (t, need) =>
        let h := h.updEng e fun x => { x with credits := t }
        if need = 0 then h else h.askCredit (.eng e) r.dest r.ring need 0

/-- The running job ends with status 5 and is counted; how long it had run is open (R253, R258; log 97). -/
def Hw.abortRunning (h : Hw) (e : Eng) : Hw :=
  if !(h.eng e.val).running then h
  else
    let h := (h.lastErr e (BitVec.ofNat 8 jAborted)).updEngPg e 0x048 fun v => v + 1
    let (x, h) := h.free64
    h.updEngPg e 0x050 fun v => v + x.setWidth 32

/-- JSP_CTL.abort, and a reset of the engine's die (R253): every job is discarded. -/
def Hw.jspAbort (h : Hw) (e : Eng) : Hw :=
  let h := (h.abortRunning e).updEng e fun x => { x with running := false, status := 0, replies := [], duration := 0 }
  h.freed (engId e) 0 fun r => { r with free := r.free + r.occ, occ := 0, ret := r.wr, recs := [] }

/-- JSP_STAT (R258). -/
def Hw.jspStat (h : Hw) (e : Eng) : W32 :=
  let x := h.eng e.val
  match h.jobHead e with
  | none => 0
  | some d =>
    let st := if x.running then (match x.replies with
        | r :: _ => if (lookD x.credits (ringKey r.dest r.ring) {}).state = .req then 3 else 2
        | [] => 2)
      else if !(h.engPg e 0x040).getLsbD 0 then 4 else if h.jobWaits e d then 1 else 0
    pack 32 [(16, leAt d 6 2), (8, (h.ring (engId e) 0).recs.length), (0, st)]

/-! ### The meanings -/

/-- GEMV (R245). A Jasper engine runs a matrix-vector job. -/
def execGemv (e : Eng) (s : State) : Host.Outcome State Fault Refusal :=
  s.run fun h => h.runJob e 1 fun h d => h.gemvJob e d
/-- ATTN (R245). A Jasper engine runs an attention job. -/
def execAttn (e : Eng) (s : State) : Host.Outcome State Fault Refusal :=
  s.run fun h => h.runJob e 2 fun h d => h.attnJob e d
/-- GATHER (R245). A Jasper engine gathers table rows. -/
def execGather (e : Eng) (s : State) : Host.Outcome State Fault Refusal :=
  s.run fun h => h.runJob e 3 fun h d => h.gatherJob e d
/-- REDUCE (R245). A Jasper engine sums sources. -/
def execReduce (e : Eng) (s : State) : Host.Outcome State Fault Refusal :=
  s.run fun h => h.runJob e 4 fun h d => h.reduceJob e d
/-- COPY (R245). A Jasper engine copies bytes. -/
def execCopyOp (e : Eng) (s : State) : Host.Outcome State Fault Refusal :=
  s.run fun h => h.runJob e 5 fun h d => h.copyJob e d
/-- FILL (R245). A Jasper engine fills with a pattern. -/
def execFill (e : Eng) (s : State) : Host.Outcome State Fault Refusal :=
  s.run fun h => h.runJob e 6 fun h d => h.fillJob e d
/-- JOB_REPLY (R251). An engine sends a reply part once credit allows. -/
def execJobReply (e : Eng) (s : State) : Host.Outcome State Fault Refusal := s.run fun h => h.jobReply e
/-- JASPER_ABORT (R253). JSP_CTL.abort discards the running and queued jobs. -/
def execJasperAbort (e : Eng) (s : State) : Host.Outcome State Fault Refusal :=
  s.run fun h => h.onPage (engDie e) (engBlk e) fun h => h.jspAbort e
/-- JASPER_EN_WRITE (R258). A write of JSP_CTL.en lets the jobs held in the ring start, or holds new ones. -/
def execJasperEnWrite (e : Eng) (en : Bool) (s : State) : Host.Outcome State Fault Refusal :=
  s.run fun h => h.onPage (engDie e) (engBlk e) fun h => h.updEngPg e 0x040 fun v => setBit v 0 en

end Sys2Proof.Machine
end

