-- ==== Sys2Proof/Machine/Net.lean ====
section
/-! DEFINITION. The network dies: frames, queue pairs, work requests and their completions, windows, peers and receive
entries (spec 11 R334–R364, 12 R372, R379, R387). What arrives for a window is in NetIn.lean. -/

namespace Sys2Proof.Machine

/-! ### Registers and tables -/

/-- A register of block `b` of network die `d`. -/
def Hw.npg (h : Hw) (d b o : Nat) : W32 := h.pg (36 + d) b o
def Hw.nbump (h : Hw) (d b o : Nat) : Hw := h.bumpSat (36 + d) b o
/-- TP_DROP_CNT and TP_LOST_CNT (R361). -/
def Hw.tpDrop (h : Hw) (d : Nat) : Hw := h.nbump d 0x010 0x058
def Hw.tpLost (h : Hw) (d : Nat) : Hw := h.nbump d 0x010 0x05C

def Hw.updPort (h : Hw) (p : Nat) (f : Port → Port) : Hw := { h with ports := put h.ports p (f (h.port p)) }
def Hw.qp (h : Hw) (d q : Nat) : Qp := (h.net d).qp q
def Hw.updQp (h : Hw) (d q : Nat) (f : Qp → Qp) : Hw := h.updNet d fun x => { x with qps := put x.qps q (f (x.qp q)) }
def Qp.setState (x : Qp) (n : Nat) : Qp := { x with w := put x.w 0 (setFld (x.word 0) 31 30 n) }
/-- Remote QP's state codes (R364): 0 RESET, 1 RTS, 2 ERR. -/
def qpReset : Nat := 0
def qpRts : Nat := 1
def qpErr : Nat := 2
def NetDie.win (x : NetDie) (w : Nat) : Win := lookD x.wins w {}
def Hw.win (h : Hw) (d w : Nat) : Win := (h.net d).win w
def Hw.updWin (h : Hw) (d w : Nat) (f : Win → Win) : Hw := h.updNet d fun x => { x with wins := put x.wins w (f (x.win w)) }
def Hw.peer (h : Hw) (d p : Nat) : Peer := lookD (h.net d).peers p []

/-- A session is open (R358, R386). -/
def Hw.sesOpen (h : Hw) : Bool := h.k0.session.isSome
/-- The port of QP q of network die d, in the order of R46. -/
def Hw.qpPort (h : Hw) (d q : Nat) : Nat := 4 * d + (h.qp d q).port
/-- A QP that sends and receives: RTS, in an open session, its port up (R336, R339, R358). -/
def Hw.qpLive (h : Hw) (d q : Nat) : Bool :=
  h.sesOpen && h.awake (36 + d) && decide ((h.qp d q).state = qpRts) && (h.port (h.qpPort d q)).up

/-- `n` secured frames leave a port (R360, R379). -/
def Hw.txFrames (h : Hw) (p n : Nat) : Hw :=
  (h.updPg (36 + p / 4) (p % 4) 0x080 fun v => v + BitVec.ofNat 32 n).updPort p fun x =>
    { x with tx := { x.tx with pn := x.tx.pn + BitVec.ofNat 64 n } }

def netIx (d : Nat) : NetId := ⟨d % 2, Nat.mod_lt _ (by decide)⟩
def qpIx (q : Nat) : Fin 2048 := ⟨q % 2048, Nat.mod_lt _ (by decide)⟩

/-- An IP address from four words, low word first; an IPv4 address is the first word (R360, R363). -/
def ipOf (ipv6 : Bool) (w : Nat → W32) : BitVec 128 :=
  if ipv6 then pack 128 [(96, (w 3).toNat), (64, (w 2).toNat), (32, (w 1).toNat), (0, (w 0).toNat)] else (w 0).setWidth 128

/-- The address of a peer entry (R363). -/
def Peer.ipv6 (e : Peer) : Bool := (lookD e 0 0).getLsbD 30
def Peer.ip (e : Peer) : BitVec 128 := ipOf e.ipv6 fun i => lookD e (2 + i) 0
/-- The peer that a QP names (R342). -/
def Hw.qpPeer (h : Hw) (d q : Nat) : Peer := h.peer d (fld ((h.qp d q).word 0) 13 0)

/-- The headers of what a QP sends (R337, R342, R360, R364). -/
def Hw.hdr (h : Hw) (d q : Nat) (psn : BitVec 24) : Hdr :=
  let x := h.qp d q
  let e := h.qpPeer d q
  let port := fld (x.word 6) 31 16
  { dstMac := pack 48 [(32, fld (lookD e 0 0) 15 0), (0, (lookD e 1 0).toNat)], srcMac := Config.portMac (h.qpPort d q)
    vid := BitVec.ofNat 12 (fld (lookD e 0 0) 27 16), ipv6 := e.ipv6
    srcIp := ipOf e.ipv6 fun i => h.npg d x.port (0x050 + 4 * i), dstIp := e.ip
    ttl := BitVec.ofNat 8 (fld (h.npg d x.port 0x060) 15 8), dscp := BitVec.ofNat 6 (fld (x.word 4) 15 10)
    srcPort := BitVec.ofNat 16 (if port = 0 then 0xC000 + 2048 * d + q else port)
    destQp := (x.word 1).setWidth 24, psn := psn }

/-- `n` packets of a QP leave the package; one that is not in RTS, or whose port is down, sends nothing (R336, R339). -/
def Hw.emit (h : Hw) (d q n : Nat) (psn : BitVec 24) (m : Roce) : Hw :=
  if h.qpLive d q then
    { (h.txFrames (h.qpPort d q) n) with out := h.out ++ [.roce (netIx d) (qpIx q) (h.hdr d q psn) m] }
  else h

/-- A READ or fetch-add of a peer, which awaits its first response byte while it waits (R341, R361), and the bytes it names. -/
def reqWaits : InReq → Bool
  | .read _ | .fadd _ _ => true
  | _ => false
def reqLength : InReq → Nat
  | .write r _ _ | .read r => r.length
  | .send _ data => data.length
  | .fadd _ _ => 8
def reqPsn : InReq → BitVec 24
  | .write r _ _ | .read r | .fadd r _ => r.psn
  | .send psn _ => psn

/-- Packets of a message of `n` bytes at the path MTU of 4,096 (R338). -/
def packets (n : Nat) : Nat := Nat.max 1 ((n + 4095) / 4096)

/-- A PSN register advanced modulo 2²⁴. -/
def Qp.advance (x : Qp) (i n : Nat) : Qp := { x with w := put x.w i (setFld (x.word i) 23 0 (fld (x.word i) 23 0 + n)) }

/-- Unspecified bytes (log 6). -/
def Hw.freeBytes (h : Hw) : Nat → Hw × List Byte
  | 0 => (h, [])
  | n + 1 =>
    let (v, h) := h.free64
    let (h, l) := h.freeBytes n
    (h, v.setWidth 8 :: l)

/-- Data bytes from 0x10 on of a message of `n` granules, the bytes behind `bs` being unspecified. -/
def Hw.padded (h : Hw) (bs : List Byte) (n : Nat) : Hw × List Byte :=
  let (h, l) := h.freeBytes (64 * n - 16 - bs.length)
  (h, bs ++ l)

/-! ### Module memory on behalf of a QP (R345, R346) -/

/-- A module-side address in the form of R315: the core and offset of a local one, or a global address; none when it breaks
R345. [63:48] = 0 is a global address. -/
def Hw.netAddr (h : Hw) (a : BitVec 64) (n : Nat) : Option (Nat × Nat ⊕ Nat) :=
  let c := fld a 63 48
  let o := fld a 20 0
  if a.toNat % 8 ≠ 0 then none
  else if c ≠ 0 then
    if fld a 47 21 = 0 ∧ isSite c = true ∧ h.goneSite c = false ∧ o + n ≤ localTop then some (.inl (c, o)) else none
  else if h.populated (fld a 47 0) n then some (.inr (fld a 47 0)) else none

/-- A QP on the mesh: its die's endpoint, on the rows of its port (R482). -/
def Hw.qpUnit (h : Hw) (d q : Nat) : Nat × Nat := (256 * (36 + d), (h.qp d q).port)

/-- The local memory of a core cannot be reached from a QP now, or cannot answer it (R29, R410). -/
def Hw.coreHeld (h : Hw) (d q c : Nat) : Bool :=
  let u := h.qpUnit d q
  let e := meshEntry u.1 u.2
  let x := meshPoint u.1 u.2
  let y := meshPoint c
  !h.awake (dieOf c) || h.routeHeld (entryLink u.1 e) (routeOf 160 e (y.1, y.2.1) 4) ||
    h.routeHeld none (routeOf 160 (y.1, y.2.1) (x.1, x.2.1) x.2.2)

/-- Module memory as a QP reads and writes it; an access that must wait answers `memWait`. -/
def Hw.netRead (h : Hw) (d q : Nat) (a : BitVec 64) (n : Nat) : Hw × Except Nat (List Byte) :=
  if n = 0 then (h, .ok [])
  else match h.netAddr a n with
    | some (.inl (c, o)) => if h.coreHeld d q c then (h, .error memWait) else h.locRead c o n
    | some (.inr o) => h.memRead (h.qpUnit d q) true o n
    | none => (h, .error 1)

def Hw.netWrite (h : Hw) (d q : Nat) (a : BitVec 64) (bs : List Byte) : Hw × Option Nat :=
  match h.netAddr a bs.length with
  | some (.inl (c, o)) => if h.coreHeld d q c then (h, some memWait) else (h.lmWrite c o bs, none)
  | some (.inr o) => h.memWrite (h.qpUnit d q) o bs
  | none => (h, none)

/-! ### Work requests (R344–R347) -/

/-- Completion statuses (R347). -/
def stOk : Nat := 0
def stBadWr : Nat := 1
def stRAccess : Nat := 2
def stRInvalid : Nat := 3
def stROper : Nat := 4
def stRetry : Nat := 5
def stRnr : Nat := 6
def stFlushed : Nat := 7
def stLocal : Nat := 8

def opWrite : Nat := 1
def opWriteImm : Nat := 2
def opRead : Nat := 3
def opSend : Nat := 4
def opFadd : Nat := 5

/-- The request of granule 1, with R345's rules. -/
def Hw.parseWr (h : Hw) (g : List Byte) : Nat × Wr :=
  let w0 := dw g 0
  let op := fld w0 7 0
  let len := (dw g 0x1C).toNat
  let w : Wr := { wrId := BitVec.ofNat 16 (fld w0 31 16), fence := w0.getLsbD 9, signal := w0.getLsbD 8, op := BitVec.ofNat 8 op,
                  laddr := dq g 0x08, roff := dq g 0x10, rkey := dw g 0x18, len := len, val := dq g 0x20,
                  rring := ⟨fld (dw g 0x28) 17 16 % 4, Nat.mod_lt _ (by decide)⟩, rcore := (dw g 0x28).setWidth 16 }
  let ok := decide (1 ≤ op) && decide (op ≤ 5) && decide (fld w0 15 10 = 0) && decide (leAt g 0x2C 20 = 0) &&
    decide (len % 8 = 0) && decide (len ≤ 2 ^ 31) && (op == opWriteImm || op == opSend || len != 0) && (op != opFadd || len == 8) &&
    (op != opSend || dw g 0x18 == 0) && (op == opFadd || op == opWriteImm || dq g 0x20 == 0) &&
    (if len = 0 then decide ((dq g 0x08).toNat % 8 = 0) else (h.netAddr (dq g 0x08) len).isSome)
  (fld (dw g 4) 10 0, { w with bad := !ok })

def Wr.cpl (w : Wr) (status bytes : Nat) (val : BitVec 64) : Cpl :=
  { status := BitVec.ofNat 8 status, op := w.op, wrId := w.wrId, bytes := BitVec.ofNat 32 bytes, val := val, rring := w.rring,
    rcore := w.rcore }
def Wr.reads (w : Wr) : Bool := decide (w.op.toNat = opRead) || decide (w.op.toNat = opFadd)
/-- Request packets that a request sends, and PSNs it takes (R338). -/
def Wr.frames (w : Wr) : Nat := if w.reads then 1 else packets w.len
def Wr.psns (w : Wr) : Nat := if decide (w.op.toNat = opFadd) then 1 else packets w.len

/-- The end of a request that was not sent. -/
def Wr.flush (w : Wr) : Cpl := w.cpl (if w.bad then stBadWr else stFlushed) 0 0

/-- Every request of the QP ends (R339, R347). -/
def Qp.flush (x : Qp) : Qp :=
  { x with sq := [], sent := [], cpls := x.cpls ++ (x.sent ++ x.sq).map Wr.flush, retries := 0, rnrs := 0, rnrWait := false }

/-- A QP leaves RTS: incoming requests that are not admitted are gone, and what is admitted ends without an ACK (R339, R351). -/
def Hw.dropIn (h : Hw) (d q : Nat) : Hw :=
  let h := match (h.qp d q).deliver with
    | some { win := some (w, _), msg := _, psn := _, off := _, data := _ } => h.updWin d w fun x => { x with busy := x.busy - 1 }
    | _ => h
  h.updQp d q fun x => { x with deliver := none, inq := [], msg := x.msg.map fun m => { m with psn := none } }

/-- The oldest request sent ends with a status that moves the QP to ERR (R347). -/
def Hw.qpFail (h : Hw) (d q status : Nat) : Hw :=
  (h.dropIn d q).updQp d q fun x =>
    match x.sent with
    | [] => x.flush.setState qpErr
    | w :: ws => ({ x with sent := ws, cpls := x.cpls ++ [w.cpl status 0 0] }.flush).setState qpErr

/-- The data of the request `w` could not be read: those sent before it are flushed, it ends with LOCALERR, those behind it are
flushed, and the QP enters ERR (R347). -/
def Hw.localErr (h : Hw) (d q : Nat) (before : List Wr) (w : Wr) (sent sq : List Wr) : Hw :=
  (h.dropIn d q).updQp d q fun x =>
    ({ x with sent := sent, sq := sq, cpls := x.cpls ++ before.map Wr.flush ++ [w.cpl stLocal 0 0] }.flush).setState qpErr

/-- The bytes of a request that are not acknowledged, and where they lie. -/
def Wr.left (w : Wr) : Nat := w.len - 4096 * w.acked
def Wr.at (w : Wr) : BitVec 64 := w.laddr + BitVec.ofNat 64 (4096 * w.acked)
/-- What a request sends: nothing for a READ or fetch-add. -/
def Hw.source (h : Hw) (d q : Nat) (w : Wr) : Hw × Except Nat (List Byte) :=
  if w.reads then (h, .ok []) else h.netRead d q w.at w.left

/-- The packets of a request leave, from the first that is not acknowledged on (R338, R340). -/
def Hw.transmit (h : Hw) (d q : Nat) (w : Wr) (bs : List Byte) : Hw :=
  h.emit d q (w.frames - if w.reads then 0 else w.acked) (w.first + BitVec.ofNat 24 w.acked)
    (.request w.op (w.roff + BitVec.ofNat 64 (4096 * w.acked)) w.rkey w.val w.left bs)

/-- The head of a QP's queue is served (R345, R346); none while something holds it up. -/
def Hw.serveWr (h : Hw) (d q : Nat) : Option Hw :=
  let x := h.qp d q
  match x.sq with
  | [] => none
  | w :: ws =>
    let pop (h : Hw) : Hw := h.updQp d q fun x => { x with sq := ws }
    if x.cpls ≠ [] ∨ x.rnrWait = true then none
    else if w.bad then
      if x.sent = [] then some ((pop h).updQp d q fun x => { x with cpls := x.cpls ++ [w.flush] }) else none
    else if (w.fence && x.sent.any Wr.reads) || (w.reads && decide (fld (x.word 4) 9 5 ≤ (x.sent.filter Wr.reads).length)) then
      none
    else
      let w := { w with first := (x.word 2).setWidth 24 }
      match h.source d q w with
      | (h, .ok bs) => some (((pop h).updQp d q fun x => { x with sent := x.sent ++ [w] }.advance 2 w.psns).transmit d q w bs)
      | (h, .error k) => if k = memWait then none else some (h.localErr d q x.sent w [] ws)

def Hw.pump : Nat → Hw → Nat → Nat → Hw
  | 0, h, _, _ => h
  | fuel + 1, h, d, q => match h.serveWr d q with | some h => Hw.pump fuel h d q | none => h

/-- The QP's queue is served as far as it can be. -/
def Hw.serveQp (h : Hw) (d q : Nat) : Hw := Hw.pump (h.qp d q).sq.length h d q

/-- The request at the head of the endpoint's ring is taken when its operation is `op`, or none of R345's (R344–R346). -/
def Hw.takeWr (h : Hw) (d op : Nat) : Hw :=
  let dest := BitVec.ofNat 16 ((36 + d) * 256)
  match (h.ring dest 0).recs.head?, h.awake (36 + d) with
  | some { msg := some m, len := n, start := _, pad := _ }, true =>
    let (q, w) := h.parseWr (m.bytes.drop 64)
    if w.op.toNat = op ∨ w.op.toNat = 0 ∨ 5 < w.op.toNat then
      let h := h.freed dest 0 fun r => { r with free := r.free + n, occ := r.occ - n, recs := r.recs.tail }
      if (h.qp d q).state = qpRts then (h.updQp d q fun x => { x with sq := x.sq ++ [w] }).serveQp d q
      else h.updQp d q fun x => { x with cpls := x.cpls ++ [w.flush] }
    else h
  | _, _ => h

/-- The completion message (R347); its bytes behind the record are unspecified. -/
def Hw.cplMsg (h : Hw) (d q : Nat) (c : Cpl) : Hw × Msg :=
  let rec' := leBytes 4 (pack 32 [(16, q), (8, c.op.toNat), (0, c.status.toNat)]).toNat ++ leBytes 4 c.bytes.toNat ++
    leBytes 8 c.val.toNat
  let (h, data) := h.padded rec' 1
  (h, normalMsg (netId (netIx d)) c.rcore c.rring 1 c.wrId data)

/-- Credits of the endpoint are spent, or asked for on the row of the QP's port (R276, R277, R482). -/
def Hw.netSpend (h : Hw) (d q : Nat) (dest : BitVec 16) (ring : Fin 4) (cost : Nat) : Hw × Bool :=
  match tableSpend (h.net d).credits dest ring cost with
  | .ok t => (h.updNet d fun x => { x with credits := t }, true)
  | .error (t, need) =>
    let h := h.updNet d fun x => { x with credits := t }
    (if need = 0 then h
     else h.send { q := .msg, src := netId (netIx d), dest := dest, port := (h.qp d q).port
                   body := .creq (.net (netIx d)) ring need need (h.qp d q).port }, false)

/-- A message of a QP enters the mesh on the row of its port. -/
def Hw.netSend (h : Hw) (d q : Nat) (m : Msg) : Hw :=
  h.send { q := .msg, src := m.src, dest := m.dest, body := .message m, port := (h.qp d q).port }

/-- The first waiting completion of the QP is gone, and the requests behind it are served. -/
def Hw.cplGone (h : Hw) (d q : Nat) : Hw := (h.updQp d q fun x => { x with cpls := x.cpls.tail, asked := false }).serveQp d q

/-- COMPLETION (R347); a QP with none to send goes on with requests that waited for their memory (log 93). -/
def Hw.completion (h : Hw) (d q : Nat) : Hw :=
  match (h.qp d q).cpls, h.awake (36 + d) with
  | [], true => h.serveQp d q
  | c :: _, true =>
    match h.netSpend d q c.rcore c.rring 1 with
    | (h, true) =>
      let (h, m) := h.cplMsg d q c
      (h.netSend d q m).cplGone d q
    | (h, false) => h.updQp d q fun x => { x with asked := true }
  | _, _ => h

/-! ### The requester (R340, R355) -/

/-- Requests are sent again, their sources read again: what cannot be read now waits for the next time-out, and an error in the
data ends its request (R347). -/
def Hw.resendGo : List Wr → List Wr → Hw → Nat → Nat → Hw
  | _, [], h, _, _ => h
  | before, w :: ws, h, d, q =>
    match h.source d q w with
    | (h, .ok bs) => Hw.resendGo (before ++ [w]) ws (h.transmit d q w bs) d q
    | (h, .error k) => if k = memWait then h else h.localErr d q before w ws (h.qp d q).sq

/-- All from the oldest unacknowledged packet on is sent again (go-back-N, R338, R340). -/
def Hw.resend (h : Hw) (d q : Nat) : Hw := Hw.resendGo [] (h.qp d q).sent h d q

/-- A retransmission, or ERR after retry_cnt of them without progress. -/
def Hw.retransmit (h : Hw) (d q : Nat) : Hw :=
  let x := h.qp d q
  if fld (x.word 4) 26 24 ≤ x.retries then h.qpFail d q stRetry
  else (h.updQp d q fun x => { x with retries := x.retries + 1 }).resend d q

/-- The oldest request sent has been acknowledged: it ends OK, and its completion goes out if it asked for one. -/
def Hw.acked (h : Hw) (d q : Nat) (w : Wr) (val : BitVec 64) : Hw :=
  (h.updQp d q fun x =>
    { x with sent := x.sent.tail, retries := 0, rnrs := 0,
             cpls := if w.signal then x.cpls ++ [w.cpl stOk w.len val] else x.cpls }).serveQp d q

/-- `n` more packets of the oldest request sent are acknowledged: progress (R340). -/
def Hw.ackedPart (h : Hw) (d q n : Nat) : Hw :=
  h.updQp d q fun x => match x.sent with
    | [] => x
    | w :: ws => { x with sent := { w with acked := w.acked + n } :: ws, retries := 0, rnrs := 0 }

/-- `n` packets from the oldest unacknowledged one on are acknowledged. A READ or fetch-add, which only its response ends, stops
this; whether it did not. -/
def Hw.ackUpTo : Nat → Hw → Nat → Nat → Nat → Hw × Bool
  | 0, h, _, _, _ => (h, true)
  | fuel + 1, h, d, q, n =>
    match (h.qp d q).sent with
    | [] => (h, true)
    | w :: _ =>
      if n = 0 then (h, true)
      else if w.reads then (h, false)
      else if w.psns - w.acked ≤ n then Hw.ackUpTo fuel (h.acked d q w 0) d q (n - (w.psns - w.acked))
      else (h.ackedPart d q n, true)

/-- The PSN of the oldest unacknowledged packet, and how many follow it, itself included. -/
def Qp.una (x : Qp) : BitVec 24 :=
  match x.sent with
  | [] => (x.word 2).setWidth 24
  | w :: _ => w.first + BitVec.ofNat 24 w.acked
def Qp.unacked (x : Qp) : Nat := (x.sent.map fun w => w.psns - w.acked).sum

/-- A packet of the response to the oldest request, which is a READ or fetch-add: its data is written (R346). -/
def Hw.response (h : Hw) (d q : Nat) (w : Wr) (bs : List Byte) : Hw :=
  let bs := sub bs 0 (Nat.min 4096 w.left)
  match h.netWrite d q w.at bs with
  | (h', some k) => if k = memWait then h else h'.qpFail d q stLocal
  | (h, none) =>
    if w.acked + 1 < w.psns then h.ackedPart d q 1
    else h.acked d q w (if w.op.toNat = opFadd then BitVec.ofNat 64 (leNat bs) else 0)

/-- What the oldest request meets (R340, R347). -/
def Hw.answered (h : Hw) (d q : Nat) (a : Ack) : Hw :=
  let x := h.qp d q
  match x.sent, a with
  | [], _ => h
  | _, .ack => h
  | w :: _, .data bs => if w.reads then h.response d q w bs else h
  | _, .nakSeq => h.retransmit d q
  | _, .nakInvalid => h.qpFail d q stRInvalid
  | _, .nakAccess => h.qpFail d q stRAccess
  | _, .nakOper => h.qpFail d q stROper
  | _, .rnr _ =>
    let n := fld (x.word 4) 23 21
    if n ≠ 7 ∧ n ≤ x.rnrs then h.qpFail d q stRnr
    else h.updQp d q fun x => { x with rnrs := x.rnrs + 1, rnrWait := true }

/-- What a requester receives (R340, R346, R347), at a PSN: every packet before it is acknowledged, with an ACK that packet too.
A response that is missing, and a sequence error, make the QP go back; a PSN that is not outstanding is ignored (log 75). -/
def Hw.ackReceive (h : Hw) (d q : Nat) (psn : BitVec 24) (a : Ack) : Hw :=
  let x := h.qp d q
  let n := (psn - x.una).toNat
  if !h.qpLive d q || decide (x.unacked ≤ n) then h
  else match Hw.ackUpTo x.sent.length h d q (if a = .ack then n + 1 else n) with
    | (h, true) => h.answered d q a
    | (h, false) => h.retransmit d q

/-- ACK_TIMEOUT (R340): a QP of a closed session has no timer. -/
def Hw.ackTimeout (h : Hw) (d q : Nat) : Hw :=
  let x := h.qp d q
  if x.sent = [] ∨ x.rnrWait = true ∨ x.state ≠ qpRts then h else h.retransmit d q

/-- RNR_TIMER_EXPIRY (R340). -/
def Hw.rnrExpiry (h : Hw) (d q : Nat) : Hw :=
  if (h.qp d q).rnrWait then ((h.updQp d q fun x => { x with rnrWait := false }).resend d q).serveQp d q else h

/-- Whether `gap` µs have passed since a time. -/
def passed (since : Option Nat) (gap now : Nat) : Bool := match since with | none => true | some t => decide (t + gap ≤ now)

def Hw.cnpGap (h : Hw) (d : Nat) : Nat := fld (h.npg d 0x010 0x040) 15 8

/-- A CNP cuts the rate, held in Mbit/s (R355). -/
def Hw.cnpReceive (h : Hw) (d q : Nat) : Hw :=
  if !h.qpLive d q then h
  else
    let h := h.bump (36 + d) 0x010 0x054
    let cut := fld (h.npg d 0x010 0x040) 7 0
    let rmin := 1000 * fld (h.npg d 0x010 0x044) 7 0
    if passed (h.qp d q).lastCut (h.cnpGap d) h.us then
      h.updQp d q fun x => { x with rate := Nat.max rmin (x.rate * (256 - cut) / 256), lastCut := some h.us }
    else h

def Hw.rateIncrease (h : Hw) (d q : Nat) : Hw :=
  if (h.qp d q).state = qpRts then
    h.updQp d q fun x => { x with rate := Nat.min 400000 (x.rate + 100 * fld (h.npg d 0x010 0x044) 31 16) }
  else h

/-! ### QP_CMD (R339) -/

def Hw.qpSel (h : Hw) (d : Nat) : Nat := fld (h.npg d 0x013 0x040) 10 0

def Hw.qpOpen (h : Hw) (d : Nat) : Hw :=
  let q := h.qpSel d
  let x := h.qp d q
  if x.state ≠ qpReset ∨ (lookD (h.qpPeer d q) 0 0).getLsbD 31 = false ∨ h.fused (36 + d) x.port = true ∨
      h.svc (36 + d) x.port = 1 then
    h.accErr (36 + d) 0x013 0x044 4
  else if fld (x.word 4) 31 27 = 0 ∨ fld (x.word 4) 9 5 < 1 ∨ 16 < fld (x.word 4) 9 5 then h.accErr (36 + d) 0x013 0x044 3
  else h.updQp d q fun x =>
    { x with retries := 0, rnrs := 0, rnrWait := false, rate := 400000, lastCut := none, lastCnp := none, savedAtomic := [] }
      |>.setState qpRts

/-- A QP moves to RESET: its requests are flushed and its timers stop. A message that waits for credit is not accepted. -/
def Hw.toReset (h : Hw) (d q : Nat) : Hw :=
  (h.dropIn d q).updQp d q fun x => { x.flush with rate := 400000, lastCut := none, lastCnp := none }.setState qpReset

/-- A write of QP_CMD (R364). -/
def Hw.qpCmd (h : Hw) (d : Nat) (v : W32) : Hw :=
  match fld v 1 0 with
  | 1 => h.qpOpen d
  | 2 => h.toReset d (h.qpSel d)
  | 0 => h
  | _ => h.accErr (36 + d) 0x013 0x044 3

/-- A write of QP_W0–QP_W6 (R364). -/
def Hw.qpWrite (h : Hw) (d i : Nat) (v : W32) : Hw :=
  let q := h.qpSel d
  let mask : W32 := [0x30003FFF, 0xFFFFFF, 0xFFFFFF, 0xFFFFFF, 0xFFFFFFE0, 0xFFFF0003, 0xFFFFFFFF].getD i 0
  if (h.qp d q).state ≠ qpReset then h.accErr (36 + d) 0x013 (0x048 + 4 * i) 4
  else h.updQp d q fun x => { x with w := put x.w i (merge mask (x.word i) v) }

/-! ### Windows, peers and receive entries (R349, R362, R363, R387) -/

/-- The entry that a write of WIN_W0 would open is refused (R349). -/
def Hw.winRefused (h : Hw) (w : Tab W32) : Bool :=
  let g (i : Nat) : W32 := lookD w i 0
  let ty := fld (g 0) 30 29
  let base := (g 2).toNat + 2 ^ 32 * (g 3).toNat
  let len := 64 * (g 4).toNat
  let site := fld (g 1) 31 16
  decide (ty = 3) || decide (base % 64 ≠ 0) ||
  (match ty with
   | 0 => !(decide (regBase ≤ base) && decide (base + len ≤ regTop))
   | 1 => !(decide (0x0C00 ≤ base) && decide (base + len ≤ localTop) && isSite site && !h.goneSite site)
   | _ => !(decide (base + len ≤ cxlBase) && h.populated base len)) ||
  ((g 5).getLsbD 31 && !(decide (16 ≤ fld (g 5) 28 24) && decide (fld (g 5) 28 24 ≤ 30)))

def winMask (i : Nat) : W32 := [0xFE3FFFFF, 0xFFFF3FFF, 0xFFFFFFFF, 0xFFFF, 0xFFFFFFFF, 0xFF000000].getD i 0xFFFFFFFF

/-- A write of WIN_W0: the entry with the staged words opens or closes. -/
def Hw.winCommit (h : Hw) (d : Nat) (v : W32) : Hw :=
  let s := fld (h.npg d 0x011 0x040) 9 0
  let v := v &&& winMask 0
  let old := h.win d s
  if v.getLsbD 31 then
    let w := (h.net d).winStaged.foldl (fun t p => put t p.1 p.2) (put old.w 0 v)
    if h.winRefused w then h.accErr (36 + d) 0x011 0x044 3
    else (h.updWin d s fun x => { x with w := put w 6 0, base6 := 0, ended := 0 }).updNet d fun x => { x with winStaged := [] }
  else (h.updWin d s fun x => { x with w := put x.w 0 v }).updNet d fun x => { x with winStaged := [] }

/-- Writes of the window page: WIN_SEL discards staged words, WIN_W6 sets the counter. -/
def Hw.winSel (h : Hw) (d : Nat) (v : W32) : Hw :=
  let h := if v &&& 0x3FF = h.npg d 0x011 0x040 then h else h.updNet d fun x => { x with winStaged := [] }
  h.setPg (36 + d) 0x011 0x040 (v &&& 0x3FF)
def Hw.winStage (h : Hw) (d i : Nat) (v : W32) : Hw :=
  if i = 6 then h.updWin d (fld (h.npg d 0x011 0x040) 9 0) fun x => { x with w := put x.w 6 v, base6 := v, ended := 0 }
  else h.updNet d fun x => { x with winStaged := put x.winStaged i (v &&& winMask i) }

/-- The peer page: the same staging, PEER_W0 committing (R363). -/
def Hw.peerCommit (h : Hw) (d : Nat) (v : W32) : Hw :=
  let s := fld (h.npg d 0x012 0x040) 13 0
  let w := (h.net d).peerStaged.foldl (fun t p => put t p.1 p.2) (put (h.peer d s) 0 (v &&& 0xCFFFFFFF))
  h.updNet d fun x => { x with peers := put x.peers s w, peerStaged := [] }
def Hw.peerSel (h : Hw) (d : Nat) (v : W32) : Hw :=
  let h := if v &&& 0x3FFF = h.npg d 0x012 0x040 then h else h.updNet d fun x => { x with peerStaged := [] }
  h.setPg (36 + d) 0x012 0x040 (v &&& 0x3FFF)
def Hw.peerStage (h : Hw) (d i : Nat) (v : W32) : Hw := h.updNet d fun x => { x with peerStaged := put x.peerStaged i v }

def Hw.msaSel (h : Hw) (p : Nat) : Nat := fld (h.npg (p / 4) (p % 4) 0x0C0) 5 0
/-- Writes of entry 0, and any while no session is open, are refused (R387). -/
def Hw.msaRefused (h : Hw) (p : Nat) : Bool := !h.sesOpen || decide (h.msaSel p = 0)

/-- A receive entry with staged words, keyed by page offset; its expected PN is 1. -/
def Msa.stage (x : Msa) (t : Tab W32) : Msa :=
  let g (o : Nat) (old : W32) : W32 := (look t o).getD old
  let word (i : Nat) : W32 := BitVec.ofNat 32 (x.key.toNat / 2 ^ (32 * i))
  let salt (i : Nat) : W32 := BitVec.ofNat 32 (x.salt.toNat / 2 ^ (32 * i))
  { x with
    sci := pack 64 [(32, (g 0x0CC (BitVec.ofNat 32 (fld x.sci 63 32))).toNat), (0, (g 0x0C8 (x.sci.setWidth 32)).toNat)]
    ssci := g 0x0D0 x.ssci
    pn := 1
    key := BitVec.ofNat 256 (((List.range 8).map fun i => (g (0x0E0 + 4 * i) (word i)).toNat * 2 ^ (32 * i)).sum)
    salt := BitVec.ofNat 96 (((List.range 3).map fun i => (g (0x100 + 4 * i) (salt i)).toNat * 2 ^ (32 * i)).sum) }

def Hw.msaCommit (h : Hw) (p : Nat) (v : W32) : Hw :=
  if h.msaRefused p then h.accErr (36 + p / 4) (p % 4) 0x0C4 4
  else
    let s := h.msaSel p
    h.updPort p fun x =>
      { x with rx := put x.rx s { (lookD x.rx s {}).stage x.staged with w0 := v &&& 0x80030000 }, staged := [] }
def Hw.msaWriteSel (h : Hw) (p : Nat) (v : W32) : Hw :=
  if !h.sesOpen then h.accErr (36 + p / 4) (p % 4) 0x0C0 4
  else
    let h := if v &&& 0x3F = h.npg (p / 4) (p % 4) 0x0C0 then h else h.updPort p fun x => { x with staged := [] }
    h.setPg (36 + p / 4) (p % 4) 0x0C0 (v &&& 0x3F)
def Hw.msaStage (h : Hw) (p o : Nat) (v : W32) : Hw :=
  if h.msaRefused p then h.accErr (36 + p / 4) (p % 4) o 4 else h.updPort p fun x => { x with staged := put x.staged o v }

/-! ### Frames (R334–R338, R342, R355, R372, R379) -/

/-- The receive entry that accepts a secured frame. -/
def Hw.macsec (h : Hw) (p : Nat) (s : SecTag) : Option Nat :=
  let window := fld (h.npg (p / 4) (p % 4) 0x0A0) 7 0
  match (h.port p).rx.find? fun e => e.2.w0.getLsbD 31 && e.2.sci == s.sci with
  | none => none
  | some (i, e) =>
    if s.icvOk && decide (fld e.w0 17 16 = s.an.toNat) && decide (e.pn.toNat ≤ s.pn.toNat + window) then some i else none

/-- Opcodes of the reliable connected service that carry the operations of R338, as RoCEv2 has them (PRESUMED, log 112): SEND 0,
1, 2 and 4, WRITE 6, 7, 8 and 10, with immediate 9 and 11, READ request 12 and response 13 to 16, ACK 17, atomic ACK 18,
fetch-add 20; and the CNP of R355. -/
def roceOps : List Nat := [0, 1, 2, 4, 6, 7, 8, 9, 10, 11, 12, 13, 14, 15, 16, 17, 18, 20, 0x81]

/-- The index in die `d` of the QP with a number on the wire (R339). -/
def qpOfWire (d : Nat) (n : BitVec 24) : Option (Fin 2048) :=
  let q := n.toNat - 0x1000 - 2048 * d
  if ok : 0x1000 + 2048 * d ≤ n.toNat ∧ q < 2048 then some ⟨q, ok.2⟩ else none

/-- A packet of the subset of R338, to a QP of die `d`. -/
def inSubset (k : Packet) (d : Nat) : Bool :=
  roceOps.contains k.opcode.toNat && k.pkey == 0xFFFF && decide (k.payload ≤ 4096) && (qpOfWire d k.destQp).isSome

/-- The peer of a QP has a packet's source address and VLAN ID (R342). -/
def Hw.fromPeer (h : Hw) (d q : Nat) (k : Packet) : Bool :=
  let e := h.qpPeer d q
  k.srcIp == e.ip && decide (fld (lookD e 0 0) 27 16 = k.vid.toNat)

/-- The packet inside an accepted frame: discards of R338 and R342, and the CNP of a marked one (R355). -/
def Hw.packetIn (h : Hw) (p : Nat) (k : Packet) : Hw :=
  let d := p / 4
  if !inSubset k d || k.fragment then h.tpDrop d
  else match qpOfWire d k.destQp with
    | none => h
    | some n =>
      let q := n.val
      if (h.qp d q).state ≠ qpRts then h
      else if !h.fromPeer d q k then h.tpDrop d
      else if k.ce && passed (h.qp d q).lastCnp (h.cnpGap d) h.us then
        ((h.updQp d q fun x => { x with lastCnp := some h.us }).bump (36 + d) 0x010 0x050).emit d q 1 0 .cnp
      else h

/-- An unsecured frame for K0 (R372): UDP to port 58,784 in a packet without options or extension headers. -/
def attDgram (g : Dgram) : Bool := g.bare && g.udpPort == some 58784

def Hw.frameIn (h : Hw) (p : Nat) (f : Frame) : Hw :=
  let d := 36 + p / 4
  let b := p % 4
  let count (o : Nat) (h : Hw) : Hw := h.bumpSat d b o
  let accept (h : Hw) : Hw := h.bump d b 0x070
  let h := if f.fecOk then h else count 0x084 h
  let (struck, h) := h.inject d b 1
  if !f.fcsOk || struck.isSome || decide (f.length < 64) || decide (4352 < f.length) then count 0x074 h
  else if f.pause then count 0x078 h
  else if f.destMac != Config.portMac p then count 0x074 h
  else match f.sec with
    | none => if f.dgram.any attDgram then accept h else count 0x074 h
    | some s =>
      if !h.sesOpen then count 0x07C h
      else match h.macsec p s with
        | none => count 0x07C h
        | some i =>
          let h := h.updPort p fun x =>
            { x with rx := upd x.rx i {} fun e => if e.pn.toNat ≤ s.pn.toNat then { e with pn := s.pn + 1 } else e }
          match f.packet with
          | none => accept h
          | some k => if k.icrcOk then (accept h).packetIn p k else h.tpDrop (p / 4)

/-- FRAME_RECEIVE (R337): only a port whose link is up receives. -/
def Hw.frameReceive (h : Hw) (p : Nat) (f : Frame) : Hw :=
  if (h.port p).up && h.awake (36 + p / 4) then h.frameIn p f else h

/-- The ports run from step 4 of a bring-up on (R390). -/
def Hw.portsStarted (h : Hw) : Bool :=
  match h.seqSt with
  | 0 => decide (4 ≤ fld (h.pg 39 0x012 0x040) 27 24)
  | 1 | 2 => true
  | _ => false

/-- PORT_LINK_CHANGE (R336, R360): a port that is FUSED, DEAD or held down does not come up; what
a down port holds is sent again under R340. -/
def Hw.linkChange (h : Hw) (p : Nat) (up : Bool) : Hw :=
  let d := 36 + p / 4
  let b := p % 4
  if up then
    if h.fused d b || h.dead d b || !(h.pg d b 0x040).getLsbD 0 || decide (h.svc d b = 2) || !h.awake d || !h.portsStarted then h
    else h.updPort p fun x => { x with up := true }
  else h.updPort p fun x => { x with up := false }

/-! ### The end of a window message and of a wait for credit (R352, R353) -/

/-- The window message in hand ends (R352): the counter, the event, the immediate, the ACK. -/
def Hw.msgEnd (h : Hw) (d q : Nat) : Hw :=
  match (h.qp d q).msg with
  | some m =>
    let h := h.updQp d q fun x => { x with msg := none }
    let h := h.updWin d m.win fun x => { x with busy := x.busy - 1 }
    let w1 := lookD m.w 1 0
    let w5 := lookD m.w 5 0
    let h :=
      if fld (lookD m.w 0 0) 30 29 = 1 then
        let h := h.updWin d m.win fun x => { x with w := upd x.w 6 0 fun v => v + 1, ended := x.ended + 1 }
        if w5.getLsbD 31 then
          h.send
            { q := .msg, src := netId (netIx d), dest := BitVec.ofNat 16 (fld w1 31 16), port := (h.qp d q).port
              body := .event (tidOf (fld w5 30 29)) ⟨fld w5 28 24 % 32, Nat.mod_lt _ (by decide)⟩ }
        else h
      else h
    let h := match m.imm with | some i => h.netSend d q i | none => h
    match m.psn with | some psn => h.emit d q 1 psn .ack | none => h
  | none => h

/-- SEND_CREDIT_TIMEOUT, and a RETRY or DENY: RNR NAK with the QP's min_rnr (R353). -/
def Hw.rnrNak (h : Hw) (d q : Nat) : Hw :=
  match (h.qp d q).deliver with
  | none => h
  | some x =>
    let h := match x.win with
      | some (w, _) => h.updWin d w fun x => { x with busy := x.busy - 1 }
      | none => h
    (h.updQp d q fun x => { x with deliver := none }).emit d q 1 x.psn (.rnrNak (BitVec.ofNat 5 (fld ((h.qp d q).word 4) 20 16)))

/-! ### Session and resets (R358) -/

/-- Every QP of a die moves to RESET and every window closes, the key of window 0 being lost (R383); the peer table is kept. -/
def Hw.netClose (h : Hw) (d : Nat) : Hw :=
  let h := ((h.net d).qps.map fun p => p.1).foldl (fun h q => h.toReset d q) h
  h.updNet d fun x =>
    { x with wins := x.wins.map fun p =>
        (p.1, { p.2 with w := upd p.2.w 0 0 fun v => if p.1 = 0 then setFld (setBit v 31 false) 21 0 0 else setBit v 31 false }) }

/-- Blocks 0x010–0x013 of network dies lose everything at a DIE reset of theirs (R358). -/
def Hw.netClear (h : Hw) (d : Nat) : Hw := { h with nets := del h.nets d }

/-! ### The meanings -/

/-- FRAME_RECEIVE (R337). A port checks a received frame and passes or discards it. -/
def execFrameReceive (p : PortId) (f : Frame) (s : State) : Host.Outcome State Fault Refusal :=
  s.run fun h => h.frameReceive p.val f
/-- PORT_LINK_CHANGE (R336). A port's link comes up or goes down. -/
def execPortLinkChange (p : PortId) (up : Bool) (s : State) : Host.Outcome State Fault Refusal :=
  s.run fun h => h.linkChange p.val up
/-- WR_WRITE (R345). A work request for an RDMA WRITE. -/
def execWrWrite (d : NetId) (s : State) : Host.Outcome State Fault Refusal := s.run fun h => h.takeWr d.val opWrite
/-- WR_WRITE_IMM (R345). A work request for WRITE with immediate. -/
def execWrWriteImm (d : NetId) (s : State) : Host.Outcome State Fault Refusal :=
  s.run fun h => h.takeWr d.val opWriteImm
/-- WR_READ (R345). A work request for an RDMA READ. -/
def execWrRead (d : NetId) (s : State) : Host.Outcome State Fault Refusal := s.run fun h => h.takeWr d.val opRead
/-- WR_SEND (R345). A work request for a SEND. -/
def execWrSend (d : NetId) (s : State) : Host.Outcome State Fault Refusal := s.run fun h => h.takeWr d.val opSend
/-- WR_FADD (R345). A work request for a fetch-add. -/
def execWrFadd (d : NetId) (s : State) : Host.Outcome State Fault Refusal := s.run fun h => h.takeWr d.val opFadd
/-- COMPLETION (R347). The network die sends a completion message when credit allows. -/
def execCompletion (d : NetId) (q : Fin 2048) (s : State) : Host.Outcome State Fault Refusal :=
  s.run fun h => h.completion d.val q.val
/-- ACK_RECEIVE (R340). A requester QP receives an ACK, NAK or response. -/
def execAckReceive (d : NetId) (q : Fin 2048) (a : Answer) (s : State) : Host.Outcome State Fault Refusal :=
  s.run fun h => h.ackReceive d.val q.val a.psn a.ack
/-- ACK_TIMEOUT (R340). The acknowledgement timer expires and the QP retransmits or enters ERR. -/
def execAckTimeout (d : NetId) (q : Fin 2048) (s : State) : Host.Outcome State Fault Refusal :=
  s.run fun h => h.ackTimeout d.val q.val
/-- RNR_TIMER_EXPIRY (R340). The RNR wait ends and the QP retries. -/
def execRnrTimerExpiry (d : NetId) (q : Fin 2048) (s : State) : Host.Outcome State Fault Refusal :=
  s.run fun h => h.rnrExpiry d.val q.val
/-- CNP_RECEIVE (R355). A CNP cuts the QP's send rate. -/
def execCnpReceive (d : NetId) (q : Fin 2048) (s : State) : Host.Outcome State Fault Refusal :=
  s.run fun h => h.cnpReceive d.val q.val
/-- RATE_INCREASE (R355). inc_us passes without a CNP and the rate rises. -/
def execRateIncrease (d : NetId) (q : Fin 2048) (s : State) : Host.Outcome State Fault Refusal :=
  s.run fun h => h.rateIncrease d.val q.val
/-- QP_OPEN (R339). QP_CMD OPEN moves a QP from RESET to RTS. -/
def execQpOpen (d : NetId) (s : State) : Host.Outcome State Fault Refusal :=
  s.run fun h => h.onPage (36 + d.val) 0x013 fun h => h.qpOpen d.val
/-- QP_CLOSE (R339). QP_CMD CLOSE moves a QP to RESET, flushing work. -/
def execQpClose (d : NetId) (s : State) : Host.Outcome State Fault Refusal :=
  s.run fun h => h.onPage (36 + d.val) 0x013 fun h => h.qpCmd d.val 2
/-- WINDOW_OPEN (R349). WIN_W0 with valid = 1 opens a window entry. -/
def execWindowOpen (d : NetId) (v : BitVec 32) (s : State) : Host.Outcome State Fault Refusal :=
  s.run fun h => h.onPage (36 + d.val) 0x011 fun h => h.winCommit d.val (setBit v 31 true)
/-- WINDOW_CLOSE (R349). WIN_W0 with valid = 0 closes a window entry. -/
def execWindowClose (d : NetId) (v : BitVec 32) (s : State) : Host.Outcome State Fault Refusal :=
  s.run fun h => h.onPage (36 + d.val) 0x011 fun h => h.winCommit d.val (setBit v 31 false)
/-- PEER_COMMIT (R363). A PEER_W0 write commits a peer entry. -/
def execPeerCommit (d : NetId) (v : BitVec 32) (s : State) : Host.Outcome State Fault Refusal :=
  s.run fun h => h.onPage (36 + d.val) 0x012 fun h => h.peerCommit d.val v
/-- MSA_COMMIT (R387). An MSA_W0 write commits a MACsec receive entry. -/
def execMsaCommit (p : PortId) (v : BitVec 32) (s : State) : Host.Outcome State Fault Refusal :=
  s.run fun h => h.onPage (36 + p.val / 4) (p.val % 4) fun h => h.msaCommit p.val v

end Sys2Proof.Machine
end

