-- ==== Sys2Proof/Machine/Session.lean ====
section
/-! DEFINITION. Measurement, attestation and sessions: K0's side of spec 12 (R369, R372–R387). -/

namespace Sys2Proof.Machine

/-- The svn_floor fuses: a thermometer code, the part's own and what was blown in the field (R365, R370); the floor is the number
of bits set. -/
def Hw.svnFuses (h : Hw) : BitVec 64 := BitVec.ofNat 64 (2 ^ (Config.svnFuse % 65) - 1) ||| h.k0.svnFuses
def Hw.svnFloor (h : Hw) : Nat := popCount h.svnFuses

def strBytes (s : String) : List Byte := s.toList.map fun c => BitVec.ofNat 8 c.toNat

/-- Bytes of the flash: those below 0x8000 are the part's (R460), an erased one reads 0xFF (log 4). -/
def K0.flashRead (k : K0) (a n : Nat) : List Byte :=
  (List.range n).map fun i => if a + i < 0x8000 then Config.identityArea (a + i) else lookD k.flash (a + i) 0xFF

/-- The certificate and the Tolnus signing key of the identity area (R366, R368, R460). -/
def K0.certificate (k : K0) : List Byte := k.flashRead (Config.certificateAt.1 % 0x8000) (Config.certificateAt.2 % 0x8000)
def K0.signingKey (k : K0) : List Byte := k.flashRead (Config.signingKeyAt % (0x8000 - 2592)) 2592

/-- The identity key pair, public and private, from the seed ξ (R366). -/
def identityKeys : List Byte × List Byte :=
  Config.dsaKeys ((leBytes 64 (Config.sha3 (leBytes 32 Config.uds.toNat ++ strBytes "TLN-UV-IDENTITY")).toNat).take 32)
/-- The certificate's subject key is not the identity key. -/
def K0.certBad (k : K0) : Bool := Config.subjectKey k.certificate != identityKeys.1
/-- The variant code of R43. -/
def variantCode (v : Variant) : Nat := match v with | .uv48 => 0x48 | .uv40 => 0x40
/-- SMAP_VARIANT (R43). -/
def Hw.variantWord (h : Hw) : W32 :=
  pack 32 [(16, 0xA1), (8, variantCode h.variant), (0, h.guarantee)]

/-! ### Measurement registers (R369) -/

def K0.mr (k : K0) (i : Nat) : BitVec 512 := lookD k.mrs i 0
/-- MR := SHA3-512(MR ‖ d). -/
def Hw.extend (h : Hw) (i : Nat) (d : List Byte) : Hw :=
  h.updK fun k => { k with mrs := put k.mrs i (Config.sha3 (leBytes 64 (k.mr i).toNat ++ d)) }

/-- A write of MR_EXT_CTL: MR6 or MR7 with the sixteen words last staged (R385). -/
def Hw.mrExtend (h : Hw) (v : W32) : Hw :=
  h.extend (if v.getLsbD 0 then 7 else 6) ((List.range 16).map fun i => leBytes 4 (h.pg 39 0x010 (0x080 + 4 * i)).toNat).flatten

/-! ### The attestation endpoint (R372–R374) -/

def sesBlk : Nat := 0x011
def Hw.sesCount (h : Hw) (o : Nat) : Hw := h.bumpSat 39 sesBlk o
/-- SES_STAT (R386). -/
def Hw.sesStat (h : Hw) : W32 :=
  pack 32 [(31, h.sesOpen.toNat), (30, (decide (h.seqSt = 3)).toNat), (29, h.k0.owner.isSome.toNat),
    (0, fld (h.pg 39 sesBlk 0x040) 15 0)]

/-- Types of a datagram (R373). -/
def tAttRsp : Nat := 2
def tCertRsp : Nat := 4
def tSesAck : Nat := 6
def tErr : Nat := 7

/-- The addresses of the request, exchanged (R372). -/
def attHdr (p : PortId) (a : AttMsg) : AttHdr :=
  { dstMac := a.srcMac, srcMac := Config.portMac p.val, ipv6 := a.ipv6, srcIp := a.dstIp, dstIp := a.srcIp
    srcPort := 58784, dstPort := a.srcPort }

/-- The datagrams of a message: a header of 16 bytes and a segment of at most 4,096 bytes each (R373). -/
def attFrames (p : PortId) (a : AttMsg) (type : Nat) (bs : List Byte) : List Out :=
  (List.range (packets bs.length)).map fun i =>
    .att p (attHdr p a) (leBytes 4 (type * 2 ^ 24) ++ leBytes 4 a.xid.toNat ++ leBytes 4 bs.length ++ leBytes 4 (4096 * i) ++
      (bs.drop (4096 * i)).take 4096)

/-- A message of K0 leaves a port in unsecured datagrams (R372, R373). -/
def Hw.attSend (h : Hw) (p : PortId) (a : AttMsg) (type : Nat) (bs : List Byte) : Hw :=
  { (h.updPg (36 + p.val / 4) (p.val % 4) 0x080 fun v => v + BitVec.ofNat 32 (packets bs.length)) with
    out := h.out ++ attFrames p a type bs }

def eBusy : Nat := 1
def eStale : Nat := 2
def eFormat : Nat := 3
def eOwner : Nat := 4
def eRate : Nat := 5
def Hw.attErr (h : Hw) (p : PortId) (a : AttMsg) (code : Nat) : Hw := h.attSend p a tErr (leBytes 4 code)

/-- Whether datagrams of a port reach K0: its link is up, or it is N0 port 0, whose management MAC K0 has in RECOVERY and
STANDBY (R371, R411). -/
def Hw.attOpen (h : Hw) (p : PortId) : Bool :=
  (h.port p.val).up || (p == 0 && (decide (h.seqSt = 3) || decide (h.seqSt = 4)))

def Hw.dropPartial (h : Hw) (src : BitVec 128) : Hw := h.updK fun k => { k with partials := k.partials.filter fun x => x.src != src }

/-- One segment: the complete message once the last has come (R373). -/
def Hw.segment (h : Hw) (ty : Nat) (a : AttMsg) : Hw × Option (List Byte) :=
  let old := h.k0.partials.find? fun x => x.src == a.srcIp
  let done (h : Hw) (bs : List Byte) : Hw × Option (List Byte) :=
    let h := h.dropPartial a.srcIp
    if bs.length = a.total then (h, some bs)
    else (h.updK fun k =>
      { k with partials := k.partials ++ [{ src := a.srcIp, xid := a.xid, type := BitVec.ofNat 8 ty, total := a.total, data := bs }] },
      none)
  if 4096 < a.data.length ∨ a.total < a.offset + a.data.length then (h.sesCount 0x050, none)
  else match old with
    | some x =>
      if x.xid = a.xid ∧ x.type.toNat = ty ∧ x.total = a.total ∧ x.data.length = a.offset then done h (x.data ++ a.data)
      else
        let h := (h.dropPartial a.srcIp).sesCount 0x050
        if x.xid ≠ a.xid ∧ a.offset = 0 then done h a.data else (h, none)
    | none => if a.offset = 0 then done h a.data else (h.sesCount 0x050, none)

/-- A segment at a port, and what K0 does with the whole message. -/
def Hw.attIn (h : Hw) (p : PortId) (ty : Nat) (a : AttMsg) (serve : Hw → List Byte → Hw) : Hw :=
  if h.attOpen p then
    match h.segment ty a with
    | (h, some bs) => serve h bs
    | (h, none) => h
  else h

/-- ATT_SEGMENT_TIMEOUT (R373): a partly received request is dropped. -/
def Hw.attTimeout (h : Hw) (src : BitVec 128) : Hw :=
  if h.k0.partials.any fun x => x.src == src then (h.dropPartial src).sesCount 0x050 else h

/-- The report but for its signature (R375); before ready its BOOT_STAT has result 1 (R390). -/
def Hw.report (h : Hw) (nonce ek : List Byte) (id : BitVec 64) : List Byte :=
  let w (v : W32) : List Byte := leBytes 4 v.toNat
  leBytes 4 1 ++ leBytes 4 6883 ++
    w h.variantWord ++
    w (if h.seqSt = 0 then setFld (h.pg 39 0x010 0x040) 31 24 1 else h.pg 39 0x010 0x040) ++ leBytes 8 id.toNat ++ leBytes 4 h.svnFloor ++
    w (pack 32 [(2, h.k0.owner.isSome.toNat), (1, (decide (h.seqSt = 3)).toNat), (0, h.sesOpen.toNat)]) ++ nonce ++
    ((List.range 4).map fun i => w (Config.serial i)).flatten ++ leBytes 64 (Config.sha3 identityKeys.1).toNat ++
    ((List.range 8).map fun i => leBytes 64 (h.k0.mr i).toNat).flatten ++ sub ek 0 1568

/-- A complete ATT_REQ (R374). -/
def Hw.serveAtt (h : Hw) (p : PortId) (a : AttMsg) (bs : List Byte) : Hw :=
  let recent := h.k0.served.filter fun t => decide (h.us < t + 1000000)
  if bs.length ≠ 64 then (h.sesCount 0x050).attErr p a eFormat
  else if 64 ≤ recent.length then (h.sesCount 0x050).attErr p a eRate
  else
    let n := h.k0.reportNo + 1
    let id : BitVec 64 := pack 64 [(32, (h.pg 39 0x010 0x048).toNat), (0, n.toNat)]
    let ek := Config.kemKey h.free
    let body := h.report bs ek id
    let rep := body ++ sub (Config.sign identityKeys.2 body) 0 4627
    let h := { h with free := h.free + 1 }
    let h := h.updK fun k =>
      { k with reportNo := n, served := recent ++ [h.us]
               decaps := (if 4 ≤ k.decaps.length then k.decaps.tail else k.decaps) ++ [{ reportId := id, key := ek, report := rep }] }
    (h.bump 39 sesBlk 0x04C).attSend p a tAttRsp rep

/-- A complete CERT_REQ (R373). -/
def Hw.serveCert (h : Hw) (p : PortId) (a : AttMsg) (bs : List Byte) : Hw :=
  if bs.length ≠ 0 then (h.sesCount 0x050).attErr p a eFormat else h.attSend p a tCertRsp h.k0.certificate

/-! ### Sessions (R358, R377–R380, R382) -/

/-- A key of the session (R378); an empty label key for a port and an epoch. -/
def Session.key (s : Session) (label : String) (q e n : Nat) : List Byte :=
  sub (Config.kmac n s.ss (strBytes "TLN-UV SESSION") (s.transcript ++ strBytes label ++ [BitVec.ofNat 8 q] ++ leBytes 4 e)) 0 n

/-- An association with its SAK and salt (R378, R379). -/
def saOf (key : List Byte) (sci : BitVec 64) (ssci : W32) (e : Nat) : Msa :=
  { w0 := pack 32 [(31, 1), (16, e % 4)], sci := sci, ssci := ssci, pn := 1, key := BitVec.ofNat 256 (leAt key 0 32),
    salt := BitVec.ofNat 96 (leAt key 32 12) }

/-- K0 loads the keys of a port in the current epoch; receive entries 1–63 are lost (R379, R380). -/
def Hw.loadPort (h : Hw) (s : Session) (p : Nat) : Hw :=
  let e := (h.pg 39 sesBlk 0x048).toNat
  if h.fused (36 + p / 4) (p % 4) then h
  else h.updPort p fun x =>
    { x with
      tx := saOf (s.key "TX" p e 44) (Config.portMac p ++ (1 : BitVec 16)) 1 e
      rx := put [] 0 (saOf (s.key "RX" p e 44) (s.peerSci.getD p 0) 2 e)
      staged := [] }

/-- A reload of the ports of a die, or of both, in a new epoch (R380). -/
def Hw.reload (h : Hw) (ports : List Nat) : Hw :=
  match h.k0.session with
  | none => h
  | some s => ports.foldl (fun h p => h.loadPort s p) (h.updPg 39 sesBlk 0x048 fun v => v + 1)

/-- Window 0 of a die: the whole register region, for the session peer (R358). -/
def windowZero (key : BitVec 22) : Win :=
  { w := [(0, pack 32 [(31, 1), (28, 1), (27, 1), (0, key.toNat)]), (2, BitVec.ofNat 32 (regBase % 2 ^ 32)),
          (3, BitVec.ofNat 32 (regBase / 2 ^ 32)), (4, BitVec.ofNat 32 ((regTop - regBase) / 64))] }

/-- QP 0 of a die in RTS toward the session peer (R358): port, remote QP number, own and expected PSN; the other words
stay. -/
def Qp.manage (x : Qp) (port : Nat) (remote own peer : BitVec 24) : Qp :=
  let w := put (put x.w 0 (pack 32 [(30, qpRts), (28, port)])) 1 (remote.setWidth 32)
  { x with w := put (put w 2 (own.setWidth 32)) 3 (peer.setWidth 32), rate := 400000, lastCut := none, lastCnp := none }

/-- Peer entry 0 from the frame of SES_OPEN (R377): the next hop is the frame's source MAC. -/
def peerOf (a : AttMsg) (vid : Nat) : Peer :=
  (List.range 4).foldl (fun t i => put t (2 + i) (BitVec.ofNat 32 (a.srcIp.toNat / 2 ^ (32 * i))))
    [(0, pack 32 [(31, 1), (30, a.ipv6.toNat), (16, vid), (0, fld a.srcMac 47 32)]), (1, a.srcMac.setWidth 32)]

/-- The words of SES_OPEN (R377). -/
def sw (b : List Byte) (o : Nat) : W32 := BitVec.ofNat 32 (leAt b o 4)

/-- The session opens (R358, R377). -/
def Hw.openSession (h : Hw) (p : PortId) (a : AttMsg) (b : List Byte) (d : Decap) : Hw :=
  let s : Session :=
    { ss := Config.kemDecap d.key (sub b 0x060 1568), transcript := leBytes 64 (Config.sha3 (d.report ++ b)).toNat,
      peerSci := (List.range 8).map fun i => BitVec.ofNat 64 (leAt b (0x020 + 8 * i) 8),
      qpn := [(sw b 0x010).setWidth 24, (sw b 0x014).setWidth 24], psn := (sw b 0x018).setWidth 24 }
  let (k0, h) := h.free64
  let (k1, h) := h.free64
  let (psn, h) := h.free64
  let h := h.updK fun k => { k with session := some s, decaps := k.decaps.filter fun x => x.reportId != d.reportId }
  let vid := fld (sw b 0x00C) 27 16
  let die (h : Hw) (n : Nat) (key : BitVec 22) (port : Nat) : Hw :=
    ((h.updNet n fun x => { x with peers := put x.peers 0 (peerOf a vid), wins := put x.wins 0 (windowZero key) }).updQp n 0
      fun x => x.manage port (s.qpn.getD n 0) (psn.setWidth 24) s.psn)
  let h := die (die h 0 (k0.setWidth 22) (fld (sw b 0x00C) 1 0)) 1 (k1.setWidth 22) (fld (sw b 0x00C) 3 2)
  let h := (List.range 4).foldl (fun h i =>
    h.setPg (36 + p.val / 4) (p.val % 4) (0x050 + 4 * i) (BitVec.ofNat 32 (a.dstIp.toNat / 2 ^ (32 * i)))) h
  let h := (List.range 8).foldl (fun h q => h.loadPort s q) h
  let h := h.updPg 39 sesBlk 0x040 fun v => BitVec.ofNat 32 (Nat.min (fld v 15 0 + 1) 65535)
  let h := h.pf 0x05 39 0x012 h.sesStat (a.srcIp.setWidth 32)
  h.attSend p a tSesAck (leBytes 8 d.reportId.toNat ++ s.key "CONFIRM" 0 0 64 ++ leBytes 4 (fld k0 21 0 * 1024) ++
    leBytes 4 (fld k1 21 0 * 1024) ++ leBytes 4 (fld psn 23 0) ++ List.replicate 12 0)

/-- A complete SES_OPEN: BUSY, FORMAT, STALE or OWNER at the first failure (R377, R382, R390). -/
def Hw.serveOpen (h : Hw) (p : PortId) (a : AttMsg) (b : List Byte) : Hw :=
  let refuse (code : Nat) : Hw := (h.sesCount 0x054).attErr p a code
  let signed := (sw b 8).getLsbD 0
  if h.sesOpen || h.k0.closing || decide (h.seqSt = 0) then refuse eBusy
  else if b.length ≠ (if signed then 8883 else 0x680) then refuse eFormat
  else match h.k0.decaps.find? fun x => x.reportId == BitVec.ofNat 64 (leAt b 0 8) with
    | none => refuse eStale
    | some d =>
      let ok := match h.k0.owner with
        | none => true
        | some key =>
          signed && sub b 0x680 2592 == key &&
            Config.verify key (leBytes 64 (Config.sha3 (d.report ++ sub b 0 0x10A0)).toNat) (sub b 0x10A0 4627)
      if ok then h.openSession p a b d else refuse eOwner

/-- The session is gone: QPs, windows, keys and epoch (R358, R382). -/
def Hw.endSession (h : Hw) : Hw :=
  let h := (h.netClose 0).netClose 1
  let h := { h with ports := h.ports.map fun (x : Nat × Port) => (x.1, { x.2 with tx := {}, rx := [], staged := [] }) }
  ((h.updK fun k => { k with session := none, closing := false }).setPg 39 sesBlk 0x048 0).setPg 39 sesBlk 0x044 0

/-- SES_CTL.close (R382); with no session open there is nothing to close. -/
def Hw.closeRequest (h : Hw) : Hw :=
  if h.sesOpen then (h.updK fun k => { k with closing := true }).setPg 39 sesBlk 0x044 1 else h

/-- SESSION_CLOSE (R382). -/
def Hw.closeNow (h : Hw) : Hw := if h.k0.closing then h.endSession.pf 0x06 39 0x012 1 0 else h

/-! ### The meanings -/

/-- ATT_REQ (R374). K0 answers an attestation request with a signed report. -/
def execAttReq (p : PortId) (a : AttMsg) (s : State) : Host.Outcome State Fault Refusal :=
  s.run fun h => h.attIn p 1 a fun h bs => h.serveAtt p a bs
/-- CERT_REQ (R373). K0 returns the device certificate. -/
def execCertReq (p : PortId) (a : AttMsg) (s : State) : Host.Outcome State Fault Refusal :=
  s.run fun h => h.attIn p 3 a fun h bs => h.serveCert p a bs
/-- SES_OPEN (R377). K0 checks a session request and opens the session. -/
def execSesOpen (p : PortId) (a : AttMsg) (s : State) : Host.Outcome State Fault Refusal :=
  s.run fun h => h.attIn p 5 a fun h bs => h.serveOpen p a bs
/-- ATT_SEGMENT_TIMEOUT (R373). A partly received request is dropped after 10 ms. -/
def execAttSegmentTimeout (src : BitVec 128) (s : State) : Host.Outcome State Fault Refusal :=
  s.run fun h => h.attTimeout src
/-- ENCAP_KEY_EXPIRE (R374). A report's decapsulation key is dropped after 10 s. -/
def execEncapKeyExpire (reportId : BitVec 64) (s : State) : Host.Outcome State Fault Refusal :=
  s.run fun h => h.updK fun k => { k with decaps := k.decaps.filter fun x => x.reportId != reportId }
/-- SESSION_CLOSE_REQUEST (R382). SES_CTL.close schedules the session close. -/
def execSessionCloseRequest (s : State) : Host.Outcome State Fault Refusal :=
  s.run fun h => h.onPage 39 sesBlk fun h => h.closeRequest
/-- SESSION_CLOSE (R382). 100 µs later the session closes and keys are erased. -/
def execSessionClose (s : State) : Host.Outcome State Fault Refusal := s.run fun h => h.closeNow
/-- MR_EXTEND (R385). Extend MR6 or MR7 with the staged digest. -/
def execMrExtend (v : BitVec 32) (s : State) : Host.Outcome State Fault Refusal :=
  s.run fun h => h.onPage 39 0x010 fun h => h.mrExtend v

end Sys2Proof.Machine
end

