-- ==== Sys2Proof/Machine/Tiers.lean ====
section
/-! DEFINITION. State changes of the memory tiers: the end of a full retrain, CXL enumeration and a CXL port that goes down
(spec 07 R227, R237–R239, R259, R260). -/

namespace Sys2Proof.Machine

/-- The module leaves the ready state (R29, R227). -/
def Hw.leaveReady (h : Hw) : Hw := if h.seqSt = 1 then h.setSeq 2 else h

/-- RETRAIN_COMPLETE (R227): the channel is ready again, or its device is DEAD with both of its channels; the next
requested retrain follows. -/
def Hw.retrainDone (h : Hw) (m : Fin 16) (ch : Fin 8) (pass : Bool) : Hw :=
  if (h.mem m.val).chan ch.val ≠ .retrain then h
  else
    let h := h.pf 0x23 (20 + m.val) 0x010 (BitVec.ofNat 32 ch.val) (bit 32 !pass)
    let h := h.updPg (20 + m.val) 0x010 0x040 fun v => setBit v ch.val false
    let h :=
      if pass then (h.setChan m ch.val .ready).chanResumes m ch.val
      else
        let a := 2 * (ch.val / 2)
        let h := (h.setChan m a .dead).setChan m (a + 1) .dead
        let h := (h.killUnit (0x100 + 4 * (4 * m.val + ch.val / 2)) 3).failNow.leaveReady.publish
        (h.chanResumes m a).chanResumes m (a + 1)
    h.startRetrain m

/-- Mapped sizes of the four ports in 256 MiB units, and whether they interleave (R238). -/
def cxlMap (ilv : Bool) (sizes : List Nat) : List Nat × Bool :=
  if ilv && sizes.all fun s => s != 0 && s == sizes.headD 0 then (sizes.map fun s => Nat.min s 8192, true)
  else
    ((sizes.foldl (fun (a : List Nat × Nat) s => (a.1 ++ [Nat.min s (32768 - a.2)], a.2 + Nat.min s (32768 - a.2))) ([], 0)).1,
      false)

/-- A rate and width at which a port trains (R237, R260). -/
def cxlTrains (x : CxlDev) : Bool := decide (1 ≤ x.rate.toNat ∧ x.rate.toNat ≤ 3) && (x.width == 8 || x.width == 16)

/-- X0 enumerates the devices found (R238, R259, R260); one at another rate or width than a port supports does not come up. -/
def Hw.cxlEnum (h : Hw) (devs : List CxlDev) : Hw :=
  let dev (p : Nat) : Option CxlDev := if h.unitDead (0x420 + 4 * p) then none else devs.find? fun x => x.port.val == p && cxlTrains x
  let (sizes, ilv) := cxlMap ((h.pg 38 0x010 0x040).getLsbD 0) ((List.range 4).map fun p => match dev p with | some x => x.size | none => 0)
  let size (p : Nat) : Nat := sizes.getD p 0
  let h := (List.range 4).foldl (fun h p =>
    let d := dev p
    let h := { h with cxlPorts := put h.cxlPorts p { up := d.isSome, mapped := decide (size p ≠ 0), size := size p } }
    let (link, ident) := match d with
      | some x => ((pack 32 [(8, x.rate.toNat), (0, x.width.toNat)] : W32), x.ident)
      | none => (0, 0)
    (h.setPg 38 (0x020 + p) 0x040 link).setPg 38 (0x020 + p) 0x04C ident) h
  let bits (f : Nat → Bool) : List (Nat × Nat) := (List.range 4).map fun p => (p, (f p).toNat)
  let stat : W32 := pack 32 ([(8, ilv.toNat)] ++ (bits fun p => decide (size p ≠ 0)).map (fun x => (x.1 + 4, x.2)) ++ bits fun p => (dev p).isSome)
  let h := h.setPg 38 0x010 0x044 stat
  let h := h.setPg 38 0x010 0x048 (BitVec.ofNat 32 sizes.sum)
  let h := h.setPg 38 0x010 0x04C (pack 32 [(16, size 1), (0, size 0)])
  let h := h.setPg 38 0x010 0x050 (pack 32 [(16, size 3), (0, size 2)])
  h.updPg 38 0x010 0x040 fun v => setBit v 8 false

/-- A CXL port goes down at run time: DEAD, cause 3, and its range fails until the next enumeration (R239). -/
def Hw.cxlDown (h : Hw) (p : Nat) : Hw :=
  if (h.cxlPort p).up then
    let h := { h with cxlPorts := put h.cxlPorts p { h.cxlPort p with up := false, dead := true } }
    let h := h.updPg 38 0x010 0x044 fun v => setBit v p false
    ((h.setPg 38 (0x020 + p) 0x040 0).killUnit (0x420 + 4 * p) 3).publish
  else h

/-! ### The meanings -/

/-- RETRAIN_COMPLETE (R227). A full retrain ends, passing or marking the device DEAD. -/
def execRetrainComplete (m : Fin 16) (ch : Fin 8) (pass : Bool) (s : State) : Host.Outcome State Fault Refusal :=
  s.run fun h => h.retrainDone m ch pass
/-- CXL_REENUM (R238). Re-enumerate and remap the CXL tier. -/
def execCxlReenum (devs : List CxlDev) (s : State) : Host.Outcome State Fault Refusal :=
  s.run fun h => h.onPage 38 0x010 fun h => h.cxlEnum devs
/-- CXL_PORT_DOWN (R239). A CXL port goes down and is marked DEAD. -/
def execCxlPortDown (p : Fin 4) (s : State) : Host.Outcome State Fault Refusal := s.run fun h => h.cxlDown p.val

end Sys2Proof.Machine
end

