-- ==== Sys2Proof/Machine/Bringup.lean ====
section
/-! DEFINITION. Bring-up: image verification, the nine steps, heats, self-test results and repair (spec 12 R365–R371, spec 13
R388–R399, R417, R418).  One BRING_UP_SEQUENCE command is the end of the step in progress. -/

namespace Sys2Proof.Machine

def seqBlk : Nat := 0x012
def Hw.seqStep (h : Hw) : Nat := fld (h.pg 39 seqBlk 0x040) 27 24
def Hw.setStep (h : Hw) (n : Nat) : Hw := h.updPg 39 seqBlk 0x040 fun v => setFld v 27 24 n
def Hw.heat (h : Hw) : Nat := fld (h.pg 39 seqBlk 0x040) 4 0
def Hw.setHeat (h : Hw) (n : Nat) : Hw := h.updPg 39 seqBlk 0x040 fun v => setFld v 4 0 n
/-- BOOT_STAT (R385). -/
def Hw.bootStat (h : Hw) : W32 := h.pg 39 0x010 0x040
def Hw.updBootStat (h : Hw) (f : W32 → W32) : Hw := h.updPg 39 0x010 0x040 f

/-! ### Verification (R365–R371, R460) -/

/-- The owner record; one of another magic or length counts as absent (R460). -/
def K0.ownerRecord (k : K0) : Option (List Byte) :=
  if leNat (k.flashRead 0x8000 4) = 0x544C4F57 ∧ leNat (k.flashRead 0x8004 4) = 2592 then some (k.flashRead 0x8008 2592) else none

/-- Slot B is selected; any other word is blank (R368, R460). -/
def K0.slotB (k : K0) : Bool := decide (leNat (k.flashRead 0x9000 4) = 0x544C5342)

/-- What an image that verifies says. -/
structure Image where
  svn : Nat
  advance : Bool
  body : List Byte
  deriving DecidableEq, Repr

/-- The image of a kind at a flash offset of a slot, by the steps of R368; the first that fails. A body that would end beyond the
slot has no valid length. -/
def Hw.verifyImage (h : Hw) (kind off : Nat) : Except Nat Image :=
  let hd := h.k0.flashRead off 0x1400
  let len := leAt hd 0x00C 4
  let svn := leAt hd 0x004 4
  if Config.sha3 h.k0.signingKey ≠ Config.vendorKeyDigest then .error 1
  else if leAt hd 0 4 ≠ kind ∨ 2 ≤ leAt hd 0x008 4 ∨ leAt hd 0x050 176 ≠ 0 ∨ leAt hd 0x1313 237 ≠ 0 ∨ len % 64 ≠ 0 ∨
      0x1000000 < off % 0x1000000 + 0x1400 + len then .error 2
  else if Config.verify h.k0.signingKey (leBytes 64 (Config.sha3 (sub hd 0 0x100)).toNat) (sub hd 0x100 4627) = false then .error 3
  else if svn < h.svnFloor then .error 4
  else
    let body := h.k0.flashRead (off + 0x1400) len
    if (Config.sha3 body).toNat ≠ leAt hd 0x010 64 then .error 5
    else .ok { svn := svn, advance := decide (leAt hd 0x008 4 = 1), body := body }

/-- The measurement register of an image kind (R369). -/
def mrOf (kind : Nat) : Nat := if kind = 1 then 0 else kind

/-- The images of a slot one after the other, each measured as it verifies; the first failure with its kind. -/
def Hw.verifyKinds (h : Hw) : List Nat → Nat → List Image → Hw × Except (Nat × Nat) (List Image)
  | [], _, acc => (h, .ok acc)
  | k :: ks, off, acc =>
    match h.verifyImage k off with
    | .error e => (h, .error (e, k))
    | .ok i =>
      (h.extend (mrOf k) (leBytes 64 (Config.sha3 i.body).toNat)).verifyKinds ks (off + 0x1400 + i.body.length) (acc ++ [i])

def slotBase (b : Bool) : Nat := if b then 0x2000000 else 0x1000000

/-- A slot whose images all verify is the one in use (R368, R370). -/
def Hw.useSlot (h : Hw) (b : Bool) (is : List Image) : Hw :=
  (h.updK fun k =>
    { k with image := (is.getD 2 { svn := 0, advance := false, body := [] }).body
             svnTo := if is.any fun i => i.advance then (is.map fun i => i.svn).foldl Nat.max 0 else 0 }).updBootStat
    fun v => setBit v 8 b

/-- Step 2: the selected slot, then the other, then RECOVERY (R368, R371). -/
def Hw.step2 (h : Hw) : Hw :=
  let h := h.updK fun k => { k with owner := k.ownerRecord }
  let h := h.updBootStat fun v => setBit v 9 h.k0.certBad
  let h := h.extend 1 (leBytes 64 (Config.sha3 (leBytes 4 h.variantWord.toNat ++
    leBytes 8 h.svnFuses.toNat ++ leBytes 64 Config.vendorKeyDigest.toNat)).toNat)
  let b := h.k0.slotB
  match h.verifyKinds [1, 2, 3] (slotBase b) [] with
  | (h, .ok is) => (h.useSlot b is).setStep 3
  | (h, .error (s, k)) =>
    let h := h.updBootStat fun v => setFld (setFld (setFld v 31 24 2) 7 4 s) 3 0 k
    let h := h.pf 0x04 39 seqBlk h.bootStat 0
    match h.verifyKinds [1, 2, 3] (slotBase !b) [] with
    | (h, .ok is) => (h.useSlot (!b) is).setStep 3
    | (h, .error _) =>
      let h := (h.updBootStat fun v => setFld v 31 24 3).setSeq 3
      h.pf 0x04 39 seqBlk h.bootStat 0

/-! ### Lane qualification (R391, R392) -/

/-- The errors found on one link: its row of the table, and the lanes retired, spares that fail first. -/
def Link.qualify (l : Link) (es : List LaneErr) (log : Nat) : Link :=
  let bad := es.filter fun e => e.nominal != 0 || e.margin != 0
  let worst := bad.foldl (fun (w : Option LaneErr) e => match w with
    | some x => if x.margin < e.margin then some e else w
    | none => if e.margin = 0 then none else some e) none
  let sat (n : Nat) : W32 := BitVec.ofNat 32 (Nat.min n (2 ^ 32 - 1))
  let l := (bad.filter fun e => decide (64 ≤ e.lane.val)).foldl (fun l e => l.retire e.lane.val) l
  let l := (bad.filter fun e => decide (e.lane.val < 64)).foldl (fun l e => l.retire e.lane.val) l
  { l with
    lanesMargin := BitVec.ofNat 8 (bad.filter fun e => e.margin != 0).length
    lanesNominal := BitVec.ofNat 8 (bad.filter fun e => e.nominal != 0).length
    worstLane := match worst with | some e => BitVec.ofNat 8 e.lane.val | none => 0xFF
    logBits := BitVec.ofNat 8 log
    worstErrors := match worst with | some e => sat e.margin | none => 0
    nominalErrors := sat (bad.map fun e => e.nominal).sum
    replays := 0
    laneErrs := [] }

/-- Every link that is not FUSED is qualified; one with more than four retired lanes is DEAD (R28). -/
def Hw.qualify (h : Hw) (es : List LaneErr) (log : Nat) : Hw :=
  h.liveSlots.foldl (fun h n =>
    let h := h.updLink n fun l => l.qualify (es.filter fun e => linkKey e.slot.val == n) log
    if 4 < (h.link n).lost then h.killLink n else h) h

def Hw.anyLinkDead (h : Hw) : Bool := h.liveSlots.any fun n => (h.link n).dead

/-! ### Dies, memories and the cadence tree (step 4: R226, R238, R302) -/

/-- GDDR7 of every die is out of self-refresh and trained; devices that fail are DEAD, cause 2. -/
def Hw.trainMems (h : Hw) (dead : List (Fin 64)) : Hw :=
  let h := (List.range 16).foldl (fun h m => h.updMem m fun x =>
    { x with selfRefresh := false
             chans := (dead.filter fun i => decide (i.val / 4 = m)).foldl (fun t i =>
               put (put t (2 * (i.val % 4)) .dead) (2 * (i.val % 4) + 1) .dead) [] }) h
  dead.foldl (fun h i => h.killUnit (0x100 + 4 * i.val) 2) h

/-- CAD_LAT: the common latency, to which no measured tree delay comes above (R302). -/
def treeLat (o : BringUpObs) : Nat := o.leafDelays.foldl (fun n p => Nat.max n p.2.val) o.latNs.val

/-- The tree delays are measured: CAD_SKEW, CAD_LAT, the leaves' delays; every leaf of a die that completes step 4 is in step
with the root. A delay that is not reported is free, from 0 to CAD_LAT (R302, log 6); a FUSED die has no leaf (R295). -/
def Hw.measureTree (h : Hw) (o : BringUpObs) : Hw :=
  let h := (h.setPg 39 cadBlk 0x054 (BitVec.ofNat 32 (Nat.min o.skewNs 65535))).setPg 39 cadBlk 0x058 (BitVec.ofNat 32 (treeLat o))
  let h := h.updK fun k => { k with delays := [], late := o.lateDies.filter fun d => d != 39 }
  (List.range 40).foldl (fun h d =>
    if h.fusedDie d || h.k0.late.any (fun x => x.val == d) then h
    else
      let (n, h) := match o.leafDelays.find? fun p => p.1.val == d with
        | some p => (p.2.val, h)
        | none => h.choose (treeLat o + 1)
      let v : W32 := BitVec.ofNat 32 (treeLat o - n)
      ((h.updK fun k => { k with delays := put k.delays d v }).updDie d fun x =>
        { x with sync := true, count := h.k0.rootCount }).setPg d 0x111 0x050 v) h

def Hw.gddrDead (h : Hw) : Bool :=
  ((List.range 64).any fun i => h.unitDead (0x100 + 4 * i) && !h.unitFused (0x100 + 4 * i)) ||
    (List.range 16).any fun m => h.unitDead (0x500 + 4 * m) && !h.unitFused (0x500 + 4 * m)

/-! ### Islands (R393–R396, R480) -/

/-- Bytes whose payload a power loss leaves unspecified: the listed ones become free values (logs 2, 6). -/
def scramble (base : Nat) (m : Memory) : Memory :=
  (m.map fun (x : Host.Cell) => (x.1, (Config.free (base + x.1)).setWidth 8)).filter fun (x : Host.Cell) => x.2 != 0

/-- Repairs of the soft-repair table for a site's arrays (R399). -/
def Hw.siteSrt (h : Hw) (c : Nat) : List Repair :=
  h.k0.srt.filter fun r => r.array != 2 && decide (r.die.toNat = dieOf c) && decide (r.unit.toNat = siteIx c)

/-- An island is powered: its soft repairs apply (R398, R399), local memory is as R480 leaves it, 0x0000–0x003F zeroed, BOOT_LEN
and BOOT_CRC cleared. -/
def Hw.powerIsland (h : Hw) (c hh : Nat) : Hw :=
  let base := h.free
  let h := h.updC c fun k => { k with lmem := (scramble base k.lmem).writeN 0 (List.replicate 64 0), ltag := [], lbad := [] }
  let h := { h with free := base + localTop }
  let h := ((h.setCpg c 0x294 0).setCpg c 0x298 0).setCpg c 0x28C 0
  (h.setPwr c 0).setSite c fun s =>
    { s with powered := true, heat := BitVec.ofNat 5 hh, sendings := 0, awaits := false
             rows := BitVec.ofNat 8 (h.siteSrt c).length }

/-- Whether a step that powers islands is in progress: step 5 of R388, or that of R412. -/
def Hw.heating (h : Hw) : Bool :=
  (decide (h.seqSt = 0) && decide (h.seqStep = 5)) || (decide (h.seqSt = 4) && decide (h.k0.wakeStep = 2))

/-- HEAT_POWER (R393): the heats follow one another. -/
def Hw.heatPower (h : Hw) (hh : Nat) : Hw :=
  if h.heating && decide (h.heat = (if hh = 0 then 31 else hh - 1)) then
    let cs := (List.range 5120).filter fun c => decide (siteIx c % 20 = hh) && !h.goneSite c
    (cs.foldl (fun h c => h.powerIsland c hh) h).setHeat hh
  else h

/-- ISLAND_POWER_GOOD_TIMEOUT (R393). -/
def Hw.noPowerGood (h : Hw) (c : Nat) : Hw :=
  if h.heating && decide (siteIx c % 20 = h.heat) && (h.site c).powered then h.killSite c 3 else h

/-- The boot record of an image (R394). -/
def bootRecord (image : List Byte) : List Byte :=
  leBytes 4 0x544C4E31 ++ leBytes 4 image.length ++ leBytes 4 (crc32c image).toNat ++ List.replicate 52 0

/-- K0 sends the image and its record to a site, or to every site of a die (R394, R395). -/
def Hw.sendImage (h : Hw) (c : Nat) : Hw :=
  if h.goneSite c then h
  else ((h.lmWrite c 0x400 h.k0.image).lmWrite c 0 (bootRecord h.k0.image)).setSite c fun s =>
    { s with sendings := s.sendings + 1, awaits := true }
def sitesOf (d : Nat) : List Nat := (List.range 256).map fun s => d * 256 + s
def Hw.sendDie (h : Hw) (d : Nat) : Hw := (sitesOf d).foldl Hw.sendImage h

/-- A site reads BADCRC for a record that K0 sent. In a bring-up the step's end deals with it; a site released alone, after a DIE
reset or a waking from STANDBY, makes K0 send the image once more, or is DEAD after the second sending (R395). -/
def Hw.badCrc (h : Hw) (c : Nat) : Hw :=
  let h := (h.setBoot c 3).setSite c fun s => { s with awaits := false }
  if h.seqSt = 0 then h
  else if (h.site c).sendings < 2 then h.sendDie (dieOf c)
  else (h.killSite c 4).publish

/-- BOOT_IMAGE_CHECK: a check by the record, or by BOOT_LEN and BOOT_CRC (R395, R396). A record that arrives while K0
sends the image is checked again, whatever the earlier result, and its failure is BADCRC; any other failure is NOIMG. An island
held in OUT checks nothing (R403). -/
def Hw.bootCheck (h : Hw) (c : Nat) : Hw :=
  let st := h.boot c
  let k := h.core c
  let (magic, r) := k.record
  let sent := (h.site c).awaits
  let again := sent && decide (2 ≤ st) && decide (st ≤ 3)
  let tried (h : Hw) : Hw := h.updCpg c 0x28C fun v => setFld v 15 8 (Nat.min (fld v 15 8 + 1) 255)
  let fail (h : Hw) : Hw := if sent then h.badCrc c else h.setBoot c 4
  let accept (h : Hw) : Hw := (h.setBoot c 2).setSite c fun s => { s with awaits := false }
  if h.goneSite c ∨ h.pwr c = 5 ∨ !(st ≤ 1 || again) then h
  else if magic && (st != 1 || r.isSome) then
    match r with
    | some (len, crc) =>
      if k.imageOk len crc then
        accept (((tried h).setCpg c 0x294 (BitVec.ofNat 32 len)).setCpg c 0x298 crc)
      else fail (tried h)
    | none => fail (tried h)
  else if st = 1 then
    if k.imageOk (fld (h.cpg c 0x294) 20 0) (h.cpg c 0x298) then accept (tried h) else fail (tried h)
  else h

/-- A record that has not arrived 1 ms after K0 sent it counts as BADCRC (R395). -/
def Hw.bootTimeout (h : Hw) (c : Nat) : Hw :=
  if (h.site c).awaits = true ∧ h.boot c ≤ 3 ∧ h.pwr c ≠ 5 ∧ (h.core c).record.1 = false ∧ h.goneSite c = false then h.badCrc c
  else h

/-- A live site reads BADCRC and no record of K0 is on its way to it. -/
def Hw.badSite (h : Hw) (c : Nat) : Bool := !h.goneSite c && decide (h.boot c = 3) && !(h.site c).awaits

/-- The sendings of a step (R395): a site that reads BADCRC after the second sending is DEAD, a die with a site that reads it is
sent the image once more, and the step ends with `next` when no site is still waiting. -/
def Hw.imagesDone (h : Hw) (next : Hw → Hw) : Hw :=
  let h := ((List.range 5120).filter fun c => h.badSite c && decide (2 ≤ (h.site c).sendings)).foldl (fun h c => h.killSite c 4) h
  match (List.range 20).filter fun d => (sitesOf d).any h.badSite with
  | [] =>
    if (List.range 5120).any fun c => !h.goneSite c && (decide (h.boot c ≠ 2) || (h.site c).awaits) then h else next h
  | ds => ds.foldl Hw.sendDie h

/-- The end of step 6 (R395). -/
def Hw.step6 (h : Hw) : Hw := h.imagesDone fun h => h.setStep 7

/-! ### Self-test and repair (R397–R399) -/

/-- Step 7: units that fail are DEAD, cause 1. -/
def Hw.step7 (h : Hw) (o : BringUpObs) : Hw :=
  let h := o.deadSites.foldl (fun h c => h.killSite c.val 1) h
  let h := o.deadEngines.foldl (fun h e => h.killUnit (0x200 + 4 * e.val) 1) h
  (o.deadPorts.foldl (fun h p => h.killUnit (0x400 + 4 * p.val) 1) h).setStep 8

def Repair.word (r : Repair) : W32 :=
  pack 32 [(31, 1), (25, r.die.toNat), (17, r.unit.toNat), (15, r.array.toNat), (0, r.row.toNat)]

/-- A repair enters the soft-repair table, or it is full (R399). -/
def Hw.addRepair (h : Hw) (r : Repair) : Hw :=
  if h.k0.srt.contains r then h
  else if 960 ≤ h.k0.srt.length then h.updPg 39 seqBlk 0x060 fun v => setBit v 31 true
  else
    let n := h.k0.srt.length
    ((h.updK fun k => { k with srt := k.srt ++ [r] }).updPg 39 seqBlk 0x060 fun v => setFld v 9 0 (n + 1)).pf 0x28 39 seqBlk
      r.word (BitVec.ofNat 32 n)

/-- Repairs of a site: bank rows as array 0, other rows as array 1. -/
def siteRepairs (x : SiteRows) : List Repair :=
  let die := BitVec.ofNat 6 (dieOf x.site.val)
  let unit := BitVec.ofNat 8 (siteIx x.site.val)
  (x.lmRows.map fun r => { die := die, unit := unit, array := 0, row := BitVec.ofNat 15 (r.1.val * 1024 + r.2.val) }) ++
    x.other.map fun r => { die := die, unit := unit, array := 1, row := BitVec.ofNat 15 r.val }

/-- The spare rows that a site needs, new and earlier ones together, are within its own: 2 per bank, 8 of the others
(R398). -/
def enoughRows (rs : List Repair) : Bool :=
  ((List.range 24).all fun b => decide ((rs.filter fun r => r.array == 0 && decide (r.row.toNat / 1024 = b)).length ≤ 2)) &&
    decide ((rs.filter fun r => r.array == 1).length ≤ 8)

/-- The address of row `brow` of a bank of local memory (R138). -/
def rowAddr (bank brow : Nat) : Nat := 64 * (24 * brow + bank)

/-- The contents of a repaired row of a bank, row number bank × 1,024 + brow, are copied, or, as a free choice, the row could not
be read and the spare row holds free values (R140, R398). -/
def Hw.spareRow (h : Hw) (c row : Nat) : Hw :=
  let (n, h) := h.choose 2
  if n = 0 then h
  else
    let base := h.free
    let a := rowAddr (row / 1024) (row % 1024)
    { h with free := base + 8 }.lmWrite c a
      ((List.range 8).map fun i => leBytes 8 (Config.free (base + i)).toNat).flatten

/-- The rows that step 7 found on a site are repaired; after a repair of local memory the boot ROM checks the image again, and a
site that fails is sent it once more (R398). -/
def Hw.repairSite (h : Hw) (x : SiteRows) : Hw :=
  let c := x.site.val
  let mine := h.siteSrt c
  let new := (siteRepairs x).filter fun r => !mine.contains r
  if h.goneSite c then h
  else if enoughRows (mine ++ new) then
    let h := (new.foldl Hw.addRepair h).setSite c fun s => { s with rows := BitVec.ofNat 8 (mine ++ new).length }
    let banks := new.filter fun r => r.array == 0
    if banks = [] then h
    else
      ((banks.foldl (fun h r => h.spareRow c r.row.toNat) h).setBoot c 0).setSite c fun s => { s with sendings := 1, awaits := true }
  else h.killSite c 2

/-- A memory-side die's failing cache rows; with more than 512 it is DEAD with its devices (R398). -/
def Hw.repairMsc (h : Hw) (m : Fin 16) (rows : List Nat) : Hw :=
  let reps := rows.map fun r => ({ die := BitVec.ofNat 6 (20 + m.val), unit := 0, array := 2, row := BitVec.ofNat 15 r } : Repair)
  let mine := h.k0.srt.filter fun r => r.array == 2 && decide (r.die.toNat = 20 + m.val)
  if (mine ++ reps.filter fun r => !mine.contains r).length ≤ 512 then reps.foldl Hw.addRepair h
  else
    ((List.range 4).foldl (fun h i => h.killUnit (0x100 + 4 * (4 * m.val + i)) 1) (h.killUnit (0x500 + 4 * m.val) 1)).failAt 8

/-- ACTIVE and SPARE in ascending site index (R38). -/
def Hw.assign (h : Hw) : Hw :=
  (List.range 20).foldl (fun h d =>
    let good := (sitesOf d).filter fun c => !h.goneSite c
    let h := (good.take h.guarantee).foldl (fun h c => h.setSite c fun s => { s with st := .active }) h
    (good.drop h.guarantee).foldl (fun h c => h.setSite c fun s => { s with st := .spare }) h) h

/-- The end of step 8, once every image checked again is accepted (R398). -/
def Hw.step8 (h : Hw) (o : BringUpObs) : Hw :=
  let h := o.rows.foldl Hw.repairSite h
  let h := (List.finRange 16).foldl (fun h m => h.repairMsc m ((o.mscRows.filter fun r => r.1 == m).map fun r => r.2)) h
  h.imagesDone fun h => h.assign.setStep 9

/-- Step 9: the owner record is measured, the floor rises, the map is published and measured, sites start, and the module
is ready or FAILED (R369, R370, R388, R389). -/
def Hw.step9 (h : Hw) (o : BringUpObs) : Hw :=
  let h := h.extend 4 (match h.k0.owner with
    | some key => leBytes 64 (Config.sha3 (leBytes 4 0x544C4F57 ++ leBytes 4 2592 ++ key)).toNat
    | none => List.replicate 64 0xFF)
  let h := h.publish
  let h := h.extend 5 (leBytes 64 (Config.sha3 (leBytes 4 (h.pg 39 smapHead 0x050).toNat ++
    leBytes 4 (h.pg 39 smapHead 0x048).toNat)).toNat)
  let h := h.setPg 39 seqBlk 0x05C (BitVec.ofNat 32 o.elapsedMs)
  let n := h.k0.svnTo
  let h := h.updK fun k => if h.svnFloor < n then { k with svnFuses := k.svnFuses ||| BitVec.ofNat 64 (2 ^ n - 1) } else k
  let h := if h.k0.failStep = 0 then
      let h := (h.updBootStat fun v => setFld v 31 24 0).setSeq 1
      h.pf 0x02 39 seqBlk h.bootStat (h.pg 39 seqBlk 0x05C)
    else
      let h := (h.updPg 39 seqBlk 0x040 fun v => setFld v 11 8 h.k0.failStep.toNat).setSeq 2
      h.pf 0x03 39 seqBlk (h.pg 39 seqBlk 0x040) 0
  ((List.range 5120).filter fun c => !h.goneSite c && decide (h.boot c = 2)).foldl (fun h c => h.start c 0) h

/-- The end of the step in progress, with what K0 observed in it. -/
def Hw.bringUpStep (h : Hw) (o : BringUpObs) : Hw :=
  match h.seqStep with
  | 1 => { h.setStep 2 with pins := { h.pins with pwrgd := true } }
  | 2 => h.step2
  | 3 =>
    let h := ({ h with links := [] } : Hw).qualify o.lanes 12
    (if h.anyLinkDead then h.failAt 3 else h).setStep 4
  | 4 =>
    let h := ((h.trainMems o.deadDevices).cxlEnum o.cxl).measureTree o
    (if h.gddrDead || decide (300 < o.skewNs) || !h.k0.late.isEmpty then h.failAt 4 else h).setStep 5
  | 5 => if h.heat = 19 then ((List.range 20).foldl Hw.sendDie h).setStep 6 else h
  | 6 => h.step6
  | 7 => h.step7 o
  | 8 => h.step8 o
  | _ => h.step9 o

/-! ### The meanings -/

/-- BOOT_IMAGE_CHECK (R395). The boot ROM checks a core image against its record. -/
def execBootImageCheck (c : CoreId) (s : State) : Host.Outcome State Fault Refusal := s.run fun h => h.bootCheck c.val
/-- BOOT_RECORD_TIMEOUT (R395). A record not arrived after 1 ms counts as BADCRC. -/
def execBootRecordTimeout (c : CoreId) (s : State) : Host.Outcome State Fault Refusal :=
  s.run fun h => h.bootTimeout c.val

end Sys2Proof.Machine
end

