-- ==== Sys2Proof/Machine/Flash.lean ====
section
/-! DEFINITION. The module flash: reads, programs and erases through K0 block 0x014 (spec 15 R459). -/

namespace Sys2Proof.Machine

def flashBlk : Nat := 0x014

/-- One byte of flash is set; an erased byte is unlisted (log 4). -/
def flashSet (t : Tab Byte) (a : Nat) (b : Byte) : Tab Byte := if b = 0xFF then del t a else put t a b

/-- Bytes of flash from address `a` on are set. -/
def flashSetN : Tab Byte → Nat → List Byte → Tab Byte
  | t, _, [] => t
  | t, a, b :: bs => flashSetN (flashSet t a b) (a + 1) bs

/-- The buffer, low word first. -/
def Hw.flashBuf (h : Hw) : List Byte := (List.range 64).flatMap fun i => leBytes 4 (h.pg 39 flashBlk (0x100 + 4 * i)).toNat

def Hw.flashAddr (h : Hw) : Nat := fld (h.pg 39 flashBlk 0x040) 25 0
def Hw.flashBusy (h : Hw) : Bool := (h.pg 39 flashBlk 0x048).getLsbD 31

/-- The address rule of an operation. -/
def FlashOp.addrOk (op : FlashOp) (a : Nat) : Bool :=
  match op with
  | .read => decide (a + 256 ≤ 0x4000000)
  | .program => decide (a % 256 = 0)
  | .erase => decide (a % 4096 = 0)

/-- Bytes that FLASH_CMD never programs or erases. -/
def flashGuarded (a : Nat) : Bool := decide (a < 0x8000) || (decide (0xA000 ≤ a) && decide (a < 0x1000000))

/-- FLASH_CMD: the command starts, or is refused with its reason. -/
def Hw.flashCmd (h : Hw) (op : FlashOp) : Hw :=
  if op.addrOk h.flashAddr = false then h.accErr 39 flashBlk 0x044 3
  else if h.flashBusy || decide (h.seqSt = 0) || decide (h.k0.wakeStep ≠ 0) || (op != .read && flashGuarded h.flashAddr) then
    h.accErr 39 flashBlk 0x044 4
  else (h.updK fun k => { k with flashOp := some op }).updPg 39 flashBlk 0x048 fun v => setBit v 31 true

/-- Bytes whose programming or erasing did not succeed: each holds its old value, the new one or their AND. -/
def Hw.flashTorn (h : Hw) : Nat → List Byte → Hw
  | _, [] => h
  | a, b :: bs =>
    let old := lookD h.k0.flash a 0xFF
    let (n, h) := h.choose 3
    (h.updK fun k => { k with flash := flashSet k.flash a (if n = 0 then old else if n = 1 then b else old &&& b) }).flashTorn (a + 1) bs

/-- FLASH_STAT at the end of a command. -/
def Hw.flashEnd (h : Hw) (result : Nat) : Hw :=
  (h.updK fun k => { k with flashOp := none }).setPg 39 flashBlk 0x048 (BitVec.ofNat 32 result)

/-- FLASH_COMPLETE: the command in progress ends; `ok` is the outcome of a PROGRAM's verification. -/
def Hw.flashComplete (h : Hw) (ok : Bool) : Hw :=
  match h.k0.flashOp with
  | none => h
  | some .read =>
    let bs := h.k0.flashRead h.flashAddr 256
    let h := (List.range 64).foldl (fun h i => h.setPg 39 flashBlk (0x100 + 4 * i) (BitVec.ofNat 32 (leNat ((bs.drop (4 * i)).take 4)))) h
    h.flashEnd 1
  | some .program =>
    if ok then (h.updK fun k => { k with flash := flashSetN k.flash h.flashAddr h.flashBuf }).flashEnd 1
    else (h.flashTorn h.flashAddr h.flashBuf).flashEnd 2
  | some .erase => (h.updK fun k => { k with flash := flashSetN k.flash h.flashAddr (List.replicate 4096 0xFF) }).flashEnd 1

/-- A reset that ends a PROGRAM or ERASE in progress leaves its bytes as a verify failure does (log 24). -/
def Hw.flashAbort (h : Hw) : Hw :=
  match h.k0.flashOp with
  | none => h
  | some .read => h.flashEnd 0
  | some .program => (h.flashTorn h.flashAddr h.flashBuf).flashEnd 0
  | some .erase => (h.flashTorn h.flashAddr (List.replicate 4096 0xFF)).flashEnd 0

/-! ### The meanings -/

/-- FLASH_READ (R459). Read 256 flash bytes into the buffer. -/
def execFlashRead (s : State) : Host.Outcome State Fault Refusal :=
  s.run fun h => h.onPage 39 flashBlk fun h => h.flashCmd .read
/-- FLASH_PROGRAM (R459). Program the buffer into flash and verify. -/
def execFlashProgram (s : State) : Host.Outcome State Fault Refusal :=
  s.run fun h => h.onPage 39 flashBlk fun h => h.flashCmd .program
/-- FLASH_ERASE (R459). Erase a 4 KiB flash sector. -/
def execFlashErase (s : State) : Host.Outcome State Fault Refusal :=
  s.run fun h => h.onPage 39 flashBlk fun h => h.flashCmd .erase
/-- FLASH_COMPLETE (R459). A flash command ends and FLASH_STAT reports its result. -/
def execFlashComplete (ok : Bool) (s : State) : Host.Outcome State Fault Refusal := s.run fun h => h.flashComplete ok

end Sys2Proof.Machine
end

