-- ==== Sys2Proof/Machine/Reset.lean ====
section
/-! DEFINITION. Resets, loss of power, SLEEP and STANDBY (spec 00 R14–R17; spec 13 R404–R407, R410–R414; spec 16 R463, R464,
R472). -/

namespace Sys2Proof.Machine

/-! ### What a die loses (R291, R404, R405, R414) -/

/-- A core whose island and router lose everything; local memory and the sensors stay. -/
def Core.bare (n : Nat) (k : Core) : Core :=
  { lmem := k.lmem, ltag := k.ltag, lbad := k.lbad, tiles := k.tilesAfter n }

/-- The cores of which `p` holds lose all that. -/
def Hw.bareCores (h : Hw) (p : Nat → Bool) : Hw :=
  { h with cores := h.cores.map fun (x : Nat × Core) => if p x.1 then (x.1, x.2.bare (h.free + 256 * x.1)) else x
           free := h.free + 256 * 5120 }

/-- A unit of die `d` sends or receives the packet. -/
def Pkt.ofDie (p : Pkt) (d : Nat) : Bool := decide (fld p.src 13 8 = d) || decide (fld p.dest 13 8 = d)

/-- An uncached store in the mesh: a reset of its core does not take it back (R150). -/
def MReq.posted (r : MReq) : Bool := r.write && r.unc

/-- Packets and requests of a die are lost, but for posted stores, which go on to their memory or page (R150). -/
def Hw.dropTraffic (h : Hw) (d : Nat) : Hw :=
  { h with flight := h.flight.filter fun p => !p.ofDie d
           reqs := h.reqs.filter fun r => dieOf r.core.val != d || r.posted
           rsps := h.rsps.filter fun r => dieOf r.core.val != d }

def Hw.killHub (h : Hw) (d : Nat) : Hw := (List.range 32).foldl (fun h n => h.updChan (hubKey d n) Chan.kill) h

/-- Engines of a die: every job is discarded and the ring is empty (R253). -/
def Hw.clearEngines (h : Hw) (es : List Nat) : Hw :=
  es.foldl (fun h e =>
    let h := h.abortRunning (engOf e)
    { h with engines := del h.engines e
             rings := del h.rings (ringKey (engId (engOf e)) 0) }) h

/-- The router registers of a core page: MSG_CFG, the fixed routes and the rings (R414). -/
def routerReg (o : Nat) : Bool := o == 0x0D0 || (decide (0x0E0 ≤ o) && decide (o < 0x180))

/-- A full retrain of every channel in turn, out of self-refresh (R227). -/
def Hw.retrainAll (h : Hw) (m : Fin 16) : Hw := (h.updMem m.val fun x => { x with selfRefresh := false }).retrainReq m 0xFF

/-- The leaf of a die comes back: no unit of the die works until it has rejoined (R308). -/
def Hw.rejoin (h : Hw) (d : DieId) : Hw := (h.updDie d.val fun x => { x with sleep := .waking }).leafHold d

/-! ### DIE reset (R405) -/

/-- The kind 3 image of the slot in use, as the flash holds it now. -/
def Hw.rereadImage (h : Hw) : List Byte :=
  let k := h.k0
  let len (o : Nat) : Nat := Nat.min (leNat (k.flashRead (o + 0x00C) 4)) 0x1000000
  let o1 := slotBase (h.bootStat.getLsbD 8)
  let o2 := o1 + 0x1400 + len o1
  let o3 := o2 + 0x1400 + len o2
  k.flashRead (o3 + 0x1400) (len o3)

/-- The image is checked against the one that MR3 was extended with, and sent to a die; a mismatch leaves its sites in
NOIMG. -/
def Hw.resendDie (h : Hw) (d : Nat) : Hw :=
  let cs := (sitesOf d).filter fun c => !h.goneSite c
  let h := cs.foldl (fun h c => h.setSite c fun s => { s with sendings := 0, awaits := false }) h
  if Config.sha3 h.rereadImage = Config.sha3 h.k0.image then (cs.foldl (fun h c => h.setBoot c 0) h).sendDie d
  else (cs.foldl (fun h c => h.setBoot c 4) h).pf 0x1B d seqBlk (BitVec.ofNat 32 d) 0

def Hw.resetCompute (h : Hw) (d : DieId) : Hw :=
  let cs := (sitesOf d.val).filter fun c => !h.goneSite c
  let h := cs.foldl (fun h c => h.clearIsland c) (h.killHub d.val)
  let h := (h.dropTraffic d.val).resetRegs 2 fun x _ => x == d.val
  let h := { h with
    regs := h.regs.filter fun kv => !(decide (kv.1 / 2 ^ 24 = d.val) && decide (kv.1 / 2 ^ 12 % 2 ^ 12 < 256) && routerReg (kv.1 % 2 ^ 12))
    rings := h.rings.filter fun x => dieOf (x.1 / 4) != d.val }
  let h := h.bareCores fun c => dieOf c == d.val
  (h.rejoin d).resendDie d.val

def Hw.resetMemDie (h : Hw) (d : DieId) (m : Fin 16) : Hw :=
  let h := (h.killHub d.val).clearEngines ((List.range 4).map fun e => 4 * m.val + e)
  let h := (h.dropTraffic d.val).resetRegs 2 fun x _ => x == d.val
  let h := h.updMem m.val fun x =>
    { x with lines := [], combines := [], poison := [], chans := x.chans.filter fun c => c.2 == .dead }
  (h.retrainAll m).rejoin d

def Hw.resetNet (h : Hw) (d : DieId) (n : Nat) : Hw :=
  let ps := (List.range 4).map fun p => 4 * n + p
  let h := ((h.netClear n).dropTraffic d.val).resetRegs 2 fun x _ => x == d.val
  let h := { h with rings := del h.rings (ringKey (netId (netIx n)) 0) }
  let h := ps.foldl (fun h p => h.updPort p fun x => { x with up := false, tx := {}, rx := [], staged := [] }) h
  (h.reload ps).rejoin d

/-- X0 enumerates again: a CXL_REENUM command ends the enumeration. -/
def Hw.resetX0 (h : Hw) (d : DieId) : Hw :=
  let h := ((h.clearEngines [64, 65]).dropTraffic 38).resetRegs 2 fun x _ => x == 38
  let h := h.updPg 38 0x010 0x044 fun v => setBit v 9 true
  h.rejoin d

/-- K0's firmware restarts and its image is verified again from the slot in use; partly received requests are lost; the root, the
leaf's count and the always-on domain are kept (R297, R405). What follows an image that fails is not stated: K0 goes on, or
enters RECOVERY, as a free choice (DESIGN CHOICE, log 111). -/
def Hw.resetK0 (h : Hw) : Hw :=
  let slot := h.bootStat.getLsbD 8
  let h := (h.flashAbort.resetRegs 2 fun x _ => x == 39).updK fun k => { k with partials := [] }
  match h.verifyImage 1 (slotBase slot) with
  | .ok _ => h
  | .error _ => let (n, h) := h.choose 2; if n = 0 then h else h.setSeq 3

/-- A DIE reset; one of a FUSED die does nothing. -/
def Hw.dieReset (h : Hw) (d : DieId) : Hw :=
  if h.fused d.val 0x112 || decide (h.seqSt = 3) || decide (h.seqSt = 4) then h
  else
    let h := h.pf 0x01 39 seqBlk (pack 32 [(8, d.val), (0, 7)]) 0
    let h := { h with audits := h.audits.filter fun x => x / 2 ^ 12 != d.val }
    if hm : d.val < 20 then h.resetCompute d
    else if hn : d.val < 36 then h.resetMemDie d ⟨d.val - 20, by omega⟩
    else if d.val < 38 then h.resetNet d (d.val - 36)
    else if d.val = 38 then h.resetX0 d else h.resetK0

/-! ### WARM and COLD (R404, R414) -/

/-- A posted store is performed before a reset of the module takes the mesh: in its line, or in a plain register of its page; what
a register's write starts beside ends with the reset (R150). -/
def Hw.postLands (h : Hw) (r : MReq) : Hw :=
  if r.addr < cxlBase then let (w, h) := h.anyWay; (h.mscWrite (r.addr / 128) r.data r.poison w).1
  else if r.addr < regBase then (h.cxlWrite (r.addr / 128) r.data r.poison).1
  else
    let (d, b, o) := pageOf r.addr
    let v := BitVec.ofNat 32 (leNat (r.data.map (·.2)))
    match regAt h.variant d b o with
    | some g => if g.acc = .rw ∧ h.fused d b = false then h.updPg d b o fun x => (x &&& ~~~g.mask) ||| (v &&& g.mask) else h
    | none => h

/-- Every posted store under way is performed, the held ones first, which arrived before. -/
def Hw.postsLand (h : Hw) : Hw :=
  let held := (h.mems.map fun m => (m.2.combines.map (·.held)).flatten).flatten
  ((held ++ h.reqs).filter (·.posted)).foldl (fun h r => h.postLands r) h

def flushMems (h : Hw) : Hw := (List.range 16).foldl (fun h m => h.mscFlush m) h

/-- What K0 keeps through a WARM or COLD reset (R297, R369, R383, R399). -/
def K0.restart (k : K0) (cold : Bool) : K0 :=
  { svnFuses := k.svnFuses, flash := k.flash, srt := if cold then [] else k.srt, pf := k.pf, pfTotal := k.pfTotal,
    keyGen := if cold then k.keyGen + 1 else k.keyGen, capLevel := k.capLevel, belowCap := k.belowCap, energy := k.energy,
    hottest := k.hottest,
    smapBody := if cold then [] else k.smapBody }

/-- A WARM or COLD reset: the session ends, every die loses what its registers' Kept columns and R414 say, and K0 begins
step 2. -/
def Hw.moduleReset (h : Hw) (cold : Bool) (cause : Nat) : Hw :=
  let h := (if cold then h else flushMems h.postsLand).flashAbort
  let ses := h.sesOpen
  let h := h.resetRegs (if cold then 4 else 3) fun _ _ => true
  let h := if ses then h.endSession.pf 0x06 39 seqBlk (if cold then 3 else 2) 0 else h
  let k := h.k0.restart cold
  let h := h.bareCores fun _ => true
  let h : Hw :=
    { h with
      sites := [], rings := [], chans := [], units := [], cxlPorts := [], nets := [], flight := [], reqs := [], rsps := []
      dies := []
      flitMark := h.nextId
      sensors := [], levels := [], audits := []
      mems := h.mems.map fun (x : Nat × MemDie) =>
        (x.1, { selfRefresh := true, gddrTemps := x.2.gddrTemps })
      engines := []
      ports := []
      gddr := if cold then [] else h.gddr
      cxlMem := if cold then [] else h.cxlMem
      cxlPoison := if cold then [] else h.cxlPoison
      pins := { h.pins with pwrgd := true }
      k0 := k }
  let h := (h.setPg 39 seqBlk 0x048 (BitVec.ofNat 32 cause)).bump 39 0x010 0x048
  h.pf 0x01 39 seqBlk (BitVec.ofNat 32 cause) 0

/-- 10 s in the units of `now`. -/
def tripHold : Nat := 120000000000

/-- A COLD reset by the pin or another cause; one that begins within 10 s of a trip is held (R472). -/
def Hw.coldReset (h : Hw) (cause : Nat) : Hw :=
  if h.powered = false then h
  else match h.k0.trip with
    | none => h.moduleReset true cause
    | some t =>
      if cause ≠ 1 then h
      else if h.now < t + tripHold then h.updK fun k => { k with heldReset := true }
      else h.moduleReset true cause

/-- TRIP_RESET_HOLD_END (R472). -/
def Hw.holdEnd (h : Hw) : Hw := if h.k0.heldReset then h.moduleReset true 1 else h

/-- A WARM reset; none leaves a trip (R472). -/
def Hw.warmReset (h : Hw) (cause : Nat) : Hw := if h.powered && h.k0.trip.isNone then h.moduleReset false cause else h

/-- RESET_PIN (R404): the filter, with the unspecified range. -/
def Hw.resetPin (h : Hw) (ns : Nat) : Hw :=
  if ns < 2000 then h
  else if ns < 10000 then
    let (n, h) := h.choose 2
    if n = 0 then h else h.warmReset 2
  else if ns < 100000000 then h.warmReset 2
  else h.coldReset 1

/-- RST_CTL.cold: in RECOVERY it is the request of R371 (R404, R417). -/
def Hw.rstCold (h : Hw) : Hw := h.coldReset (if h.seqSt = 3 then 6 else 3)

/-- RST_CTL of which several bits are set: the strongest acts. -/
def Hw.rstCtl (h : Hw) (v : W32) : Hw :=
  if v.getLsbD 31 then h.rstCold
  else if v.getLsbD 30 then h.warmReset 4
  else if v.getLsbD 29 then if hd : fld v 5 0 < 40 then h.dieReset ⟨fld v 5 0, hd⟩ else h.accErr 39 seqBlk 0x044 3
  else h

/-! ### Power (R388, R463, R464) -/

/-- POWER reset: everything is lost but the fuses and the flash; what memories hold is unspecified (R236, R480). -/
def Hw.powerReset (h : Hw) : Hw :=
  let f := h.flashAbort
  let b := f.bareCores fun _ => true
  let gen := h.k0.keyGen + 1
  { variant := h.variant, free := b.free, nextId := h.nextId, flitMark := h.nextId, out := h.out, cores := b.cores,
    -- under a new key every byte reads as anything (R236, `Hw.pad`)
    gddr := [], cxlMem := [],
    k0 := { flash := f.k0.flash, svnFuses := h.k0.svnFuses, keyGen := gen } }

/-- POWER_ON: step 1 begins. -/
def Hw.powerOn (h : Hw) : Hw :=
  if h.powered then h
  else ((({ h with powered := true } : Hw).setStep 1).bump 39 0x010 0x048).pf 0x01 39 seqBlk 0 0

/-! ### Sleep of a die (R407, R410) -/

def Hw.mayDieSleep (h : Hw) (d : Nat) : Bool :=
  h.hubQuiet d &&
    (if d < 20 then (sitesOf d).all fun c => h.goneSite c || decide (h.pwr c = 2) || decide (h.svc (dieOf c) (siteIx c) = 2)
     else decide (d < 36) && (List.range 4).all fun e => h.engIdle (4 * (d - 20) + e))

/-- DIE_PWR_CTL.sleep. -/
def Hw.dieSleep (h : Hw) (d : Nat) : Hw :=
  if h.mayDieSleep d then
    let h := (h.leafOff d).updDie d fun x => { x with sleep := .sleep }
    let h := (h.updPg d 0x112 0x044 fun v => setFld v 1 0 1).bumpSat d 0x112 0x048
    if d < 20 then h else h.updMem (d - 20) fun x => { x with selfRefresh := true }
  else h.accErr d 0x112 0x040 4

/-- A sleeping die wakes, with its cause. -/
def Hw.dieWake (h : Hw) (d : DieId) (cause : Nat) : Hw :=
  if (h.die d.val).sleep ≠ .sleep ∨ h.seqSt = 4 then h
  else
    let h := (h.rejoin d).updPg d.val 0x112 0x044 fun v => setFld (setFld v 10 8 cause) 1 0 3
    if hm : 20 ≤ d.val ∧ d.val < 36 then h.retrainAll ⟨d.val - 20, by omega⟩ else h

/-! ### STANDBY (R411, R412) -/

/-- Every die and rail but K0's always-on domain and the management MAC of N0 port 0 loses power (R411, R472); requests for a beat
wait (R307). -/
def Hw.powerOffDies (h : Hw) : Hw :=
  let h := (h.resetRegs 5 fun d _ => d != 39).bareCores fun _ => true
  { h with
    rings := [], chans := [], cxlPorts := [], nets := [], flight := [], reqs := [], rsps := []
    audits := h.audits.filter fun x => x / 2 ^ 12 == 39
    sensors := h.sensors.filter fun x => x.1 / 256 == 39
    levels := []
    flitMark := h.nextId
    sites := h.sites.map fun (x : Nat × Site) => (x.1, { x.2 with powered := false, awaits := false })
    dies := (List.range 40).foldl (fun t d =>
      upd t d {} fun x => { sleep := if h.fusedDie d then .run else .sleep, beatReqs := x.beatReqs }) h.dies
    mems := h.mems.map fun (x : Nat × MemDie) =>
      (x.1, { x.2 with lines := [], combines := [], chans := x.2.chans.filter fun c => c.2 == .dead })
    engines := []
    ports := h.ports.map fun (x : Nat × Port) => (x.1, { x.2 with up := x.2.up && x.1 == 0 }) }

/-- A core that keeps the module out of STANDBY. -/
def Hw.stillRuns (h : Hw) (c : Nat) : Bool :=
  !h.goneSite c && decide (h.boot c = 5) && decide (h.pwr c ≠ 2) && decide (h.svc (dieOf c) (siteIx c) ≠ 2)

/-- The module enters STANDBY once every core has entered RETAIN. -/
def Hw.standbyCheck (h : Hw) : Hw :=
  if h.k0.standbyReq && !((List.range 5120).any h.stillRuns) then
    let h := flushMems h
    let h := (List.range 16).foldl (fun h m => h.updMem m fun x => { x with selfRefresh := true }) h
    let a := h.net 0
    let b := h.net 1
    let saved : Saved := { qp0 := a.qp 0, qp2048 := b.qp 0, win0 := a.win 0, win1 := b.win 0, peer0 := lookD a.peers 0 [],
                           peer1 := lookD b.peers 0 [] }
    let h := (h.updK fun k => { k with saved := some saved, standbyReq := false, wakeStep := 0 }).pf 0x07 39 seqBlk 0 0
    (h.powerOffDies.setPg 39 seqBlk 0x04C 0).setSeq 4
  else h

/-- MOD_PWR_CTL.standby: refused without an open session, and in STANDBY. -/
def Hw.standbyRequest (h : Hw) : Hw :=
  if h.sesOpen && decide (h.seqSt ≠ 4) then
    let h := (h.updK fun k => { k with standbyReq := true }).setPg 39 seqBlk 0x04C 1
    let h := ((List.finRange 5120).filter fun c => h.stillRuns c.val).foldl (fun h c => h.retainRequest c) h
    h.standbyCheck
  else h.updPg 39 seqBlk 0x050 fun v => setBit v 1 true

/-- STANDBY_ENTRY_TIMEOUT: every core wakes and the request is refused. -/
def Hw.standbyTimeout (h : Hw) : Hw :=
  if h.k0.standbyReq then
    let h := (List.range 5120).foldl (fun h c =>
      if h.pwr c = 2 then h.woken c 1 4
      else if h.pwr c = 3 then (h.setPwr c 0).updCpg c 0x280 fun v => setBit v 30 false else h) h
    ((h.updK fun k => { k with standbyReq := false }).setPg 39 seqBlk 0x04C 0).updPg 39 seqBlk 0x050 fun v => setBit v 1 true
  else h

/-- The module wakes from STANDBY (R412, R418). -/
def Hw.wakeModule (h : Hw) : Hw :=
  if h.seqSt = 4 ∧ h.k0.wakeStep = 0 then
    ((h.updK fun k => { k with wakeStep := 1 }).setHeat 31).updPg 39 seqBlk 0x050 fun v => setBit v 0 true
  else h

/-- A frame at the management MAC: a valid secured one under the receive key of port 0 wakes the module (R411). -/
def Hw.standbyWake (h : Hw) (s : SecTag) : Hw := if (h.macsec 0 s).isSome then h.wakeModule else h

/-- STBY_WAKE_MS; 0 disables it. -/
def Hw.standbyTimer (h : Hw) : Hw := if h.pg 39 seqBlk 0x054 = 0 then h else h.wakeModule

/-- The saved contexts in RTS, the port keys in a new epoch, and the leaves to rejoin (R412 steps 6–8). -/
def Hw.restore (h : Hw) : Hw :=
  let h := match h.k0.saved with
    | none => h
    | some s =>
      (h.updNet 0 fun x => { x with qps := [(0, s.qp0.setState qpRts)], wins := [(0, s.win0)], peers := [(0, s.peer0)] }).updNet 1
        fun x => { x with qps := [(0, s.qp2048.setState qpRts)], wins := [(0, s.win1)], peers := [(0, s.peer1)] }
  ((List.finRange 40).filter fun d => !h.fusedDie d.val).foldl Hw.rejoin (h.reload (List.range 8))

/-- A channel of a memory-side die is in its full retrain (R412 step 3). -/
def Hw.retraining (h : Hw) : Bool :=
  h.mems.any fun x => (List.range 8).any fun c => x.2.chan c == .retrain || (gddrPg h x.1 0x040).getLsbD c

/-- One stretch of R412: dies, links and memories; image, contexts, keys and leaves; ready. -/
def Hw.wakeSeq (h : Hw) (o : BringUpObs) : Hw :=
  match h.k0.wakeStep with
  | 1 =>
    let h := h.qualify o.lanes 9
    let h := (List.finRange 16).foldl (fun h m => h.retrainAll m) h
    (h.cxlEnum o.cxl).updK fun k => { k with wakeStep := 2 }
  | 2 =>
    if h.heat = 19 then
      let h := (List.range 20).foldl Hw.resendDie h
      h.restore.updK fun k => { k with wakeStep := 3, saved := none }
    else h
  | 3 =>
    if h.k0.hold = [] ∧ (List.range 5120).all (fun c => h.goneSite c || decide (h.boot c ≠ 0) && !(h.site c).awaits) = true ∧
        h.retraining = false then
      let h := h.updK fun k => { k with wakeStep := 0 }
      let h := if h.publish.k0.smapBody = h.k0.smapBody then h else h.publish
      let h := if h.anyLinkDead || h.gddrDead then
          let h := h.setSeq 2
          h.pf 0x03 39 seqBlk (h.pg 39 seqBlk 0x040) 0
        else h.setSeq 1
      h.pf 0x08 39 seqBlk (h.pg 39 seqBlk 0x050) 0
    else h
  | _ => h

/-- BRING_UP_SEQUENCE: the end of the step in progress of R388, or of R412 on waking from STANDBY. -/
def Hw.bringUp (h : Hw) (o : BringUpObs) : Hw :=
  if h.powered = false then h
  else if h.seqSt = 0 then h.bringUpStep o
  else if h.seqSt = 4 then h.wakeSeq o else h

/-! ### The meanings -/

/-- POWER_ON (R388). The input enters its range and the rails ramp. -/
def execPowerOn (s : State) : Host.Outcome State Fault Refusal := s.run fun h => h.powerOn
/-- BRING_UP_SEQUENCE (R388). K0 runs the bring-up steps after power-good or a reset. -/
def execBringUpSequence (o : BringUpObs) (s : State) : Host.Outcome State Fault Refusal := s.run fun h => h.bringUp o
/-- ISLAND_POWER_GOOD_TIMEOUT (R393). An island without power-good in 50 µs becomes DEAD. -/
def execIslandPowerGoodTimeout (c : CoreId) (s : State) : Host.Outcome State Fault Refusal :=
  s.run fun h => h.noPowerGood c.val
/-- RESET_PIN (R404). A low pulse on rst_n is filtered and classified. -/
def execResetPin (lowNs : Nat) (s : State) : Host.Outcome State Fault Refusal := s.run fun h => h.resetPin lowNs
/-- RST_CTL_COLD (R404). RST_CTL.cold requests a COLD reset. -/
def execRstCtlCold (s : State) : Host.Outcome State Fault Refusal :=
  s.run fun h => h.onPage 39 seqBlk fun h => h.rstCold
/-- RST_CTL_WARM (R404). RST_CTL.warm requests a WARM reset. -/
def execRstCtlWarm (s : State) : Host.Outcome State Fault Refusal :=
  s.run fun h => h.onPage 39 seqBlk fun h => h.warmReset 4
/-- RST_CTL_DIE (R405). RST_CTL.die resets one die. -/
def execRstCtlDie (d : DieId) (s : State) : Host.Outcome State Fault Refusal :=
  s.run fun h => h.onPage 39 seqBlk fun h => h.dieReset d
/-- K0_WATCHDOG (R404). The K0 watchdog expires and causes a COLD reset. -/
def execK0Watchdog (s : State) : Host.Outcome State Fault Refusal := s.run fun h => h.coldReset 5
/-- POWER_LOSS (R464). The input falls past the POWER threshold and rails drop. -/
def execPowerLoss (s : State) : Host.Outcome State Fault Refusal := s.run fun h => h.powerReset
/-- INPUT_OVERVOLTAGE (R463). The input stays above 68 V for 10 µs and causes a POWER reset. -/
def execInputOvervoltage (s : State) : Host.Outcome State Fault Refusal := s.run fun h => h.powerReset
/-- TRIP_RESET_HOLD_END (R472). A COLD reset begun within 10 s of a trip is released once 10 s have passed. -/
def execTripResetHoldEnd (s : State) : Host.Outcome State Fault Refusal := s.run fun h => h.holdEnd
/-- RETAIN_ENTRY (R409). The core enters RETAIN once its conditions hold. -/
def execRetainEntry (c : CoreId) (s : State) : Host.Outcome State Fault Refusal :=
  s.run fun h => h.retainEntry c |>.standbyCheck
/-- DIE_SLEEP (R407). DIE_PWR_CTL.sleep puts a die in SLEEP or is refused. -/
def execDieSleep (d : DieId) (s : State) : Host.Outcome State Fault Refusal :=
  s.run fun h => h.onPage d.val 0x112 fun h => h.dieSleep d.val
/-- DIE_WAKE_WRITE (R410). DIE_PWR_CTL.wake wakes a sleeping die. -/
def execDieWakeWrite (d : DieId) (s : State) : Host.Outcome State Fault Refusal := s.run fun h => h.dieWake d 3
/-- DIE_WAKE (R410). Traffic or a page access wakes a sleeping die. -/
def execDieWake (d : DieId) (page : Bool) (s : State) : Host.Outcome State Fault Refusal :=
  s.run fun h => h.dieWake d (if page then 2 else 1)
/-- STANDBY_REQUEST (R411). MOD_PWR_CTL.standby puts the module in STANDBY or is refused. -/
def execStandbyRequest (s : State) : Host.Outcome State Fault Refusal :=
  s.run fun h => h.onPage 39 seqBlk fun h => h.standbyRequest
/-- STANDBY_WAKE (R412). A valid secured frame wakes the module from STANDBY. -/
def execStandbyWake (sec : SecTag) (s : State) : Host.Outcome State Fault Refusal := s.run fun h => h.standbyWake sec
/-- STANDBY_WAKE_TIMER (R411). STBY_WAKE_MS expires and wakes the module. -/
def execStandbyWakeTimer (s : State) : Host.Outcome State Fault Refusal := s.run fun h => h.standbyTimer
/-- STANDBY_ENTRY_TIMEOUT (R411). 10 ms after a STANDBY request, a core that has not entered RETAIN makes K0 wake
every core and set MOD_PWR_STAT.refused. -/
def execStandbyEntryTimeout (s : State) : Host.Outcome State Fault Refusal := s.run fun h => h.standbyTimeout
/-- HEAT_POWER (R393). A heat's islands are powered at its start time. -/
def execHeatPower (h : Fin 20) (s : State) : Host.Outcome State Fault Refusal := s.run fun x => x.heatPower h.val

end Sys2Proof.Machine
end

