-- ==== Sys2Proof/Machine/Integrity.lean ====
section
/-! DEFINITION. Detected errors, injection, audits and the photo-finish record (spec 14 R422–R443). -/

namespace Sys2Proof.Machine

/-! ### Injection (R432) -/

/-- Kinds that a target of a block takes. -/
def injKinds : Kind → Nat → List Nat
  | .core, 1 | .core, 2 | .core, 5 => [1, 2]
  | .core, 3 | .core, 4 | .core, 6 => [2]
  | .core, 7 => [2, 3]
  | .mesh, 1 | .link, 1 => [2]
  | .msc, 1 => [1, 2]
  | .gddr, 1 => [2]
  | .gddr, 2 => [2, 4]
  | .port, 1 => [2]
  | .cxlPort, 1 => [3]
  | _, _ => []

/-- Whether a block has targets. -/
def Kind.targets : Kind → Bool
  | .core | .mesh | .link | .msc | .gddr | .port | .cxlPort => true
  | _ => false

/-- A write of BLK_INJ: a target of 0 cancels. -/
def Hw.injWrite (h : Hw) (d b : Nat) (v : W32) : Hw :=
  match kindOf d b with
  | none => h
  | some k =>
    let t := fld v 7 0
    if k.targets = false then h.accErr d b 0x020 3
    else if t = 0 then h.setPg d b 0x020 (setBit (v &&& 0x00FF0F00) 31 false)
    else if (injKinds k t).contains (fld v 11 8) then
      h.updPg d b 0x020 fun old => (v &&& 0x00FF0FFF) ||| (old &&& 0x80000000) ||| (v &&& 0x80000000)
    else h.accErr d b 0x020 3

/-! ### Audits (R438) -/

def auditKey (d b : Nat) : Nat := d * 4096 + b

/-- A write of BLK_AUDIT: it replaces a request not captured yet. -/
def Hw.auditWrite (h : Hw) (d b : Nat) (v : W32) : Hw :=
  match kindOf d b with
  | none => h
  | some _ =>
    let h := h.updPg d b 0x02C fun old => (old &&& 0x7FF00000) ||| (v &&& 0x000FFFFF)
    { h with audits := auditKey d b :: h.audits.filter fun x => x != auditKey d b }

def Ring.total (r : Ring) : Int := r.free + r.granted + r.occ + r.pad

/-- The two sides of an identity; none where the block has no such identity or index. -/
def Hw.identity (h : Hw) (d b id i : Nat) : Option (Int × Int) :=
  match kindOf d b, id with
  | some .core, 1 =>
    if hi : i < 4 then
      let c := d * 256 + b
      some ((h.ring (BitVec.ofNat 16 c) ⟨i, hi⟩).total, ringSize (h.rctl c ⟨i, hi⟩))
    else none
  | some .jasper, 2 => if i = 0 then some ((h.ring (engId (engOf (engAt d b))) 0).total, 128) else none
  | some .transport, 3 => if i = 0 then some ((h.ring (netId (netIx (d - 36))) 0).total, 256) else none
  | some .hub, 4 => if i = 0 then some ((4096 - (h.die d).orphans : Int), 4096) else none
  | some .core, 5 =>
    if i = 0 then
      let held := (h.core (d * 256 + b)).locks.length
      some ((held : Int) + (64 - held), 64)
    else none
  | some .windows, 6 =>
    if i < 1024 then
      let w := h.win (d - 36) i
      some ((lookD w.w 6 0 - w.base6).toNat, w.ended % 2 ^ 32)
    else none
  | some .root, 7 =>
    if i = 0 then some ((h.k0.accepted % 2 ^ 32 : Nat), ((h.k0.rootCount.toNat + h.k0.pendingBeats) % 2 ^ 32 : Nat)) else none
  | some .leaf, 8 => if i = 0 then some ((h.k0.rootCount.toNat : Int) - (h.die d).count.toNat, 0) else none
  | _, _ => none

/-- AUDIT_SNAPSHOT: done, ok and the residual, and the audit event (R454). -/
def Hw.auditSnap (h : Hw) (d b : Nat) : Hw :=
  if h.audits.contains (auditKey d b) then
    let h := { h with audits := h.audits.filter fun x => x != auditKey d b }
    let v := h.pg d b 0x02C
    match h.identity d b (fld v 7 0) (fld v 19 8) with
    | none => ((h.setPg d b 0x02C ((v &&& 0x000FFFFF) ||| 0x80000000)).accErr d b 0x02C 3).blkEvt d b 1
    | some (l, r) =>
      let x := max (-511) (min 511 (l - r))
      let ok := decide (l = r) || (decide (fld v 7 0 = 8) && decide (l - r = 1))
      (h.setPg d b 0x02C ((v &&& 0x000FFFFF) |||
        pack 32 [(31, 1), (30, ok.toNat), (20, (x % 1024).toNat)])).blkEvt d b 1
  else h

/-! ### Islands, links, routers (R39, R423, R424, R428) -/

/-- ISLAND_ERROR: a CORE reset; a second one before a successful exception entry retires the site. -/
def Hw.islandError (h : Hw) (c : Nat) (code : Nat) : Hw :=
  let d := dieOf c
  let b := siteIx c
  if h.goneSite c || !(h.site c).powered then h
  else
    let again := (h.core c).islandErr
    let h := h.errCount d b 2
    let h := if code = 5 ∨ code = 6 then (h.blkErr d b 6).pf 0x11 d b (pack 32 [(0, code)]) 0 else h
    let h := h.coreReset c
    let h := h.pf 0x19 d b (h.cpg c 0x29C) (BitVec.ofNat 32 code)
    let h := h.updC c fun k => { k with islandErr := true }
    if again then
      let h := h.killSite c 5
      (h.pf 0x1A d b (h.siteEntry c) 0).publish
    else h

/-- The block that holds LINK_ERR_THR on one side of a slot (R424). -/
def Hw.linkThr (h : Hw) (d : Nat) : Nat := fld (h.pg d 0x100 0x050) 15 0

/-- A lane's errors have reached the threshold of one end; 0 disables retirement (R424, R443). -/
def Hw.overThr (h : Hw) (d e : Nat) : Bool := decide (0 < h.linkThr d ∧ h.linkThr d ≤ e)

/-- LINK_CRC_FAILURE (R419, R424). -/
def Hw.linkCrc (h : Hw) (n : Nat) (lanes : List Nat) : Hw :=
  match linkPeer n with
  | none => h
  | some _ => if h.linkFused n || (h.link n).dead then h else h.crcFailure n lanes

/-- LANE_RETIRE (R424): the lane's errors have reached the threshold at one end. -/
def Hw.laneRetire (h : Hw) (n lane : Nat) : Hw :=
  match linkPeer n with
  | none => h
  | some (peer, _, _) =>
    let l := h.link n
    let e := lookD l.laneErrs lane 0
    if h.linkFused n || l.dead || l.retired.getLsbD lane || !(h.overThr (n / 16) e || h.overThr peer e) then h
    else
      let h := h.updLink n fun l => { l.retire lane with laneErrs := del l.laneErrs lane }
      let h := ((h.blkErr (n / 16) 0x100 5).blkErr peer 0x100 5).pf 0x20 39 seqBlk (BitVec.ofNat 32 n) (BitVec.ofNat 32 lane)
      (if 4 < (h.link n).lost then h.killLink n else h).publish

/-- MESH_HEADER_PARITY (R423): the packet named is lost, a request or response of queues MREQ and MRSP by its number, any
other by its place among the packets in flight. -/
def Hw.meshParity (h : Hw) (d : Nat) (x : MeshErr) : Hw :=
  let (h, body) := match x.lost with
    | none => (h, none)
    | some i =>
      if x.queue = 0 then (h.dropReq i, none)
      else if x.queue = 1 then ({ h with rsps := h.rsps.filter fun (r : MRsp) => r.id != i }, none)
      else ({ h with flight := h.flight.eraseIdx i }, (h.flight[i]?).map Pkt.body)
  h.headerParity d x.site.val x.inPort.val x.queue.val body

/-! ### The record (R439, R440) -/

/-- PF_CTL.clear: the record is empty, and a CLEARED entry is sequence 0, frozen or not. -/
def Hw.pfClear (h : Hw) : Hw :=
  let frozen := h.pg 39 0x032 0x040
  (((h.updK fun k => { k with pf := [], pfTotal := 0 }).setPg 39 0x032 0x040 0).pf 0x3F 39 seqBlk 0 0).setPg 39 0x032 0x040
    (frozen &&& 1)

/-- A word of entry `i` (R440). -/
def PfEnt.word (e : PfEnt) (w : Nat) : W32 :=
  match w with
  | 0 => e.seq
  | 1 => pack 32 [(24, e.code.toNat), (16, e.die.toNat), (0, e.block.toNat)]
  | 2 => e.boot
  | 3 => e.beat
  | 4 => e.time.setWidth 32
  | 5 => (e.time >>> 32).setWidth 32
  | 6 => e.data0
  | _ => e.data1

/-! ### The meanings -/

/-- BLK_INJ_ARM (R432). Arm one injected error in a block structure. -/
def execBlkInjArm (d : DieId) (b : BitVec 12) (v : BitVec 32) (s : State) : Host.Outcome State Fault Refusal :=
  s.run fun h => h.onPage d.val b.toNat fun h => h.injWrite d.val b.toNat v
/-- AUDIT_REQUEST (R438). A BLK_AUDIT write requests an identity snapshot. -/
def execAuditRequest (d : DieId) (b : BitVec 12) (v : BitVec 32) (s : State) : Host.Outcome State Fault Refusal :=
  s.run fun h => h.onPage d.val b.toNat fun h => h.auditWrite d.val b.toNat v
/-- AUDIT_SNAPSHOT (R438). The block captures the identity terms and sets done. -/
def execAuditSnapshot (d : DieId) (b : BitVec 12) (s : State) : Host.Outcome State Fault Refusal :=
  s.run fun h => h.auditSnap d.val b.toNat
/-- ISLAND_ERROR (R428). An uncorrectable island error makes K0 reset the island. -/
def execIslandError (c : CoreId) (code : BitVec 8) (s : State) : Host.Outcome State Fault Refusal :=
  s.run fun h => h.islandError c.val code.toNat
/-- LINK_CRC_FAILURE (R419). A die link flit fails CRC and is replayed. -/
def execLinkCrcFailure (slot : Fin 320) (lanes : List (Fin 68)) (s : State) : Host.Outcome State Fault Refusal :=
  s.run fun h => h.linkCrc slot.val (lanes.map fun l => l.val)
/-- LANE_RETIRE (R424). A lane's parity errors reach LINK_ERR_THR and it is retired. -/
def execLaneRetire (slot : Fin 320) (lane : Fin 68) (s : State) : Host.Outcome State Fault Refusal :=
  s.run fun h => h.laneRetire slot.val lane.val
/-- MESH_HEADER_PARITY (R423). A router discards a packet with a header parity error. -/
def execMeshHeaderParity (d : Fin 20) (x : MeshErr) (s : State) : Host.Outcome State Fault Refusal :=
  s.run fun h => h.meshParity d.val x
/-- PF_CLEAR (R439). PF_CTL.clear empties the record. -/
def execPfClear (s : State) : Host.Outcome State Fault Refusal := s.run fun h => h.onPage 39 0x032 fun h => h.pfClear

end Sys2Proof.Machine
end

