-- ==== Sys2Proof/Machine/Thermal.lean ====
section
/-! DEFINITION. Power caps, temperatures, throttle levels and the trip (spec 16 R468–R475). -/

namespace Sys2Proof.Machine

/-- The thermal level of unit key `n`: an island, or the engines of a memory-side die at key die × 256. -/
def Hw.throttle (h : Hw) (n : Nat) : Throttle := lookD h.levels n {}
/-- The level in force: the greater of the thermal level and the cap level (R469). -/
def Hw.levelAt (h : Hw) (n : Nat) : Nat := Nat.max (h.throttle n).level.val h.k0.capLevel.val

def Hw.temp (h : Hw) (n : Nat) : Int := (lookD h.sensors n { val := 0 }).val
def maxTemp : List (Nat × Sensor) → Option Int
  | [] => none
  | (_, s) :: r => match maxTemp r with | none => some s.val | some t => some (if t < s.val then s.val else t)

/-- The hottest reading of a die, and of the module (R474, R475). -/
def Hw.hottest (h : Hw) (d : Nat) : Int := (maxTemp (h.sensors.filter fun x => x.1 / 256 == d)).getD 0
def Hw.hottestAll (h : Hw) : Int := h.k0.hottest

/-- alert_n is low while any level is above 0 or after a trip (R476). -/
def Hw.alertLow (h : Hw) : Bool :=
  h.k0.trip.isSome || decide (h.k0.capLevel ≠ 0) || h.levels.any fun x => decide (x.2.level ≠ 0)

/-- data0 of a THROTTLE_ON or THROTTLE_OFF entry (R473). -/
def throttleData (source d level site : Nat) : W32 := pack 32 [(30, source), (16, d), (8, level), (0, site)]

/-! ### The trip (R472) -/

/-- A trip by a reading of die `d`; after one, no other acts. -/
def Hw.tripNow (h : Hw) (d n : Nat) (t : Int) : Hw :=
  if h.k0.trip.isSome || !h.powered then h
  else
    let h := h.pf 0x30 39 seqBlk (throttleData 3 d (h.levelAt n) 0) (BitVec.ofInt 32 t)
    let h := h.updK fun k => { k with trip := some h.now, failStep := 0, standbyReq := false, wakeStep := 0 }
    let base := h.free
    let h := { h with free := base + 2 ^ 48, gddr := scramble base h.gddr, pins := { h.pins with pwrgd := false } }
    (h.powerOffDies.setSeq 2).updPg 39 seqBlk 0x040 fun v => setFld v 11 8 0

/-! ### The caps (R463, R469) -/

/-- I_CAP in units of 10 mA (R463). -/
def iCap (v : Variant) : Nat := match v with | .uv48 => 7000 | .uv40 => 6000
/-- The highest MOD_PCAP that acts as itself (R475). -/
def pCapMax (v : Variant) : Nat := match v with | .uv48 => 3400 | .uv40 => 2900

/-- CAP_COMPARISON: the measured values are shown, and the cap level follows them. -/
def Hw.capCompare (h : Hw) (vin iin pin : Nat) : Hw :=
  if !h.powered then h
  else
    let h := ((h.setPg 39 0x112 0x0C0 (BitVec.ofNat 32 vin)).setPg 39 0x112 0x0C4 (BitVec.ofNat 32 iin)).setPg 39 0x112 0x0C8 (BitVec.ofNat 32 pin)
    let h := h.updPg 39 0x112 0x0D0 fun v => BitVec.ofNat 32 (Nat.max v.toNat pin)
    let h := h.updK fun k => { k with energy := k.energy + pin }
    let pc := Nat.min (h.pg 39 0x112 0x0CC).toNat (pCapMax h.variant)
    let ic := iCap h.variant
    let old := h.k0.capLevel.val
    let (l, n) :=
      if pc < pin ∨ ic < iin then (Nat.min 7 (old + 1), 0)
      else if pin * 100 ≤ pc * 95 ∧ iin * 100 ≤ ic * 95 then
        if h.k0.belowCap + 1 < 10 then (old, h.k0.belowCap + 1) else (old - 1, 0)
      else (old, 0)
    let h := h.updK fun k => { k with capLevel := ⟨l % 8, Nat.mod_lt _ (by decide)⟩, belowCap := n }
    if old = 0 ∧ l ≠ 0 then h.pf 0x30 39 seqBlk (throttleData 2 39 l 0) (BitVec.ofNat 32 iin)
    else if old ≠ 0 ∧ l = 0 then h.pf 0x31 39 seqBlk (throttleData 2 39 0 0) (BitVec.ofNat 32 iin)
    else h

/-! ### The sensors (R470) -/

/-- 115 °C in units of 1/16 °C. -/
def tripTemp : Int := 1840

/-- hi of THERM_CTL, one above 100 acting as 100, and lo, in units of 1/16 °C (R474). -/
def Hw.thermHi (h : Hw) (d : Nat) : Int := 16 * Int.ofNat (Nat.min 100 (fld (h.pg d 0x112 0x080) 15 8))
def Hw.thermLo (h : Hw) (d : Nat) : Int := 16 * Int.ofNat (fld (h.pg d 0x112 0x080) 7 0)

/-- The thermal level after one more sample `t`: it rises at once and then every tenth sample, and falls after each
100 samples in a row at or below `lo` (log 25). -/
def Throttle.sample (x : Throttle) (hi lo t : Int) : Throttle :=
  let x := { x with hold := x.hold - 1 }
  if hi ≤ t then
    if x.hold = 0 then { level := ⟨Nat.min 7 (x.level.val + 1), Nat.lt_succ_of_le (Nat.min_le_left ..)⟩, hold := 10, cool := 0 }
    else { x with cool := 0 }
  else if t ≤ lo then
    if x.cool + 1 < 100 then { x with cool := x.cool + 1 }
    else { x with level := ⟨x.level.val - 1, by omega⟩, cool := 0 }
  else { x with cool := 0 }

/-- A unit with thermal levels takes the sample: an island (source 0) or a memory-side die's engines (source 1). -/
def Hw.sampleLevel (h : Hw) (d n : Nat) (t : Int) : Hw :=
  let old := h.throttle n
  let new := old.sample (h.thermHi d) (h.thermLo d) t
  let h := { h with levels := put h.levels n new }
  let h := if old.level.val < new.level.val then h.bumpSat d 0x112 0x094 else h
  let w := throttleData (if d < 20 then 0 else 1) d (h.levelAt n) (if d < 20 then n % 256 else 0)
  let b := if d < 20 then n % 256 else 0x112
  if old.level.val = 0 ∧ new.level.val ≠ 0 then h.pf 0x30 d b w (BitVec.ofInt 32 t)
  else if old.level.val ≠ 0 ∧ new.level.val = 0 then h.pf 0x31 d b w (BitVec.ofInt 32 t)
  else h

/-- One reading: the sensor keeps it, and a second one in a row at or above 115 °C trips. -/
def Hw.reading (h : Hw) (r : TempReading) : Hw :=
  let n := 256 * r.die.val + r.unit.toNat
  let was := (lookD h.sensors n { val := 0 }).hot
  let h := { h with sensors := put h.sensors n { val := r.val, hot := decide (tripTemp ≤ r.val) } }
  let h := if r.die.val < 20 then h.sampleLevel r.die.val n r.val else h
  if was && decide (tripTemp ≤ r.val) then h.tripNow r.die.val n r.val else h

/-- THERMAL_SAMPLE: every sensor named is read; the engines of a memory-side die follow its hottest sensor. -/
def Hw.thermalSample (h : Hw) (rs : List TempReading) : Hw :=
  if !h.powered then h
  else
    let h := rs.foldl (fun h r => h.reading r) h
    let h := h.updK fun k => { k with hottest := (maxTemp h.sensors).getD 0 }
    ((List.range 16).filter fun m => rs.any fun r => decide (r.die.val = 20 + m)).foldl
      (fun h m => h.sampleLevel (20 + m) (256 * (20 + m)) (h.hottest (20 + m))) h

/-- 100 °C in units of 1/16 °C, at which a GDDR7 device trips (R470). -/
def gddrTrip : Int := 1600

/-- GDDR_TEMP_READ: the controller of memory-side die `m` reads its devices. -/
def Hw.gddrTemps (h : Hw) (m : Nat) (ts : List Int) : Hw :=
  if !h.powered || h.fused (20 + m) 0x112 then h
  else
    let h := h.updMem m fun x => { x with gddrTemps := ts }
    match ts.find? fun t => decide (gddrTrip ≤ t) with
    | some t => h.tripNow (20 + m) (256 * (20 + m)) t
    | none => h

/-! ### The meanings -/

/-- CAP_COMPARISON (R469). Every 100 µs K0 compares power and current with the caps. -/
def execCapComparison (vin : BitVec 16) (iin : BitVec 16) (pin : BitVec 16)
    (s : State) : Host.Outcome State Fault Refusal :=
  s.run fun h => h.capCompare vin.toNat iin.toNat pin.toNat
/-- THERMAL_SAMPLE (R470). Sensors are sampled and thermal levels adjusted. -/
def execThermalSample (rs : List TempReading) (s : State) : Host.Outcome State Fault Refusal :=
  s.run fun h => h.thermalSample rs
/-- GDDR_TEMP_READ (R470). The controller reads GDDR7 temperatures every 1 ms. -/
def execGddrTempRead (m : Fin 16) (temps : List Int) (s : State) : Host.Outcome State Fault Refusal :=
  s.run fun h => h.gddrTemps m.val temps

end Sys2Proof.Machine
end

