-- ==== Sys2Proof/Machine/Sideband.lean ====
section
/-! DEFINITION. The management sideband and the boundary-scan port (spec 16 R476–R478). -/

namespace Sys2Proof.Machine

/-- A temperature as 16 bits, signed. -/
def temp16 (t : Int) : Nat := (BitVec.ofInt 16 t).toNat

/-- The highest level in force at any unit. -/
def Hw.topLevel (h : Hw) : Nat := h.levels.foldl (fun n x => Nat.max n x.2.level.val) h.k0.capLevel.val

/-- A status register of the sideband; an unlisted address reads 0 (R477). -/
def Hw.i2c (h : Hw) (a : Nat) : BitVec 16 :=
  match a with
  | 0 => pack 16 [(8, variantCode h.variant), (0, 0xA1)]
  | 1 => pack 16 [(10, h.k0.trip.isSome.toNat), (9, h.alertLow.toNat), (8, h.pins.pwrgd.toNat), (0, h.seqSt)]
  | 2 => (h.pg 39 0x112 0x0C0).setWidth 16
  | 3 => (h.pg 39 0x112 0x0C4).setWidth 16
  | 4 => (h.pg 39 0x112 0x0C8).setWidth 16
  | 5 => BitVec.ofNat 16 (temp16 h.hottestAll)
  | 6 => pack 16 [(8, h.k0.capLevel.val), (0, h.topLevel)]
  | _ => 0

/-- I2C_READ: the target answers whenever the input is above the POWER threshold. -/
def Hw.i2cRead (h : Hw) (a : Nat) : Hw := if h.powered then { h with out := h.out ++ [.i2c (h.i2c a)] } else h

/-- I2C_WRITE: a write is acknowledged and ignored. -/
def Hw.i2cWrite (h : Hw) (_ : BitVec 8) (_ : BitVec 16) : Hw := if h.powered then { h with out := h.out ++ [.i2cAck] } else h

/-- IDCODE of the module; the manufacturer field is a free value (log 26). -/
def idcode : W32 := pack 32 [(28, 0xA), (12, 0x4855), (1, Config.manufacturer.toNat), (0, 1)]

/-- What the register an instruction selects shifts out, low bit first; the boundary register's cells are in the BSDL file
alone (log 26). -/
def scanOut (x : Scan) : List Out :=
  match x with
  | .idcode => [.tdo ((List.range 32).map fun i => idcode.getLsbD i)]
  | .bypass | .clamp | .highz => [.tdo [false]]
  | .sample | .extest => []

/-- A scan instruction: EXTEST, CLAMP and HIGHZ act only while rst_n is low, and else as BYPASS (R478). -/
def Hw.scanIns (h : Hw) (x : Scan) : Hw :=
  let acts := match x with
    | .extest | .clamp | .highz => if h.pins.rstLow then x else .bypass
    | _ => x
  { h with pins := { h.pins with scan := x, acting := acts }, out := h.out ++ scanOut acts }

/-! ### The meanings -/

/-- I2C_READ (R477). A sideband read returns a 16-bit status register. -/
def execI2cRead (addr : BitVec 8) (s : State) : Host.Outcome State Fault Refusal :=
  s.run fun h => h.i2cRead addr.toNat
/-- I2C_WRITE (R477). A sideband write is acknowledged and ignored. -/
def execI2cWrite (addr : BitVec 8) (v : BitVec 16) (s : State) : Host.Outcome State Fault Refusal :=
  s.run fun h => h.i2cWrite addr v
/-- BYPASS (R478). Boundary-scan BYPASS instruction. -/
def execBypass (s : State) : Host.Outcome State Fault Refusal := s.run fun h => h.scanIns .bypass
/-- IDCODE (R478). Boundary-scan IDCODE instruction. -/
def execIdcode (s : State) : Host.Outcome State Fault Refusal := s.run fun h => h.scanIns .idcode
/-- SAMPLE_PRELOAD (R478). Boundary-scan SAMPLE/PRELOAD instruction. -/
def execSamplePreload (s : State) : Host.Outcome State Fault Refusal := s.run fun h => h.scanIns .sample
/-- EXTEST (R478). Boundary-scan EXTEST, active only with rst_n low. -/
def execExtest (s : State) : Host.Outcome State Fault Refusal := s.run fun h => h.scanIns .extest
/-- CLAMP (R478). Boundary-scan CLAMP, active only with rst_n low. -/
def execClamp (s : State) : Host.Outcome State Fault Refusal := s.run fun h => h.scanIns .clamp
/-- HIGHZ (R478). Boundary-scan HIGHZ, active only with rst_n low. -/
def execHighz (s : State) : Host.Outcome State Fault Refusal := s.run fun h => h.scanIns .highz

end Sys2Proof.Machine
end

