-- ==== Sys2Proof/Machine/CorePage.lean ====
section
/-! DEFINITION. What the registers of a core site's page read as, and the special registers (spec 02 R51–R54, spec 03 R132,
R133, spec 04 R171, R172, spec 05 R199, R200, spec 06 R219, R220, spec 08 R292, R293, spec 10 R332). -/

namespace Sys2Proof.Machine

/-- Bit n of a word is set for each key n of a list. -/
def keyMask (ns : List Nat) : Nat := ns.foldl (fun m n => m ||| 2 ^ n) 0

/-- LOCK_HELD, and LOCK_WAIT. -/
def Core.lockHeld (k : Core) : Word := BitVec.ofNat 64 (keyMask (k.locks.map fun x => x.1))
def Core.lockWait (k : Core) : Word := BitVec.ofNat 64 (keyMask ((k.locks.filter fun x => x.2.waiters != []).map fun x => x.1))
/-- LOCK_OWNER_LO and LOCK_OWNER_HI: the owners of the 32 cells from `lo` on. -/
def Core.lockOwner (k : Core) (lo : Nat) : Word :=
  pack 64 ((k.locks.filter fun x => decide (lo ≤ x.1) && decide (x.1 < lo + 32)).map fun x => (2 * (x.1 - lo), x.2.owner.val))
/-- POOL_GEN. -/
def Core.poolGen (k : Core) : Word := pack 64 ([1, 2, 3].map fun n => (8 * (n - 1), (lookD k.gens n 0).toNat))

/-- ARR_QSTAT. -/
def Core.qstat (k : Core) : W32 := pack 32 [(8, k.back.length), (0, k.front.length)]
/-- DC_STAT. -/
def Core.dcStat (k : Core) : W32 := pack 32 [(16, k.fills), (0, (k.dcache.filter fun l => l.dirty != 0).length)]
/-- TB_VALID_LO and TB_VALID_HI as one word. -/
def Core.tbValid (k : Core) : Word := BitVec.ofNat 64 (keyMask ((k.tb.filter fun e => e.2.valid).map fun e => e.1))

/-- DBG_STAT. -/
def Core.dbgStat (k : Core) : W32 :=
  BitVec.ofNat 32 (keyMask ((tids.filter fun t => (k.thr t).state == .haltDbg).map fun t => t.val))

/-- The register that DBG_REGSEL selects, of a halted thread; none where the selection is not valid. -/
def Hw.dbgReg (h : Hw) (c : Nat) : Option TWord :=
  let sel := h.cpg c 0x07C
  let t : Tid := ⟨fld sel 9 8 % 4, Nat.mod_lt _ (by decide)⟩
  let x := (h.core c).thr t
  let s := fld sel 7 0
  if !x.state.halted then none
  else if hs : s < 32 then some (x.rd ⟨s, hs⟩)
  else if s = 0x20 then some x.pc
  else if s = 0x21 then some (int (x.st.word t))
  else if s = 0x22 then some x.esp
  else if s = 0x23 then some (int (x.nest.setWidth 64))
  else none

/-- MSG_STAT. -/
def Core.msgStat (k : Core) : W32 :=
  let waits (x : Thread) : Bool := match x.wait with | .req (.send _) | .req (.sendf _ _ _) => x.state == .waitReq | _ => false
  pack 32 [(16, (k.frStaged != []).toNat), (8, keyMask ((tids.filter fun t => waits (k.thr t)).map fun t => t.val)),
    (0, keyMask ((tids.filter fun t => (k.thr t).comp.isOpen).map fun t => t.val))]

/-- CT_ENTRY. -/
def CEnt.word (e : CEnt) : W32 :=
  pack 32 [(30, match e.state with | .empty => 0 | .req => 1 | .held => 2), (28, e.ring.val), (16, e.credits), (0, e.dest.toNat)]

/-- RINGn_FREE, RINGn_FILL, RINGn_PTR and RINGn_POP, by their offset in the ring's registers. -/
def Ring.word (r : Ring) (o : Nat) : W32 :=
  if o = 0x08 then BitVec.ofNat 32 r.free
  else if o = 0x0C then pack 32 [(28, r.pad), (16, r.granted), (0, r.occ)]
  else if o = 0x10 then pack 32 [(16, r.wr), (0, r.ret)]
  else pack 32 [(31, (r.recallFrom != []).toNat), (16, r.popped), (0, r.pop)]

/-- DMA_CHn registers that show a channel's state: CTL's kill, STAT, BYTES and TIMER. -/
def Hw.slotReg (h : Hw) (c n o : Nat) : W32 :=
  let x := h.chan (slotKey c n)
  if o = 0 then setBit (h.cpg c (0x200 + 32 * n)) 31 (x.state == .killing)
  else if o = 0x08 then x.stat false
  else if o = 0x0C then x.bytes
  else if o = 0x18 then x.timer
  else h.cpg c (0x200 + 32 * n + o)

/-- DMA_ENG_STAT. -/
def Hw.engStat (h : Hw) (c : Nat) : W32 :=
  let st (n : Nat) : DState := (h.chan (slotKey c n)).state
  setFld (setBit (h.cpg c 0x1A0) 2 ((List.range 4).any fun n => st n == .run)) 7 4
    (keyMask ((List.range 4).filter fun n => st n == .ready))

/-- What a read of a core site's register at offset `o` returns, header and reserved offsets apart. -/
def Hw.coreWord (h : Hw) (c : Nat) (o : Nat) : W32 :=
  let k := h.core c
  let ring (n : Fin 4) := h.ring (BitVec.ofNat 16 c) n
  if o = 0x060 then k.threadState
  else if o = 0x068 then k.stallCnt
  else if o = 0x06C then k.lockHeld.setWidth 32
  else if o = 0x070 then (k.lockHeld >>> 32).setWidth 32
  else if o = 0x074 then
    setFld (h.cpg c o) 11 4 (keyMask ((tids.filter fun t => (k.thr t).stepping).map fun t => t.val))
  else if o = 0x078 then k.dbgStat
  else if o = 0x080 then match h.dbgReg c with | some w => w.val.setWidth 32 | none => 0
  else if o = 0x084 then match h.dbgReg c with | some w => (w.val >>> 32).setWidth 32 | none => 0
  else if o = 0x088 then match h.dbgReg c with | some w => pack 32 [(8, 1), (0, w.tag.code)] | none => 0
  else if o = 0x09C then k.dcStat
  else if o = 0x0A8 then k.tbValid.setWidth 32
  else if o = 0x0AC then (k.tbValid >>> 32).setWidth 32
  else if o = 0x0B4 then k.qstat
  else if o = 0x0C0 then k.rr2Stat.setWidth 32
  else if o = 0x0D4 then k.msgStat
  else if o = 0x184 then (lookD k.credits (fld (h.cpg c 0x180) 5 0) {}).word
  else if o = 0x1A0 then h.engStat c
  else if 0x200 ≤ o ∧ o < 0x280 then h.slotReg c ((o - 0x200) / 32) (o % 32)
  else if 0x100 ≤ o ∧ o < 0x180 ∧ 0x08 ≤ o % 32 ∧ o % 32 < 0x18 then
    (ring ⟨(o - 0x100) / 32 % 4, Nat.mod_lt _ (by decide)⟩).word (o % 32)
  else h.cpg c o

/-! ### The special registers (R51, R52, R462) -/

/-- How a special register is reached: who may read and write it, and in what mode. -/
structure SpecialReg where
  /-- User code may read, and write. -/
  ur : Bool := false
  uw : Bool := false
  /-- Written by MTSR; an RO register raises ILLEGAL. -/
  w : Bool := true
  deriving DecidableEq, Repr

/-- The page offset of special registers 0x0D0–0x0FF (R292). -/
def pageSpecial (n : Nat) : Nat := 0x0D0 + 4 * (n - 0x0D0)

/-- The table of the special registers; none for a number that no chapter assigns (R462). -/
def specialOf (n : Nat) : Option SpecialReg :=
  if n = 0x000 then some { ur := true }
  else if n ≤ 0x004 then some { ur := true, w := false }
  else if n = 0x005 ∨ n = 0x007 then some { ur := true, uw := true }
  else if n = 0x006 then some { ur := true, w := false }
  else if 0x010 ≤ n ∧ n ≤ 0x016 then some {}
  else if n = 0x017 ∨ n = 0x018 then some { w := false }
  else if n = 0x020 then some {}
  else if n = 0x040 then some { ur := true }
  else if n = 0x041 ∨ n = 0x043 then some { ur := true, w := false }
  else if n = 0x042 ∨ n = 0x046 then some { w := false }
  else if n = 0x044 ∨ n = 0x045 ∨ n = 0x047 then some {}
  else if 0x048 ≤ n ∧ n ≤ 0x04A then some {}
  else if 0x04C ≤ n ∧ n ≤ 0x04E then some { w := false }
  else if (0x050 ≤ n ∧ n ≤ 0x052) ∨ (0x054 ≤ n ∧ n ≤ 0x056) then some {}
  else if 0x058 ≤ n ∧ n ≤ 0x05C then some { w := false }
  else if n = 0x080 then some { ur := true }
  else if n = 0x081 then some { ur := true, w := false }
  else if 0x090 ≤ n ∧ n ≤ 0x097 then some { ur := true, uw := true }
  else if 0x098 ≤ n ∧ n ≤ 0x0AF then some { ur := true, w := false }
  else if n = 0x0B0 then some { ur := true, uw := true }
  else if n = 0x0B1 ∨ n = 0x0C0 then some { ur := true, w := false }
  else if n = 0x0C1 then some { uw := true }
  else if 0x0D0 ≤ n ∧ n ≤ 0x0FF then
    match (coreRegs1 ++ coreRegs2).find? fun r => r.at (pageSpecial n) with
    | some r => some { ur := true, w := r.acc != .ro }
    | none => none
  else none

/-- The value that MFSR returns, with its tag (R52). -/
def Hw.special (h : Hw) (c : CoreId) (t : Tid) (n : Nat) : TWord :=
  let x := h.thr c t
  let k := h.core c.val
  let w32 (v : W32) : TWord := int (v.setWidth 64)
  let tile (m : Nat) : Tile := k.tile ⟨m % 8, Nat.mod_lt _ (by decide)⟩
  match n with
  | 0x000 => int (x.st.word t)
  | 0x001 => int (BitVec.ofNat 64 t.val)
  | 0x002 => int (BitVec.ofNat 64 c.val)
  | 0x003 => int k.cycle
  | 0x004 => int ((h.cadence c.val).setWidth 64)
  | 0x005 => w32 x.evPend
  | 0x006 => int (BitVec.ofNat 64 x.rs.length)
  | 0x007 => int x.fpcsr
  | 0x010 => x.esp
  | 0x011 => x.espLimit
  | 0x012 => x.xsRa
  | 0x013 => x.xsStat
  | 0x014 => x.scEntry
  | 0x015 => x.scRa
  | 0x016 => x.scStat
  | 0x017 => w32 x.nest
  | 0x018 => int (BitVec.ofNat 64 x.basePriv.toNat)
  | 0x020 => w32 (h.cpg c.val 0x040)
  | 0x040 => w32 x.intEn
  | 0x041 => int x.xaddr
  | 0x042 => w32 x.lrLevel
  | 0x043 => w32 k.threadState
  | 0x045 => w32 (h.cpg c.val 0x064)
  | 0x046 => w32 k.stallCnt
  | 0x047 => int k.threadfEn
  | 0x058 => int k.lockHeld
  | 0x059 => int k.lockWait
  | 0x05A => int (k.lockOwner 0)
  | 0x05B => int (k.lockOwner 32)
  | 0x05C => int k.poolGen
  | 0x080 => w32 (h.cpg c.val 0x090)
  | 0x081 => w32 (h.cpg c.val 0x094)
  | 0x0B0 => w32 (h.cpg c.val 0x0B0)
  | 0x0B1 => w32 k.qstat
  | 0x0C0 => int k.rr2Stat
  | _ =>
    if 0x048 ≤ n ∧ n ≤ 0x04A then int (lookD k.tfLog (n - 0x047) 0)
    else if 0x04C ≤ n ∧ n ≤ 0x04E then int (lookD k.tfPc (n - 0x04B) 0)
    else if 0x050 ≤ n ∧ n ≤ 0x052 then int (lookD k.poolEsp (n - 0x04F) {}).val
    else if 0x054 ≤ n ∧ n ≤ 0x056 then int (lookD k.poolLimit (n - 0x053) {}).val
    else if 0x090 ≤ n ∧ n ≤ 0x097 then int (tile (n - 0x090)).cfg
    else if 0x098 ≤ n ∧ n ≤ 0x09F then int (tile (n - 0x098)).stat
    else if 0x0A0 ≤ n ∧ n ≤ 0x0A7 then int (tile (n - 0x0A0)).paddr
    else if 0x0A8 ≤ n ∧ n ≤ 0x0AF then int (tile (n - 0x0A8)).pstride
    else if 0x0D0 ≤ n then w32 (h.coreWord c.val (pageSpecial n))
    else int 0

/-- MFSR. -/
def Hw.mfsrIns (f : SF) (h : Hw) (c : CoreId) (t : Tid) : IRes :=
  let n := f.x.toNat
  IRes.ofE h do
    (mbz 0x05 (f.ra = 0)).mapError (srExc n)
    match specialOf n with
    | none => .error (srExc n (illegal 0x05 6))
    | some s =>
      if s.ur then .ok (h.wrG c t f.rd (h.special c t n), .seq)
      else match needPriv (h.thr c t) 0x05 0 with
        | .error e => .error (srExc n e)
        | .ok _ => .ok (h.wrG c t f.rd (h.special c t n), .seq)

/-- A source of the tag a special register requires; an MTSR that fails keeps its old value (R52). -/
def needTag (p : Tag → Bool) (w : TWord) : Except Exc TWord := if p w.tag then .ok w else .error (tagExc 0 0 w.tag)

/-- The register a page register's special number stands for, written by MTSR: none where the write is refused. -/
def Hw.specialPage (o : Nat) (c : CoreId) (h : Hw) (v : W32) : Option Hw :=
  if 0x0E0 ≤ o ∧ o < 0x100 then some (h.stageRoute c ((o - 0x0E0) / 4) v)
  else if 0x100 ≤ o ∧ o < 0x180 ∧ o % 32 < 8 then
    h.ringWrite c ⟨(o - 0x100) / 32 % 4, Nat.mod_lt _ (by decide)⟩ (o % 32 == 4) v
  else
    match (coreRegs1 ++ coreRegs2).find? fun r => r.at o with
    | some r => some (h.setCpg c.val o (v &&& r.mask))
    | none => some h

/-- A thread register written by MTSR, the source's tag checked. -/
def mtsrThread (n : Nat) (w : TWord) (x : Thread) : Option (Except Exc Thread) :=
  let int (f : Word → Thread) : Option (Except Exc Thread) := some ((needInt 0 w).map f)
  let addr (f : TWord → Thread) : Option (Except Exc Thread) := some ((needAddr 0 w).map f)
  let stat (f : TWord → Thread) : Option (Except Exc Thread) := some ((needTag (· == .stat) w).map f)
  match n with
  | 0x000 => int fun v => { x with st := { x.st with ie := v.getLsbD 1, ss := v.getLsbD 7 } }
  | 0x005 => int fun v => { x with evPend := v.setWidth 32 }
  | 0x007 => int fun v => { x with fpcsr := v &&& 0x31F1F }
  | 0x010 => some (.ok { x with esp := w })
  | 0x011 => some ((needTag (· == .laddr) w).map fun w => { x with espLimit := w })
  | 0x012 => addr fun w => { x with xsRa := w }
  | 0x013 => stat fun w => { x with xsStat := w }
  | 0x014 => addr fun w => { x with scEntry := w }
  | 0x015 => addr fun w => { x with scRa := w }
  | 0x016 => stat fun w => { x with scStat := w }
  | 0x040 => int fun v => { x with intEn := v.setWidth 32 }
  | _ => none

/-- A core-wide register written by MTSR, the source's tag checked. -/
def Hw.mtsrCore (n : Nat) (w : TWord) (c : CoreId) (h : Hw) : Except Exc Hw :=
  let reg (o : Nat) (mask : W32) : Except Exc Hw :=
    (needInt 0 w).map fun v => h.setCpg c.val o (v.setWidth 32 &&& mask)
  let core (f : Core → Core) : Hw := h.updC c.val f
  if n = 0x020 then reg 0x040 0xE0
  else if n = 0x045 then reg 0x064 0xFFFFFFFF
  else if n = 0x047 then (needInt 0 w).map fun v => core fun k => { k with threadfEn := v &&& 0x3FFFE }
  else if 0x048 ≤ n ∧ n ≤ 0x04A then
    (needInt 0 w).map fun v => core fun k => { k with tfLog := put k.tfLog (n - 0x047) (v &&& 0xFFFFFFFFBF000000) }
  else if 0x050 ≤ n ∧ n ≤ 0x052 then
    (needTag (· == .laddr) w).map fun w => core fun k => { k with poolEsp := put k.poolEsp (n - 0x04F) w }
  else if 0x054 ≤ n ∧ n ≤ 0x056 then
    (needTag (· == .laddr) w).map fun w => core fun k => { k with poolLimit := put k.poolLimit (n - 0x053) w }
  else if n = 0x080 then reg 0x090 0x7FF
  else if n = 0x0B0 then reg 0x0B0 7
  else .ok h

/-- MTSR to THREAD_CTL with a payload (R102). -/
def Hw.mtsrThreadCtl (w : TWord) (h : Hw) (c : CoreId) (t : Tid) : IRes :=
  match needInt 0 w with
  | .error e => match needPriv (h.thr c t) 0x05 1 with | .error p => .exc h (srExc 0x044 p) | .ok _ => .exc h e
  | .ok v => h.threadCtl (fld v 2 0) ⟨fld v 9 8 % 4, Nat.mod_lt _ (by decide)⟩ c t

/-- MTSR. -/
def Hw.mtsrIns (f : SF) (h : Hw) (c : CoreId) (t : Tid) : IRes :=
  let n := f.x.toNat
  let w := (h.thr c t).rd f.ra
  match (mbz 0x05 (f.rd = 0) : Except Exc Unit) with
  | .error e => .exc h (srExc n e)
  | .ok _ =>
    match specialOf n with
    | none => .exc h (srExc n (illegal 0x05 6))
    | some s =>
      if !s.w then .exc h (srExc n (illegal 0x05 5))
      else if n = 0x044 then h.mtsrThreadCtl w c t
      else if !s.uw && !(h.thr c t).st.priv then .exc h (srExc n (privExc 0x05 1))
      else if hn : 0x090 ≤ n ∧ n ≤ 0x097 then h.tcfgIns ⟨n - 0x090, by omega⟩ f.ra c t
      else if n = 0x0C1 then h.rr2ClrIns f.ra c t
      else if 0x0D0 ≤ n then h.mtsrPage (pageSpecial n) f.ra (Hw.specialPage (pageSpecial n) c) c t
      else match mtsrThread n w (h.thr c t) with
        | some (.ok x) => .ok (h.updT c t fun _ => x) .seq
        | some (.error e) => .exc h e
        | none => IRes.ofE h ((h.mtsrCore n w c).map fun h => (h, .seq))

/-! ### The meanings -/

/-- MFSR (R51). Read a special register into rd. -/
def execMfsr (c : CoreId) (t : Tid) (f : SF) (s : State) : Host.Outcome State Fault Refusal :=
  s.issue c t 4 [] (Hw.mfsrIns f)
/-- MTSR (R51). Write a special register without behaviour of its own. -/
def execMtsr (c : CoreId) (t : Tid) (f : SF) (s : State) : Host.Outcome State Fault Refusal :=
  s.issue c t 4 [f.ra] (Hw.mtsrIns f)

end Sys2Proof.Machine
end

