-- ==== Sys2Proof/Machine/Credit.lean ====
section
/-! DEFINITION. The credit entries of the holders: who waits on one, and their purge (spec 08 R276, R277, R484; spec 14 R434). -/

namespace Sys2Proof.Machine

/-- A holder's entry for a destination ring; EMPTY where it keeps none. -/
def Hw.holderEntry (h : Hw) (hd : Holder) (dest : BitVec 16) (ring : Fin 4) : CEnt :=
  match hd with
  | .core c => match (h.core c.val).credit dest ring with | some (_, e) => e | none => {}
  | .hub d n => let e := (h.ch (.hub d n)).cred; if e.dest = dest ∧ e.ring = ring then e else {}
  | .eng e => lookD (h.eng e.val).credits (ringKey dest ring) {}
  | .net d => lookD (h.net d.val).credits (ringKey dest ring) {}

/-- A holder's entry for a destination ring changed by `f`; a ring without an entry is left alone. -/
def Hw.updHolder (h : Hw) (hd : Holder) (dest : BitVec 16) (ring : Fin 4) (f : CEnt → CEnt) : Hw :=
  match hd with
  | .core c =>
    match (h.core c.val).credit dest ring with
    | some (i, e) => (h.updC c.val fun k => { k with credits := put k.credits i (f e) }).creditInject c.val 2 i
    | none => h
  | .hub d n =>
    let e := (h.ch (.hub d n)).cred
    if e.dest = dest ∧ e.ring = ring then h.updCh (.hub d n) fun x => { x with cred := f e } else h
  | .eng e => h.updEng e fun x => { x with credits := upd x.credits (ringKey dest ring) {} f }
  | .net d => h.updNet d.val fun x => { x with credits := upd x.credits (ringKey dest ring) {} f }

/-- The threads of a core that wait on its entry for a ring, with what they wait to do. -/
def Hw.waiters (h : Hw) (c : CoreId) (dest : BitVec 16) (ring : Fin 4) : List (Tid × Pend) :=
  tids.filterMap fun t =>
    let x := h.thr c t
    match x.pend with
    | some (.send f) => if x.comp.dest = dest ∧ x.comp.ring = ring then some (t, .send f) else none
    | some (.sendf f a n) => if a = dest ∧ n = ring then some (t, .sendf f a n) else none
    | _ => none

/-- The channels that wait on a holder's entry for a ring. -/
def Hw.chanWaiters (h : Hw) (hd : Holder) (dest : BitVec 16) (ring : Fin 4) : List ChanId :=
  (match hd with
    | .core c => (List.finRange 4).map fun n => ChanId.core c n
    | .hub d n => [.hub d n]
    | _ => []).filter fun ch => (h.ch ch).state == DState.wait && (h.ch ch).wait == DWait.credit dest ring

/-- What waits on an entry asks again: a send in its thread's next own slot, a channel as after RETRY (R276, R322, R484). -/
def Hw.askAgain (h : Hw) (hd : Holder) (dest : BitVec 16) (ring : Fin 4) : Hw :=
  let chs := h.chanWaiters hd dest ring
  let h := match hd with
    | .core c => (h.waiters c dest ring).foldl (fun h x => h.updT c x.1 fun x => { x with state := .run, wait := .none }) h
    | _ => h
  chs.foldl (fun h ch => h.updCh ch fun x => { x with wait := .retry }) h

/-- Whether a purge names an entry: every entry whose dest lies on a die, or that of one ring. -/
def purged (v : W32) (e : CEnt) : Bool :=
  e.state != .empty &&
    (if v.getLsbD 23 then fld e.dest 13 8 == fld v 29 24 else e.dest == v.setWidth 16 && e.ring.val == fld v 17 16)

/-- CT_PURGE. -/
def Hw.ctPurge (h : Hw) (c : CoreId) (v : W32) : Hw :=
  ((h.core c.val).credits.filter fun x => purged v x.2).foldl (fun h x =>
    (h.updC c.val fun k => { k with credits := del k.credits x.1 }).askAgain (.core c) x.2.dest x.2.ring) h

/-- HUB_CT_PURGE. -/
def Hw.hubPurge (h : Hw) (d : Fin 36) (v : W32) : Hw :=
  (List.finRange 32).foldl (fun h n =>
    let e := (h.ch (.hub d n)).cred
    if purged v e then (h.updCh (.hub d n) fun x => { x with cred := {} }).askAgain (.hub d n) e.dest e.ring else h) h

/-! ### The meanings -/

/-- CT_PURGE (R434). Discard credit-table entries without a RETURN. -/
def execCtPurge (c : CoreId) (v : BitVec 32) (s : State) : Host.Outcome State Fault Refusal :=
  s.run fun h => h.onPage (dieOf c.val) (siteIx c.val) fun h => h.ctPurge c v
/-- HUB_CT_PURGE (R443). Discard hub channel credit entries. -/
def execHubCtPurge (d : Fin 36) (v : BitVec 32) (s : State) : Host.Outcome State Fault Refusal :=
  s.run fun h => h.onPage d.val 0x101 fun h => h.hubPurge d v

end Sys2Proof.Machine
end

