-- ==== Sys2Proof/Machine/Pages.lean ====
section
/-! DEFINITION. The register pages: what a read of a register returns, and what a page write does to it (spec 00 R8–R11; spec 15
R444–R459 and the register tables of the other chapters). -/

namespace Sys2Proof.Machine

/-- A page that reads 0 and ignores writes: unassigned or of a FUSED unit (R445), of another die than K0 in RECOVERY (R371), or
of a die that did not complete step 4 of a bring-up that failed (R390). -/
def Hw.noPage (h : Hw) (d b : Nat) : Bool :=
  (kindOf d b).isNone || h.shut d b

/-! ### Reads -/

def lo32 {w : Nat} (v : BitVec w) : W32 := v.setWidth 32
def hi32 {w : Nat} (v : BitVec w) : W32 := (v >>> 32).setWidth 32

/-- The common header (R449–R454). -/
def Hw.headerWord (h : Hw) (k : Kind) (d b o : Nat) : W32 :=
  match o with
  | 0x000 => pack 32 [(24, k.code), (16, d), (0, b)]
  | 0x004 => pack 32 [(16, 1), (11, k.can.toNat), (10, k.inj.toNat), (9, k.audit.toNat)]
  | 0x00C => setBit (h.pg d b o) 31 (h.dead d b)
  | 0x024 => h.svcWord d b
  | _ => if (headerRegs.any fun r => r.at o) then h.pg d b o else 0

/-- The counter that MESH_SEL shows: its key, none for output ports 5–7 (R294). -/
def Hw.meshKey (h : Hw) (d : Nat) : Option Nat :=
  let v := h.pg d 0x100 0x040
  if fld v 2 0 < 5 then some (fld v 15 8 * 8 + fld v 2 0) else none

/-- MESH_FLIT_CNT (R294): the flits of messages, and what memory traffic added since the count was set, which is open
(log 93). -/
def Hw.flitCount (h : Hw) (d n : Nat) : W32 :=
  let x := h.die d
  let m := (look x.flitMarks n).getD h.flitMark
  lookD x.flits n 0 + (if m = h.nextId then 0 else Config.memFlits (2048 * d + n) m h.nextId)

/-- Registers of a hub channel that show its state (R333). -/
def Hw.hubChanWord (h : Hw) (d n o : Nat) : W32 :=
  let x := h.chan (hubKey d n)
  let v := h.pg d 0x101 (0x200 + 32 * n + o)
  match o with
  | 0x00 => setBit v 31 (x.state == .killing)
  | 0x0C => x.stat true
  | 0x10 => x.bytes
  | _ => v

def Hw.hubWord (h : Hw) (d o : Nat) : W32 :=
  if o = 0x044 then
    let x := h.die d
    pack 32 [(24, x.errChan), (16, ((List.range 32).filter fun n => match (h.chan (hubKey d n)).state with | .ready | .run | .wait => true | _ => false).length),
      (0, 4096 - x.orphans)]
  else if 0x200 ≤ o ∧ o < 0x600 then h.hubChanWord d ((o - 0x200) / 32) (o % 32)
  else h.pg d 0x101 o

/-- THERM_STAT, THERM_MAX and THERM_ISL of a die, and the module registers of K0 that are computed (R474, R475). -/
def Hw.powerWord (h : Hw) (d o : Nat) : W32 :=
  let unit (n : Nat) : Nat := if d < 20 then 256 * d + n else 256 * d
  let level (n : Nat) : Nat := if d < 36 ∨ d = 38 then h.levelAt (unit n) else 0
  match o with
  | 0x084 =>
    let ls := (List.range (if d < 20 then 256 else 1)).map level
    pack 32 [(16, if d < 20 then (ls.filter fun l => l != 0).length else 0), (0, ls.foldl Nat.max 0)]
  | 0x088 => BitVec.ofNat 32 (temp16 (h.hottest d))
  | 0x090 =>
    let s := fld (h.pg d 0x112 0x08C) 7 0
    pack 32 [(16, temp16 (h.temp (256 * d + s))), (0, level s)]
  | 0x0D4 => BitVec.ofNat 32 (h.k0.energy / 10000)
  | 0x0D8 => BitVec.ofNat 32 (h.k0.energy / 10000 / 2 ^ 32)
  | 0x0DC => pack 32 [(31, h.k0.trip.isSome.toNat), (30, h.alertLow.toNat), (24, h.k0.capLevel.val), (0, temp16 h.hottestAll)]
  | _ => h.pg d 0x112 o

/-- MEM_STAT and MEM_KEY_ID (R256, R236). -/
def Hw.gddrWord (h : Hw) (m o : Nat) : W32 :=
  match o with
  | 0x044 => pack 32 ((List.range 8).map fun c =>
      (2 * c, match (h.mem m).chan c with | .ready => 0 | .tracking => 1 | .retrain => 2 | .dead => 3))
  | 0x04C => Config.keyId h.k0.keyGen 0
  | _ => h.pg (20 + m) 0x010 o

def Hw.mscWord (h : Hw) (m o : Nat) : W32 :=
  match o with
  | 0x044 => BitVec.ofNat 32 ((h.mem m).lines.filter fun l => l.dirty).length
  | 0x054 => BitVec.ofNat 32 (h.mem m).poison.length
  | _ => h.pg (20 + m) 0x011 o

/-- A port's page (R360, R387). -/
def Hw.portWord (h : Hw) (p o : Nat) : W32 :=
  let x := h.port p
  let e := lookD x.rx (h.msaSel p) {}
  match o with
  | 0x044 => if x.up then 7 else 0
  | 0x048 => lo32 (Config.portMac p)
  | 0x04C => hi32 (Config.portMac p)
  | 0x0A4 => lo32 x.tx.pn
  | 0x0A8 => hi32 x.tx.pn
  | 0x0AC => BitVec.ofNat 32 (fld x.tx.w0 17 16)
  | 0x0C4 => e.w0
  | 0x0C8 => lo32 e.sci
  | 0x0CC => hi32 e.sci
  | 0x0D0 => e.ssci
  | 0x0D4 => lo32 e.pn
  | 0x0D8 => hi32 e.pn
  | _ => h.npg (p / 4) (p % 4) o

/-- TP_STAT and TP_WR_FILL (R361). -/
def Hw.transportWord (h : Hw) (d o : Nat) : W32 :=
  match o with
  | 0x048 =>
    let qs := (h.net d).qps
    pack 32 [(16, (qs.filter fun q => q.2.state == qpErr).length),
      (0, Nat.min 1023 ((qs.map fun q => (q.2.inq.filter reqWaits).length).sum))]
  | 0x064 => BitVec.ofNat 32 (h.ring (netId (netIx d)) 0).occ
  | _ => h.npg d 0x010 o

/-- The window, peer and queue-pair pages show the entry selected, as it is in force (R362–R364). -/
def Hw.windowWord (h : Hw) (d o : Nat) : W32 :=
  let x := h.win d (fld (h.npg d 0x011 0x040) 9 0)
  if 0x044 ≤ o ∧ o ≤ 0x05C then lookD x.w ((o - 0x044) / 4) 0
  else if o = 0x060 then BitVec.ofNat 32 x.busy
  else h.npg d 0x011 o
def Hw.peerWord (h : Hw) (d o : Nat) : W32 :=
  if 0x044 ≤ o then lookD (h.peer d (fld (h.npg d 0x012 0x040) 13 0)) ((o - 0x044) / 4) 0 else h.npg d 0x012 o
def Hw.qpWord (h : Hw) (d o : Nat) : W32 :=
  if 0x048 ≤ o then (h.qp d (h.qpSel d)).word ((o - 0x048) / 4) else h.npg d 0x013 o

/-- Boot and measurement (R385): word w of MRi holds its bytes 4w to 4w + 3. -/
def Hw.bootWord (h : Hw) (o : Nat) : W32 :=
  if o = 0x044 then BitVec.ofNat 32 h.svnFloor
  else if 0x050 ≤ o ∧ o < 0x060 then Config.serial ((o - 0x050) / 4)
  else if 0x100 ≤ o then
    let i := (o - 0x100) / 64
    let w := (o - 0x100) / 4 % 16
    lo32 (h.k0.mr i >>> (32 * w))
  else h.pg 39 0x010 o

/-- A word of the link error-rate table (R392). -/
def Hw.rateWord (h : Hw) (n w : Nat) : W32 :=
  if (linkPeer n).isNone || h.linkFused n then 0
  else
    let l := h.link n
    match w with
    | 0 => pack 32 [(24, l.lanesMargin.toNat), (16, l.lanesNominal.toNat), (8, l.worstLane.toNat), (0, l.logBits.toNat)]
    | 1 => l.worstErrors
    | 2 => l.nominalErrors
    | _ => l.replays

/-- The cadence root (R311). -/
def Hw.rootWord (h : Hw) (o : Nat) : W32 :=
  match o with
  | 0x044 => pack 32 [(16, h.k0.pendingBeats), (1, (h.k0.hold != []).toNat), (0, (h.seqSt == 4).toNat)]
  | 0x048 => lo32 h.k0.rootCount
  | 0x04C => hi32 h.k0.rootCount
  | _ => h.pg 39 0x030 o

/-- Photo-finish control (R442). -/
def Hw.pfWord (h : Hw) (o : Nat) : W32 :=
  match o with
  | 0x044 => BitVec.ofNat 32 (h.k0.pfTotal.toNat % 4096)
  | 0x048 => h.k0.pfTotal
  | 0x050 => BitVec.ofNat 32 h.us
  | 0x054 => BitVec.ofNat 32 (h.us / 2 ^ 32)
  | _ => h.pg 39 0x032 o

/-- A block's own register at offset `o`. -/
def Hw.ownWord (h : Hw) (k : Kind) (d b o : Nat) : W32 :=
  match k with
  | .core =>
    match regAt h.variant d b o with
    | some r => if h.noneHeld (256 * d + b) && r.kept == .none then r.reset else h.coreWord (256 * d + b) o
    | none => 0
  | .mesh =>
    if o = 0x044 then match h.meshKey d with | some n => h.flitCount d n | none => 0
    else if o = 0x048 then match h.meshKey d with | some n => lookD (h.die d).waits n 0 | none => 0
    else h.pg d b o
  | .hub => h.hubWord d o
  | .svc => if o < 0x060 then h.svcOut d ((o - 0x040) / 4) else h.pg d b o
  | .leaf =>
    let x := h.die d
    if o = 0x044 then BitVec.ofNat 32 x.sync.toNat
    else if o = 0x048 then lo32 x.count else if o = 0x04C then hi32 x.count else h.pg d b o
  | .power => h.powerWord d o
  | .jasper => if o = 0x044 then h.jspStat (engOf (if d < 36 then 4 * (d - 20) + b else 64 + b)) else h.pg d b o
  | .gddr => h.gddrWord (d - 20) o
  | .msc => h.mscWord (d - 20) o
  | .port => h.portWord (4 * (d - 36) + b) o
  | .transport => h.transportWord (d - 36) o
  | .windows => h.windowWord (d - 36) o
  | .peers => h.peerWord (d - 36) o
  | .qps => h.qpWord (d - 36) o
  | .cxl => if o = 0x054 then Config.keyId h.k0.keyGen 1 else h.pg d b o
  | .link | .cxlPort | .sequencer | .flash => h.pg d b o
  | .boot => h.bootWord o
  | .session => if o = 0x040 then h.sesStat else h.pg d b o
  | .smapHead => if o = 0x044 then h.variantWord else h.pg d b o
  | .smapBody => lookD h.k0.smapBody (b * 4096 + o) 0
  | .linkRate => h.rateWord (160 * (b - 0x024) + (o - 0x100) / 16) (o / 4 % 4)
  | .softRepair => match h.k0.srt[(o - 0x100) / 4]? with | some r => r.word | none => 0
  | .root => h.rootWord o
  | .pfCtl => h.pfWord o
  | .pfEntries =>
    match look h.k0.pf (64 * (b - 0x080) + (o - 0x800) / 32) with
    | some e => e.word (o / 4 % 8)
    | none => 0

/-- A read of the word at offset `o` of a page; WO registers and reserved offsets read 0 (R9, R10). -/
def Hw.pageRead (h : Hw) (d b o : Nat) : W32 :=
  match kindOf d b with
  | none => 0
  | some k =>
    if h.noPage d b then 0
    else if o < 0x040 then h.headerWord k d b o
    else match regAt h.variant d b o with
      | some r => if r.acc = .wo then 0 else h.ownWord k d b o
      | none => 0

/-! ### Writes -/

/-- What a page write comes to: performed, or refused with its reason of R453. -/
inductive PWr where
  | ok (h : Hw)
  | no (reason : Nat)

/-- A write that only sets the bits a write sets (R11). -/
def Hw.plain (h : Hw) (d b o : Nat) (mask v : W32) : PWr := .ok (h.setPg d b o (merge mask (h.pg d b o) v))

/-- A write performed if its value is good (reason 3), else refused. -/
def PWr.ifOk (ok : Bool) (w : PWr) : PWr := if ok then w else .no 3

/-- Header registers. A write to 0x030–0x03C changes nothing and records no access error: R449 lists the words as RO and as
reserved, and the model follows R9 (DESIGN CHOICE, log 110). -/
def Hw.headerWrite (h : Hw) (k : Kind) (d b o : Nat) (v : W32) : PWr :=
  match o with
  | 0x008 => PWr.ifOk (!v.getLsbD 31 || (decide (16 ≤ fld v 28 24) && decide (fld v 28 24 ≤ 30)))
      (.ok (h.setPg d b o (v &&& 0xFF00FFFF)))
  | 0x010 => .ok (h.updPg d b o fun x => x &&& ~~~v)
  | 0x018 => .ok (h.updPg d b o fun x => x &&& ~~~v)
  | 0x014 => h.plain d b o k.evtMask v
  | 0x01C => h.plain d b o 0xFFFFFFFF v
  | 0x020 => .ok (h.injWrite d b v)
  | 0x024 => .ok (h.svcWrite d b v)
  | 0x028 => h.plain d b o 0xFFFFFFFF v
  | 0x02C => .ok (h.auditWrite d b v)
  | _ => if (headerRegs.any fun r => r.at o) then .no 1 else .ok h

/-- DMA channel control (R332, R333): a start of 3 or an event bit outside 16–30 is refused; a kill acts before a go. -/
def Hw.chanCtlWrite (h : Hw) (ch : ChanId) (d b o : Nat) (v : W32) : PWr :=
  let hub := chHub ch
  let ev := if hub then v.getLsbD 22 else v.getLsbD 25
  let bit := if hub then fld v 19 15 else fld v 22 18
  let mask : W32 := if hub then 0x3FFF8000 else 0x3FFE0000
  PWr.ifOk (decide (fld v 29 28 ≠ 3) && (!ev || (decide (16 ≤ bit) && decide (bit ≤ 30))))
    (let h := h.setPg d b o (v &&& mask)
     let h := if v.getLsbD 31 then h.chKill ch else h
     .ok (if v.getLsbD 30 then h.chGo ch else h))

/-- PWR_CTL (R415): the enables are stored and each 1 of a request bit acts. -/
def Hw.pwrCtlWrite (h : Hw) (c : CoreId) (v : W32) : Hw :=
  let h := h.updCpg c.val 0x280 fun x => merge 0x001F0001 x v
  if v.getLsbD 31 then h.coreReset c.val
  else
    let h := if v.getLsbD 30 then h.retainRequest c else h
    let h := if v.getLsbD 29 then h.parkRequest c else h
    if v.getLsbD 28 then h.wakeBit c else h

/-- DBG_CTL (R130, R133). -/
def Hw.dbgCtlWrite (h : Hw) (c : CoreId) (v : W32) : Hw :=
  let h := h.updCpg c.val 0x074 fun x => setBit x 12 (v.getLsbD 12)
  let h := h.haltReq c (v.setWidth 4)
  let h := tids.foldl (fun h t => if v.getLsbD (4 + t.val) then h.dbgStep c t else h) h
  tids.foldl (fun h t => if v.getLsbD (8 + t.val) then h.discardCb c t else h) h

/-- A write that the block's state refuses is reason 4 (R453). -/
def PWr.ofOpt : Option Hw → PWr
  | some h => .ok h
  | none => .no 4

/-- A write of RINGn_BASE or RINGn_CTL through the page (R267, R453). -/
def Hw.ringPage (h : Hw) (c : CoreId) (n : Fin 4) (ctl : Bool) (v : W32) : PWr :=
  match h.ringWrite c n ctl v with
  | some h => .ok h
  | none => .no (h.ringReason c n ctl v)

def fin4 (n : Nat) : Fin 4 := ⟨n % 4, Nat.mod_lt _ (by decide)⟩

/-- A core site's own registers. -/
def Hw.coreWrite (h : Hw) (c : CoreId) (o : Nat) (mask v : W32) : PWr :=
  let d := dieOf c.val
  let b := siteIx c.val
  if o = 0x074 then .ok (h.dbgCtlWrite c v)
  else if 0x0E0 ≤ o ∧ o < 0x100 then .ok (h.stageRoute c ((o - 0x0E0) / 4) v)
  else if 0x100 ≤ o ∧ o < 0x180 ∧ o % 32 < 8 then h.ringPage c (fin4 ((o - 0x100) / 32)) (o % 32 == 4) v
  else if o = 0x190 then .ok (h.cadEvt c.val v)
  else if o = 0x1A0 then .ok (h.updCpg c.val o fun x => x &&& ~~~(v &&& 0xF00))
  else if o = 0x1A4 then PWr.ofOpt (h.ringRecon c (fin4 (fld v 1 0)))
  else if 0x1E0 ≤ o ∧ o < 0x200 then .ok (h.updCpg c.val (o - 0x020) fun x => x + v)
  else if 0x200 ≤ o ∧ o < 0x280 ∧ o % 32 = 0 then h.chanCtlWrite (.core c (fin4 ((o - 0x200) / 32))) d b o v
  else if o = 0x280 then .ok (h.pwrCtlWrite c v)
  else if o = 0x290 then .ok (if v.getLsbD 0 then h.bootRecheck c.val else h)
  else if o = 0x2A0 then .ok (h.ctPurge c v)
  else h.plain d b o mask v

/-- A die DMA hub's own registers (R331, R333, R434). -/
def Hw.hubWrite (h : Hw) (d : Fin 36) (o : Nat) (mask v : W32) : PWr :=
  if o = 0x040 then .ok (if v.getLsbD 8 then h.reclaim d.val else h)
  else if o = 0x048 then .ok (h.hubPurge d v)
  else if 0x0C0 ≤ o ∧ o < 0x100 then .ok (h.updPg d.val 0x101 (o - 0x040) fun x => x + v)
  else if 0x200 ≤ o ∧ o < 0x600 ∧ o % 32 = 0 then
    h.chanCtlWrite (.hub d ⟨(o - 0x200) / 32 % 32, Nat.mod_lt _ (by decide)⟩) d.val 0x101 o v
  else if 0x200 ≤ o ∧ o % 32 = 0x1C then PWr.ifOk (decide (1 ≤ fld v 12 0 ∧ fld v 12 0 ≤ 4096)) (h.plain d.val 0x101 o mask v)
  else h.plain d.val 0x101 o mask v

/-- Who asks for a beat by a write of CAD_REQ (R298, R299). -/
def beatSrc : PageSrc → BeatSrc
  | .thread c _ => .core c
  | .chan ch => .chan ch
  | _ => .window

/-- A die's power and thermal registers (R407, R474, R475). -/
def Hw.powerWrite (h : Hw) (d o : Nat) (mask v : W32) : PWr :=
  match o with
  | 0x040 => .ok (if v.getLsbD 0 then h.dieSleep d else h)
  | 0x080 => PWr.ifOk (decide (fld v 7 0 < fld v 15 8)) (h.plain d 0x112 o mask v)
  | 0x0CC => PWr.ifOk (decide (600 ≤ fld v 15 0)) (h.plain d 0x112 o mask v)
  | _ => h.plain d 0x112 o mask v

/-- A Jasper engine's registers (R253, R258). -/
def Hw.jasperWrite (h : Hw) (e : Eng) (o : Nat) (mask v : W32) : PWr :=
  if o = 0x040 then
    let h := h.updEngPg e 0x040 fun x => setBit x 0 (v.getLsbD 0)
    .ok (if v.getLsbD 8 then h.jspAbort e else h)
  else if 0x060 ≤ o then .ok (h.updEng e fun x => { x with frStaged := put x.frStaged ((o - 0x060) / 4) (v &&& mask) })
  else h.plain (engDie e) (engBlk e) o mask v

/-- A port's registers (R360, R387). -/
def Hw.portWrite (h : Hw) (p : Nat) (o : Nat) (mask v : W32) : PWr :=
  let d := 36 + p / 4
  let b := p % 4
  if o = 0x040 then
    let h := h.setPg d b o (v &&& mask)
    .ok (if v.getLsbD 0 then h else h.linkChange p false)
  else if o = 0x0A0 then (if h.sesOpen then h.plain d b o mask v else .no 4)
  else if o = 0x0C0 then .ok (h.msaWriteSel p v)
  else if o = 0x0C4 then .ok (h.msaCommit p v)
  else if 0x0C8 ≤ o then .ok (h.msaStage p o v)
  else h.plain d b o mask v

/-- The other network registers (R361–R364). -/
def Hw.netRegWrite (h : Hw) (k : Kind) (d b o : Nat) (mask v : W32) : PWr :=
  let n := d - 36
  match k with
  | .transport =>
    if o = 0x040 then PWr.ifOk (decide (fld v 15 8 ≠ 0) && decide (fld v 7 0 ≠ 0)) (h.plain d b o mask v)
    else if o = 0x044 then PWr.ifOk (decide (fld v 7 0 ≠ 0)) (h.plain d b o mask v)
    else h.plain d b o mask v
  | .windows =>
    if o = 0x040 then .ok (h.winSel n v) else if o = 0x044 then .ok (h.winCommit n v)
    else if o < 0x060 then .ok (h.winStage n ((o - 0x044) / 4) v) else h.plain d b o mask v
  | .peers =>
    if o = 0x040 then .ok (h.peerSel n v) else if o = 0x044 then .ok (h.peerCommit n v)
    else .ok (h.peerStage n ((o - 0x044) / 4) v)
  | _ =>
    if o = 0x040 then h.plain d b o mask v else if o = 0x044 then .ok (h.qpCmd n v)
    else .ok (h.qpWrite n ((o - 0x048) / 4) v)

/-- K0's registers (R298, R385, R386, R417, R442, R459). -/
def Hw.k0Write (h : Hw) (src : PageSrc) (k : Kind) (b o : Nat) (mask v : W32) : PWr :=
  match k with
  | .boot => if o = 0x0C0 then .ok (h.mrExtend v) else h.plain 39 b o mask v
  | .session => if o = 0x044 then .ok (if v.getLsbD 0 then h.closeRequest else h) else h.plain 39 b o mask v
  | .sequencer =>
    if o = 0x044 then .ok (h.rstCtl v)
    else if o = 0x04C then .ok (if v.getLsbD 0 then h.standbyRequest else h)
    else h.plain 39 b o mask v
  | .flash =>
    if o = 0x044 then
      match fld v 31 28 with
      | 1 => .ok (h.flashCmd .read)
      | 2 => .ok (h.flashCmd .program)
      | 3 => .ok (h.flashCmd .erase)
      | _ => .no 3
    else if h.flashBusy then .no 4
    else if o = 0x040 then PWr.ifOk (decide (fld v 1 0 = 0)) (h.plain 39 b o mask v)
    else h.plain 39 b o mask v
  | .root =>
    if o = 0x040 then .ok (h.cadCtl v)
    else if o = 0x05C then .ok (if src = .k0 then h.fwBeat else h.cadRefuse 39 0x111 0x05C)
    else h.plain 39 b o mask v
  | .pfCtl =>
    if o = 0x040 then
      let h := h.setPg 39 b o (v &&& 1)
      .ok (if v.getLsbD 1 then h.pfClear else h)
    else h.plain 39 b o mask v
  | _ => h.plain 39 b o mask v

/-- A write of a block's own register, which some table line gives as writable. -/
def Hw.ownWrite (h : Hw) (src : PageSrc) (k : Kind) (d b o : Nat) (mask v : W32) : PWr :=
  match k with
  | .core => if hc : 256 * d + b < 5120 then h.coreWrite ⟨256 * d + b, hc⟩ o mask v else .ok h
  | .mesh =>
    if o = 0x044 then .ok (match h.meshKey d with
      | some n => h.updDie d fun x => { x with flits := put x.flits n v, flitMarks := put x.flitMarks n h.nextId } | none => h)
    else if o = 0x048 then .ok (match h.meshKey d with
      | some n => h.updDie d fun x => { x with waits := put x.waits n v } | none => h)
    else h.plain d b o mask v
  | .hub => if hd : d < 36 then h.hubWrite ⟨d, hd⟩ o mask v else .ok h
  | .leaf => if o = 0x040 then .ok (h.cadReq d (beatSrc src)) else h.plain d b o mask v
  | .power => h.powerWrite d o mask v
  | .jasper => h.jasperWrite (engOf (if d < 36 then 4 * (d - 20) + b else 64 + b)) o mask v
  | .gddr =>
    if hm : d - 20 < 16 ∧ o = 0x040 then
      .ok ((h.updPg d b o fun x => setFld x 15 8 (fld v 15 8)).retrainReq ⟨d - 20, hm.1⟩ (v.setWidth 8))
    else h.plain d b o mask v
  | .msc =>
    if o = 0x040 then
      let h := h.setPg d b o (v &&& 1)
      .ok (if v.getLsbD 8 then h.mscFlush (d - 20) else h)
    else h.plain d b o mask v
  | .cxl =>
    if o = 0x040 then
      let h := h.updPg d b o fun x => (x &&& 0x100) ||| (v &&& 0x101)
      .ok (if v.getLsbD 8 then h.updPg 38 0x010 0x044 fun x => setBit x 9 true else h)
    else h.plain d b o mask v
  | .port => h.portWrite (4 * (d - 36) + b) o mask v
  | .transport | .windows | .peers | .qps => h.netRegWrite k d b o mask v
  | .boot | .session | .sequencer | .flash | .root | .pfCtl => h.k0Write src k b o mask v
  | .link | .cxlPort | .svc | .smapHead | .smapBody | .linkRate | .softRepair | .pfEntries => h.plain d b o mask v

/-- A page write of `v` at offset `o` by `src` (R9–R11, R445, R453): RO registers refuse it with reason 1, reserved offsets ignore
it, and a core in RETAIN ignores it for registers Kept NONE (R409). -/
def Hw.pageWrite (h : Hw) (src : PageSrc) (d b o : Nat) (v : W32) : Hw :=
  match kindOf d b with
  | none => h
  | some k =>
    if h.noPage d b then h
    else if o < 0x040 then
      match h.headerWrite k d b o v with
      | .ok h => h
      | .no r => h.accErr d b o r
    else match regAt h.variant d b o with
      | none => h
      | some r =>
        if k = .core ∧ h.noneHeld (256 * d + b) = true ∧ r.kept = .none then h
        else if r.acc = .ro then h.accErr d b o 1
        else match h.ownWrite src k d b o r.mask v with
          | .ok h => h
          | .no n => h.accErr d b o n

end Sys2Proof.Machine
end

