-- ==== Sys2Proof/Machine/Arrival.lean ====
section
/-! DEFINITION. Requests of cores at their home: GDDR7 lines and register pages (spec 07 R231, R233; spec 15 R446), and page writes
from any source (spec 00 R11). -/

namespace Sys2Proof.Machine

/-- The request `id`, if it may be performed now: none earlier of its core stands before it (R231, R446). -/
def Hw.ready1 (h : Hw) (id : Nat) (write : Bool) : Option MReq :=
  (h.reqs.find? fun r => r.id == id).filter fun r => r.write == write && !h.blocked r && !h.reqHeld r

/-- MEMORY_READ_ARRIVAL: at the home die of a GDDR7 line, or at a register page; both wait for a sleeping die (R410). -/
def Hw.readArrives (h : Hw) (id : Nat) : Hw :=
  match h.ready1 id false with
  | none => h
  | some r =>
    if r.addr < cxlBase then if h.awake (20 + h.home (r.addr / 128)) then h.readAtHome r else h
    else if regBase ≤ r.addr then
      let (d, b, o) := pageOf r.addr
      if h.awake d then (h.dropReq id).answer r (leBytes r.len (h.pageRead d b o).toNat) none else h
    else h

/-- MEMORY_WRITE_ARRIVAL; the starter's write of CAD_REQ waits for room at the root (R301). -/
def Hw.writeArrives (h : Hw) (id : Nat) (w : Fin 16) : Hw :=
  match h.ready1 id true with
  | none => h
  | some r =>
    if r.addr < cxlBase then if h.awake (20 + h.home (r.addr / 128)) then h.writeAtHome r w else h
    else if regBase ≤ r.addr then
      let (d, b, o) := pageOf r.addr
      if kindOf d b = some .leaf ∧ o = 0x040 ∧ h.cadFull d (.core r.core) = true then h
      else if h.awake d then
        ((h.dropReq id).pageWrite (.thread r.core r.thread) d b o (BitVec.ofNat 32 (leNat (r.data.map fun x => x.2)))).answer r [] none
      else h
    else h

/-- The posted page write of a thread that a REGISTER_WRITE performs: its oldest to that address with that value. -/
def Hw.posted (h : Hw) (c : CoreId) (t : Tid) (a : Nat) (v : W32) : Option MReq :=
  h.reqs.find? fun r => r.core == c && r.thread == t && r.write && r.addr == a && leNat (r.data.map fun x => x.2) == v.toNat

/-- REGISTER_WRITE: a page write by its source; a thread's is the posted store it has under way, where there is one (log 27). Any other
adds its flits to what MESH_FLIT_CNT leaves open (R294, log 93). -/
def Hw.regWrite (h : Hw) (src : PageSrc) (a : Nat) (v : W32) : Hw :=
  if a < regBase ∨ regTop ≤ a ∨ a % 4 ≠ 0 then h
  else
    let (d, b, o) := pageOf a
    let direct : Hw := if h.awake d then ({ h with nextId := h.nextId + 1 } : Hw).pageWrite src d b o v else h
    match src with
    | .thread c t => match h.posted c t a v with
      | some r => h.writeArrives r.id 0
      | none => direct
    | _ => direct

/-! ### The meanings -/

/-- MEMORY_READ_ARRIVAL (R233). A read reaches its home die and hits, joins or opens a window. -/
def execMemoryReadArrival (id : Nat) (s : State) : Host.Outcome State Fault Refusal := s.run fun h => h.readArrives id
/-- MEMORY_WRITE_ARRIVAL (R231). A write reaches its home die and is performed or held. -/
def execMemoryWriteArrival (id : Nat) (way : Fin 16) (s : State) : Host.Outcome State Fault Refusal :=
  s.run fun h => h.writeArrives id way
/-- REGISTER_WRITE (R11). A page write to a register without behaviour of its own. -/
def execRegisterWrite (src : PageSrc) (a : BitVec 48) (v : BitVec 32)
    (s : State) : Host.Outcome State Fault Refusal :=
  s.run fun h => h.regWrite src a.toNat v

end Sys2Proof.Machine
end

