-- ==== Sys2Proof/Machine/NetIn.lean ====
section
/-! DEFINITION. The responder: packets of a remote peer checked against a window and performed, and SEND (spec 11 R341, R348–R354;
spec 14 R426, R427).  One message of a QP is in hand at a time; those behind it wait in order. -/

namespace Sys2Proof.Machine

/-- How a request's PSN stands to the expected one (R338, R341). -/
inductive PsnAt where
  | next | duplicate | ahead
  deriving DecidableEq, Repr

def Hw.psnAt (h : Hw) (d q : Nat) (psn : BitVec 24) : PsnAt :=
  let delta := (psn - ((h.qp d q).word 3).setWidth 24).toNat
  if delta = 0 then .next else if delta < 2 ^ 23 then .ahead else .duplicate

/-- A live QP with no request in hand serves its oldest waiting one. -/
def Hw.takes (h : Hw) (d q : Nat) : Bool := h.qpLive d q && (h.qp d q).msg.isNone && (h.qp d q).deliver.isNone

def Hw.nak (h : Hw) (d q : Nat) (psn : BitVec 24) (code : Fin 4) : Hw := h.emit d q 1 psn (.nak code)
def Hw.ack (h : Hw) (d q : Nat) (psn : BitVec 24) : Hw := h.emit d q 1 psn .ack

/-- The PSN of the last packet of a message of `n` bytes that starts at `psn`. -/
def lastPsn (psn : BitVec 24) (n : Nat) : BitVec 24 := psn + BitVec.ofNat 24 (packets n - 1)

/-- The ACKs of a long message before its last packet: one for every 16 packets (R341). -/
def Hw.midAcks (h : Hw) (d q : Nat) (psn : BitVec 24) (n : Nat) : Hw :=
  (List.range ((packets n - 1) / 16)).foldl (fun h i => h.ack d q (psn + BitVec.ofNat 24 (16 * i + 15))) h

/-- NAK codes of `Out.nak`. -/
def nakPsn : Fin 4 := 0
def nakInvalid : Fin 4 := 1
def nakAccess : Fin 4 := 2
def nakOper : Fin 4 := 3

/-- A NAK that puts the QP in ERR (R350, R427). -/
def Hw.nakErr (h : Hw) (d q : Nat) (psn : BitVec 24) (code : Fin 4) : Hw :=
  ((h.nak d q psn code).dropIn d q).updQp d q fun x => x.flush.setState qpErr

/-- A failure of R350 is counted. -/
def Hw.winFail (h : Hw) (d q : Nat) (psn : BitVec 24) (code : Fin 4) : Hw :=
  let h := h.updPg (36 + d) 0x011 0x064 fun v => satAdd 32 v 1
  if code = nakInvalid then h.nak d q psn code else h.nakErr d q psn code

/-- What a request asks of its window. -/
inductive WinOp where
  | read | write | writeImm | fadd
  deriving DecidableEq, Repr

/-- Fields of a window entry's words (R362). -/
def winType (w : Tab W32) : Nat := fld (lookD w 0 0) 30 29
def winSite (w : Tab W32) : Nat := fld (lookD w 1 0) 31 16
def winBase (w : Tab W32) : Nat := (lookD w 2 0).toNat + 2 ^ 32 * fld (lookD w 3 0) 15 0

/-- The type and the r, w and a bits permit an operation (R348). -/
def winPermits (w : Tab W32) (op : WinOp) : Bool :=
  let c := lookD w 0 0
  match op with
  | .read => c.getLsbD 28
  | .write => c.getLsbD 27
  | .writeImm => c.getLsbD 27 && winType w != 0
  | .fadd => c.getLsbD 26 && winType w != 0

/-- A DIE reset of a die is in progress: it is coming back, and not from SLEEP (R405, R416). -/
def Hw.inDieReset (h : Hw) (d : Nat) : Bool := (h.die d).sleep == .waking && fld (h.pg d 0x112 0x044) 1 0 != 3

/-- The checks of R350, in order: none when the request is admitted, else the NAK. -/
def Hw.winCheck (h : Hw) (d q : Nat) (r : WinReq) (len : Nat) (op : WinOp) : Option (Fin 4) :=
  let w := (h.win d (fld r.rkey 9 0)).w
  let c := lookD w 0 0
  let off := r.offset.toNat
  if !c.getLsbD 31 || fld c 21 0 != fld r.rkey 31 10 then some nakAccess
  else if !c.getLsbD 25 && fld ((h.qp d q).word 0) 13 0 != fld (lookD w 1 0) 13 0 then some nakAccess
  else if !winPermits w op then some nakAccess
  else if 64 * (lookD w 4 0).toNat < off + len then some nakAccess
  else if winType w = 0 ∧ (off % 4 ≠ 0 ∨ len % 4 ≠ 0) then some nakInvalid
  else if op = .fadd ∧ off % 8 ≠ 0 then some nakInvalid
  else if winType w = 1 ∧ (h.goneSite (winSite w) || h.inDieReset (winSite w / 256)) = true then some nakOper
  else none

/-- The addresses of a request's lines and register words, one for each die that it can touch, and the core whose local memory
it touches: it waits while one of them is not reached (R29, R410). -/
def Hw.winHeld (h : Hw) (d q : Nat) (w : Tab W32) (off len : Nat) : Bool :=
  let a := winBase w + off
  match winType w with
  | 0 => decide (len ≠ 0) && [a, a + len - 1].any fun a =>
      !h.awake ((a - regBase) / 2 ^ 24) || h.unitHeld (h.qpUnit d q) a
  | 1 => h.coreHeld d q (winSite w)
  | _ => false

/-- Page writes of consecutive words by a QP. -/
def Hw.regWrites (h : Hw) (d q : Nat) : Nat → List Byte → Hw
  | a, b0 :: b1 :: b2 :: b3 :: bs =>
    let (e, b, o) := pageOf a
    (({ h with nextId := h.nextId + 1 } : Hw).pageWrite (.qp (netIx d) (qpIx q)) e b o (BitVec.ofNat 32 (leNat [b0, b1, b2, b3]))).regWrites d q (a + 4) bs
  | _, _ => h

/-- Bytes written through a window; an error of the memory met, `memWait` where it must wait (R349). -/
def Hw.winWrite (h : Hw) (d q : Nat) (w : Tab W32) (off : Nat) (data : List Byte) : Hw × Option Nat :=
  let a := winBase w + off
  match winType w with
  | 0 => (h.regWrites d q a data, none)
  | 1 => (h.lmWrite (winSite w) a data, none)
  | _ => h.memWrite (h.qpUnit d q) a data

/-- Bytes read through a window. -/
def Hw.winRead (h : Hw) (d q : Nat) (w : Tab W32) (off len : Nat) : Hw × Except Nat (List Byte) :=
  let a := winBase w + off
  if len = 0 then (h, .ok [])
  else match winType w with
  | 0 => ({ h with nextId := h.nextId + 1 }, .ok ((List.range (len / 4)).map fun i =>
      let (e, b, o) := pageOf (a + 4 * i)
      leBytes 4 (h.pageRead e b o).toNat).flatten)
  | 1 => h.locRead (winSite w) a len
  | _ => h.memRead (h.qpUnit d q) true a len

/-- The message of a SEND or of an immediate (R353). -/
def Hw.recvMsg (h : Hw) (d q kind len : Nat) (imm : W32) (data : List Byte) : Hw × Msg :=
  let x := h.qp d q
  let n := Nat.max 1 ((32 + data.length + 63) / 64)
  let record := leBytes 4 (kind + q * 2 ^ 16) ++ leBytes 4 len ++ leBytes 4 imm.toNat ++ leBytes 4 0
  let (h, bs) := h.padded (record ++ data) n
  (h, normalMsg (netId (netIx d)) (BitVec.ofNat 16 (fld (x.word 5) 31 16)) (fin4 (fld (x.word 5) 1 0)) n
    (BitVec.ofNat 16 (fld (x.word 6) 15 0)) bs)

/-- An admitted WRITE or WRITE_IMM is written, and is in hand until WINDOW_MESSAGE_END (R351, R352); none while its memory must
wait. -/
def Hw.admitWin (h : Hw) (d q win : Nat) (w : Tab W32) (psn : BitVec 24) (off : Nat) (data : List Byte) (imm : Option Msg) :
    Option Hw :=
  let m : WinMsg := { win := win, w := w, imm := imm, psn := some (lastPsn psn data.length) }
  let h := (h.midAcks d q psn data.length).updQp d q fun x => ({ x with msg := some m }).advance 3 (packets data.length)
  match h.winWrite d q w off data with
  | (h, none) => some h
  | (h, some k) =>
    if k = memWait then none
    else some (((h.updQp d q fun x => { x with msg := none }).updWin d win fun x => { x with busy := x.busy - 1 }).nakErr d q psn
      nakOper)

/-- A message that waits for its credit goes on once the endpoint holds it (R353). -/
def Hw.deliverGo (h : Hw) (d q : Nat) : Hw :=
  match (h.qp d q).deliver with
  | none => h
  | some x =>
    let old := h
    match h.netSpend d q x.msg.dest x.msg.ring x.msg.n with
    | (h, false) => h
    | (h, true) =>
      let h := h.updQp d q fun y => { y with deliver := none }
      match x.win with
      | some (win, w) => (h.admitWin d q win w x.psn x.off x.data (some x.msg)).getD old
      | none =>
        (((h.netSend d q x.msg).updQp d q fun y => y.advance 3 (packets x.data.length)).midAcks d q x.psn x.data.length).ack d q
          (lastPsn x.psn x.data.length)

/-- A WRITE, with an immediate or without (R350, R352, R353). -/
def Hw.inWrite (h : Hw) (d q : Nat) (r : WinReq) (data : List Byte) (imm : Option W32) : Option Hw :=
  match h.psnAt d q r.psn with
  | .ahead => some (h.nak d q r.psn nakPsn)
  | .duplicate => some (h.ack d q (lastPsn r.psn data.length))
  | .next =>
    let win := fld r.rkey 9 0
    let w := (h.win d win).w
    match h.winCheck d q r data.length (if imm.isSome then .writeImm else .write) with
    | some code => some (h.winFail d q r.psn code)
    | none =>
      if h.winHeld d q w r.offset.toNat data.length then none
      else
        let h := h.updWin d win fun x => { x with busy := x.busy + 1 }
        match imm with
        | none => h.admitWin d q win w r.psn r.offset.toNat data none
        | some v =>
          let (h, m) := h.recvMsg d q 2 0 v []
          some ((h.updQp d q fun x =>
            { x with deliver := some { msg := m, win := some (win, w), psn := r.psn, off := r.offset.toNat, data := data } }).deliverGo
              d q)

/-- A READ: a duplicate is served again, and moves no PSN (R341). -/
def Hw.inRead (h : Hw) (d q : Nat) (r : WinReq) : Option Hw :=
  let p := h.psnAt d q r.psn
  let w := (h.win d (fld r.rkey 9 0)).w
  if p = .ahead then some (h.nak d q r.psn nakPsn)
  else match h.winCheck d q r r.length .read with
  | some code => some (h.winFail d q r.psn code)
  | none =>
    if h.winHeld d q w r.offset.toNat r.length then none
    else match h.winRead d q w r.offset.toNat r.length with
      | (h, .error k) => if k = memWait then none else some (h.nakErr d q r.psn nakOper)
      | (h, .ok bs) =>
        let h := if p = .next then h.updQp d q fun x => x.advance 3 (packets r.length) else h
        some (h.emit d q (packets r.length) r.psn (.readData bs))

/-- A SEND: at most 992 bytes, once the credit of its message is held (R353). -/
def Hw.inSend (h : Hw) (d q : Nat) (psn : BitVec 24) (data : List Byte) : Option Hw :=
  match h.psnAt d q psn with
  | .ahead => some (h.nak d q psn nakPsn)
  | .duplicate => some (h.ack d q (lastPsn psn data.length))
  | .next =>
    if 992 < data.length then some (h.nak d q psn nakInvalid)
    else
      let (h, m) := h.recvMsg d q 1 data.length 0 data
      some ((h.updQp d q fun x => { x with deliver := some { msg := m, win := none, psn := psn, data := data } }).deliverGo d q)

/-- A fetch-add: a duplicate returns the result saved for it (R341, R354). -/
def Hw.inFadd (h : Hw) (d q : Nat) (r : WinReq) (addend : BitVec 64) : Option Hw :=
  let out (h : Hw) (v : BitVec 64) : Hw := h.emit d q 1 r.psn (.atomicAck v)
  match h.psnAt d q r.psn with
  | .ahead => some (h.nak d q r.psn nakPsn)
  | .duplicate => some (match look (h.qp d q).savedAtomic r.psn.toNat with | some v => out h v | none => h)
  | .next =>
    let w := (h.win d (fld r.rkey 9 0)).w
    let off := r.offset.toNat
    match h.winCheck d q r 8 .fadd with
    | some code => some (h.winFail d q r.psn code)
    | none =>
      if h.winHeld d q w off 8 then none
      else match h.winRead d q w off 8 with
        | (h, .error k) => if k = memWait then none else some (h.nakErr d q r.psn nakOper)
        | (h, .ok bs) =>
          let v := BitVec.ofNat 64 (leNat bs)
          match h.winWrite d q w off (leBytes 8 (v + addend).toNat) with
          | (h, some k) => if k = memWait then none else some (h.nakErr d q r.psn nakOper)
          | (h, none) =>
            some (out (h.updQp d q fun x => { x with savedAtomic := put x.savedAtomic r.psn.toNat v }.advance 3 1) v)

/-- A request of the peer; none while its target is not reached (R29, R228, R410). -/
def Hw.serveReq (h : Hw) (d q : Nat) (r : InReq) : Option Hw :=
  match r with
  | .write r data imm => h.inWrite d q r data imm
  | .read r => h.inRead d q r
  | .send psn data => h.inSend d q psn data
  | .fadd r addend => h.inFadd d q r addend

/-- The waiting requests of a QP are served in their order, as far as they can be. -/
def Hw.serveIn : Nat → Hw → Nat → Nat → Hw
  | 0, h, _, _ => h
  | fuel + 1, h, d, q =>
    match (h.qp d q).inq with
    | [] => h
    | r :: rs =>
      if !h.takes d q then h
      else match (h.updQp d q fun x => { x with inq := rs }).serveReq d q r with
        | some h => Hw.serveIn fuel h d q
        | none => h
def Hw.serveReqs (h : Hw) (d q : Nat) : Hw := Hw.serveIn (h.qp d q).inq.length h d q

/-- A request arrives at a live QP: one above 2³¹ bytes is outside the subset (R338), a READ or fetch-add behind 16 that wait is
invalid (R341), any other takes its place behind those that wait. -/
def Hw.incoming (h : Hw) (d q : Nat) (r : InReq) : Hw :=
  if !h.qpLive d q then h
  else if 2 ^ 31 < reqLength r then h.tpDrop d
  else if reqWaits r && decide (16 ≤ ((h.qp d q).inq.filter reqWaits).length) then h.nak d q (reqPsn r) nakInvalid
  else (h.updQp d q fun x => { x with inq := x.inq ++ [r] }).serveReqs d q

/-- WINDOW_MESSAGE_END: the message in hand ends; then what waits behind it, or waited for its memory, goes on (R351, R352). -/
def Hw.windowEnd (h : Hw) (d q : Nat) : Hw := if h.awake (36 + d) then ((h.msgEnd d q).deliverGo d q).serveReqs d q else h

/-! ### The meanings -/

/-- INCOMING_RDMA_WRITE (R350). An incoming WRITE is checked and written through a window. -/
def execIncomingRdmaWrite (d : NetId) (q : Fin 2048) (r : WinReq) (data : List Byte)
    (s : State) : Host.Outcome State Fault Refusal :=
  if data.length = r.length then s.run fun h => h.incoming d.val q.val (.write r data none) else .fault .illFormed
/-- INCOMING_WRITE_IMM (R353). An incoming WRITE with immediate is written and its message prepared. -/
def execIncomingWriteImm (d : NetId) (q : Fin 2048) (r : WinReq) (data : List Byte) (imm : BitVec 32)
    (s : State) : Host.Outcome State Fault Refusal :=
  if data.length = r.length then s.run fun h => h.incoming d.val q.val (.write r data (some imm)) else .fault .illFormed
/-- INCOMING_RDMA_READ (R350). An incoming READ is checked and served. -/
def execIncomingRdmaRead (d : NetId) (q : Fin 2048) (r : WinReq) (s : State) : Host.Outcome State Fault Refusal :=
  s.run fun h => h.incoming d.val q.val (.read r)
/-- INCOMING_SEND (R353). An incoming SEND is delivered as a message to the receive target. -/
def execIncomingSend (d : NetId) (q : Fin 2048) (psn : BitVec 24) (data : List Byte)
    (s : State) : Host.Outcome State Fault Refusal :=
  s.run fun h => h.incoming d.val q.val (.send psn data)
/-- INCOMING_FETCH_ADD (R354). The atomic unit performs an incoming fetch-add. -/
def execIncomingFetchAdd (d : NetId) (q : Fin 2048) (r : WinReq) (addend : BitVec 64)
    (s : State) : Host.Outcome State Fault Refusal :=
  s.run fun h => h.incoming d.val q.val (.fadd r addend)
/-- WINDOW_MESSAGE_END (R352). After a window write's acknowledgements, count it, signal and ACK. -/
def execWindowMessageEnd (d : NetId) (q : Fin 2048) (s : State) : Host.Outcome State Fault Refusal :=
  s.run fun h => h.windowEnd d.val q.val
/-- SEND_CREDIT_TIMEOUT (R353). No grant within 1 µs gives an RNR NAK. -/
def execSendCreditTimeout (d : NetId) (q : Fin 2048) (s : State) : Host.Outcome State Fault Refusal :=
  s.run fun h => (h.rnrNak d.val q.val).serveReqs d.val q.val

end Sys2Proof.Machine
end

