-- ==== Sys2Proof/Machine/Answers.lean ====
section
/-! DEFINITION. Answers to credit requests at their holder, and recalls (spec 08 R276–R280, R283, R288, R484; spec 10 R322; spec 11
R347, R353). -/

namespace Sys2Proof.Machine

/-- The first packet that ring (dest, ring)'s receiver has sent to a holder, if it is one that `f` accepts. -/
def Hw.answerTo (h : Hw) (q : Queue) (hd : Holder) (dest : BitVec 16) {α : Type} (f : PBody → Option α) : Option (α × Hw) :=
  match h.firstOf q dest (holderSrc hd) with
  | some (b, h) => (f b).map fun x => (x, h)
  | none => none

/-- A bounce that waits to land holds BNC at a core's router (R288). -/
def Hw.bncHeld (h : Hw) : Holder → Bool
  | .core c => h.bouncesOf c != []
  | _ => false

/-- QPs of an endpoint with a message that waits for the credit of a ring, and with a completion that does. -/
def Hw.deliverQps (h : Hw) (d : Nat) (dest : BitVec 16) (ring : Fin 4) : List Nat :=
  ((h.net d).qps.filter fun q => match q.2.deliver with | some x => x.msg.dest == dest && x.msg.ring == ring | none => false).map (·.1)
def Hw.cplQps (h : Hw) (d : Nat) (dest : BitVec 16) (ring : Fin 4) : List Nat :=
  ((h.net d).qps.filter fun q => q.2.asked && match q.2.cpls with | c :: _ => c.rcore == dest && c.rring == ring | [] => false).map (·.1)

/-- GRANT (R276, R278): the entry is HELD with `g` more credits, and what waits on it goes on. -/
def Hw.granted (h : Hw) (hd : Holder) (dest : BitVec 16) (ring : Fin 4) (g : Nat) : Hw :=
  if (h.holderEntry hd dest ring).state ≠ .req then h
  else
    let stamp := match hd with | .core c => stampOf (h.core c.val).credits | _ => 0
    let h := h.updHolder hd dest ring fun e => { e with credits := e.credits + g, state := .held, stamp := stamp }
    let chs := h.chanWaiters hd dest ring
    let h := match hd with
      | .core c => (h.waiters c dest ring).foldl (fun h x => h.resume c x.1 x.2) h
      | .net d => (h.deliverQps d.val dest ring).foldl (fun h q => (h.deliverGo d.val q).serveReqs d.val q) h
      | _ => h
    chs.foldl (fun h ch => h.updCh ch fun x => { x with state := .ready, wait := .none }) h

/-- An answer that grants nothing ends the request: the entry keeps the credits it held. -/
def Hw.noGrant (h : Hw) (hd : Holder) (dest : BitVec 16) (ring : Fin 4) : Hw :=
  h.updHolder hd dest ring fun e => { e with state := if e.credits = 0 then .empty else .held }

/-- RETRY (R276, R322, R353). -/
def Hw.retried (h : Hw) (hd : Holder) (dest : BitVec 16) (ring : Fin 4) : Hw :=
  if (h.holderEntry hd dest ring).state ≠ .req then h
  else
    let h := (h.noGrant hd dest ring).askAgain hd dest ring
    match hd with
    | .core c => h.updCpg c.val 0x18C fun v => satAdd 32 v 1
    | .net d => (h.deliverQps d.val dest ring).foldl (fun h q => (h.rnrNak d.val q).serveReqs d.val q) h
    | _ => h

/-- A denied SEND becomes a local bounce and completes; without room for it the SEND re-executes. A denied SENDF raises MSG with
reason 7 (R276, R283, R288). -/
def Hw.sendDenied (h : Hw) (c : CoreId) (t : Tid) (p : Pend) (b : BitVec 2) : Hw :=
  let h := h.updT c t fun x => { x with state := .run, wait := .none }
  let x := h.thr c t
  match p with
  | .send f =>
    match sendArgs f x with
    | .error e => h.finish c t 4 (.exc h e)
    | .ok n =>
      match h.landBounce c ((x.composed c n).bounce b) with
      | some h => h.finish c t 4 (.ok (h.closeComp c t) .seq)
      | none => h
  | .sendf f _ _ =>
    match h.sendfArgs f c x with
    | .error e => h.finish c t 4 (.exc h e)
    | .ok (r, _) => h.finish c t 4 (.exc h (msgExc r 7))
  | _ => h

/-- A denied SIGNAL MSG becomes a bounce in the bounce ring of its src, and the channel continues (R322). While the program or the
message cannot be read, the channel asks again (R410). -/
def Hw.signalDenied (h : Hw) (ch : ChanId) (b : BitVec 2) : Hw :=
  let stop (h : Hw) (e : Nat) : Hw :=
    if e = memWait then h.updCh ch fun x => { x with state := .ready, wait := .none } else h.chFail ch e
  match h.dmaFetch ch with
  | (h, .error e) => stop h e
  | (h, .ok bs) =>
    match h.signalMessage ch bs with
    | (h, .error e) => stop h e
    | (h, .ok m) =>
      let src := m.src
      let h := match ch with
        | .core c _ => match h.landBounce c (m.bounce b) with
          | some h => h
          | none => h.setBounces c (h.bouncesOf c ++ [m.bounce b])
        | .hub d _ => h.send { q := .bnc, src := srcOf d.val 0x101, dest := src, body := .message (m.bounce b) }
      h.dmaEnd ch .next

/-- DENY (R276, R278, R347, R353). -/
def Hw.denied (h : Hw) (hd : Holder) (dest : BitVec 16) (ring : Fin 4) (b : BitVec 2) : Hw :=
  if (h.holderEntry hd dest ring).state ≠ .req then h
  else
    let h := h.noGrant hd dest ring
    let chs := h.chanWaiters hd dest ring
    let h := match hd with
      | .core c => (h.waiters c dest ring).foldl (fun h x => h.sendDenied c x.1 x.2 b) h
      | .hub _ _ => h
      | .eng e => match (h.eng e.val).replies with
        | r :: _ => if r.dest = dest ∧ r.ring = ring then h.replyGone e else h
        | [] => h
      | .net d =>
        let h := (h.cplQps d.val dest ring).foldl (fun h q =>
          (h.updPg (36 + d.val) 0x010 0x05C fun v => satAdd 32 v 1).cplGone d.val q) h
        (h.deliverQps d.val dest ring).foldl (fun h q => (h.rnrNak d.val q).serveReqs d.val q) h
    chs.foldl (fun h ch => h.signalDenied ch b) h

/-- RECALL (R280): the unused credits return, and the entry empties or stays in REQ with none. -/
def Hw.recalled (h : Hw) (hd : Holder) (dest : BitVec 16) (ring : Fin 4) : Hw :=
  let e := h.holderEntry hd dest ring
  let h := h.updHolder hd dest ring fun e => { e with credits := 0, state := if e.state = .req then .req else .empty }
  h.send { q := .ctl, src := holderSrc hd, dest := dest, body := .ret hd ring e.credits }

/-! ### The meanings -/

/-- GRANT_ARRIVAL (R277). A grant adds credits to the sender's entry. -/
def execGrantArrival (h : Holder) (dest : BitVec 16) (ring : Fin 4) (s : State) : Host.Outcome State Fault Refusal :=
  s.run fun x =>
    match x.answerTo .ctl h dest (fun b => match b with | .grant k n g => if k = h ∧ n = ring then some g else none | _ => none) with
    | some (g, x) => x.granted h dest ring g
    | none => x
/-- RETRY_ARRIVAL (R276). A RETRY makes the waiting SEND re-execute. -/
def execRetryArrival (h : Holder) (dest : BitVec 16) (ring : Fin 4) (s : State) : Host.Outcome State Fault Refusal :=
  s.run fun x =>
    match x.answerTo .ctl h dest (fun b => match b with | .retry k n => if k = h ∧ n = ring then some () else none | _ => none) with
    | some (_, x) => x.retried h dest ring
    | none => x
/-- DENY_ARRIVAL (R276). A DENY turns the waiting message into a local bounce. -/
def execDenyArrival (h : Holder) (dest : BitVec 16) (ring : Fin 4) (s : State) : Host.Outcome State Fault Refusal :=
  s.run fun x =>
    if x.bncHeld h then x else match x.answerTo .bnc h dest (fun b => match b with | .deny k n b => if k = h ∧ n = ring then some b else none | _ => none) with
    | some (g, x) => x.denied h dest ring g
    | none => x
/-- RECALL_ARRIVAL (R280). A holder returns its unused credits. -/
def execRecallArrival (h : Holder) (dest : BitVec 16) (ring : Fin 4) (s : State) : Host.Outcome State Fault Refusal :=
  s.run fun x =>
    match x.answerTo .ctl h dest (fun b => match b with | .recallOf k n => if k = h ∧ n = ring then some () else none | _ => none) with
    | some (_, x) => x.recalled h dest ring
    | none => x

end Sys2Proof.Machine
end

