-- ==== Sys2Proof/Machine/Dispatch.lean ====
section
/-! DEFINITION. One arm per command: the meaning it calls. -/

namespace Sys2Proof.Machine

/-- The effect of a command on everything but the queue of waiting commands. -/
def exec (i : Instr) (s : State) : Host.Outcome State Fault Refusal :=
  match i with
  | .add c t f => Sys2Proof.Machine.execAdd c t f s
  | .sub c t f => Sys2Proof.Machine.execSub c t f s
  | .mul c t f => Sys2Proof.Machine.execMul c t f s
  | .mulh c t f => Sys2Proof.Machine.execMulh c t f s
  | .mulhu c t f => Sys2Proof.Machine.execMulhu c t f s
  | .div c t f => Sys2Proof.Machine.execDiv c t f s
  | .divu c t f => Sys2Proof.Machine.execDivu c t f s
  | .rem c t f => Sys2Proof.Machine.execRem c t f s
  | .remu c t f => Sys2Proof.Machine.execRemu c t f s
  | .andOp c t f => Sys2Proof.Machine.execAndOp c t f s
  | .orOp c t f => Sys2Proof.Machine.execOrOp c t f s
  | .xorOp c t f => Sys2Proof.Machine.execXorOp c t f s
  | .andn c t f => Sys2Proof.Machine.execAndn c t f s
  | .shl c t f => Sys2Proof.Machine.execShl c t f s
  | .shr c t f => Sys2Proof.Machine.execShr c t f s
  | .sar c t f => Sys2Proof.Machine.execSar c t f s
  | .rol c t f => Sys2Proof.Machine.execRol c t f s
  | .clz c t f => Sys2Proof.Machine.execClz c t f s
  | .popc c t f => Sys2Proof.Machine.execPopc c t f s
  | .min c t f => Sys2Proof.Machine.execMin c t f s
  | .max c t f => Sys2Proof.Machine.execMax c t f s
  | .minu c t f => Sys2Proof.Machine.execMinu c t f s
  | .maxu c t f => Sys2Proof.Machine.execMaxu c t f s
  | .seq c t f => Sys2Proof.Machine.execSeq c t f s
  | .slt c t f => Sys2Proof.Machine.execSlt c t f s
  | .sltu c t f => Sys2Proof.Machine.execSltu c t f s
  | .addi c t f => Sys2Proof.Machine.execAddi c t f s
  | .andi c t f => Sys2Proof.Machine.execAndi c t f s
  | .ori c t f => Sys2Proof.Machine.execOri c t f s
  | .xori c t f => Sys2Proof.Machine.execXori c t f s
  | .shi c t f => Sys2Proof.Machine.execShi c t f s
  | .slti c t f => Sys2Proof.Machine.execSlti c t f s
  | .li c t f => Sys2Proof.Machine.execLi c t f s
  | .fadd c t f => Sys2Proof.Machine.execFadd c t f s
  | .fsub c t f => Sys2Proof.Machine.execFsub c t f s
  | .fmul c t f => Sys2Proof.Machine.execFmul c t f s
  | .fdiv c t f => Sys2Proof.Machine.execFdiv c t f s
  | .fsqrt c t f => Sys2Proof.Machine.execFsqrt c t f s
  | .fmin c t f => Sys2Proof.Machine.execFmin c t f s
  | .fmax c t f => Sys2Proof.Machine.execFmax c t f s
  | .fma c t f => Sys2Proof.Machine.execFma c t f s
  | .feq c t f => Sys2Proof.Machine.execFeq c t f s
  | .flt c t f => Sys2Proof.Machine.execFlt c t f s
  | .fle c t f => Sys2Proof.Machine.execFle c t f s
  | .fneg c t f => Sys2Proof.Machine.execFneg c t f s
  | .fabs c t f => Sys2Proof.Machine.execFabs c t f s
  | .cvtif c t f => Sys2Proof.Machine.execCvtif c t f s
  | .cvtfi c t f => Sys2Proof.Machine.execCvtfi c t f s
  | .mov c t f => Sys2Proof.Machine.execMov c t f s
  | .retagI c t f => Sys2Proof.Machine.execRetagI c t f s
  | .retagF c t f => Sys2Proof.Machine.execRetagF c t f s
  | .tagof c t f => Sys2Proof.Machine.execTagof c t f s
  | .clr c t f => Sys2Proof.Machine.execClr c t f s
  | .evhnd c t f => Sys2Proof.Machine.execEvhnd c t f s
  | .adda c t f => Sys2Proof.Machine.execAdda c t f s
  | .suba c t f => Sys2Proof.Machine.execSuba c t f s
  | .difa c t f => Sys2Proof.Machine.execDifa c t f s
  | .aeq c t f => Sys2Proof.Machine.execAeq c t f s
  | .alt c t f => Sys2Proof.Machine.execAlt c t f s
  | .aligna c t f => Sys2Proof.Machine.execAligna c t f s
  | .addai c t f => Sys2Proof.Machine.execAddai c t f s
  | .leapc c t f => Sys2Proof.Machine.execLeapc c t f s
  | .ld c t f => Sys2Proof.Machine.execLd c t f s
  | .st c t f => Sys2Proof.Machine.execSt c t f s
  | .beq c t f => Sys2Proof.Machine.execBeq c t f s
  | .bne c t f => Sys2Proof.Machine.execBne c t f s
  | .blt c t f => Sys2Proof.Machine.execBlt c t f s
  | .bge c t f => Sys2Proof.Machine.execBge c t f s
  | .bltu c t f => Sys2Proof.Machine.execBltu c t f s
  | .bgeu c t f => Sys2Proof.Machine.execBgeu c t f s
  | .bnil c t f => Sys2Proof.Machine.execBnil c t f s
  | .bnnil c t f => Sys2Proof.Machine.execBnnil c t f s
  | .br c t off => Sys2Proof.Machine.execBr c t off s
  | .call c t off => Sys2Proof.Machine.execCall c t off s
  | .jr c t f => Sys2Proof.Machine.execJr c t f s
  | .callr c t f => Sys2Proof.Machine.execCallr c t f s
  | .ret c t f => Sys2Proof.Machine.execRet c t f s
  | .rssave c t f => Sys2Proof.Machine.execRssave c t f s
  | .rssaveB c t f => Sys2Proof.Machine.execRssaveB c t f s
  | .rsload c t f => Sys2Proof.Machine.execRsload c t f s
  | .rsloadB c t f => Sys2Proof.Machine.execRsloadB c t f s
  | .liL c t f => Sys2Proof.Machine.execLiL c t f s
  | .addiL c t f => Sys2Proof.Machine.execAddiL c t f s
  | .addaiL c t f => Sys2Proof.Machine.execAddaiL c t f s
  | .leapcL c t f => Sys2Proof.Machine.execLeapcL c t f s
  | .bL c t f => Sys2Proof.Machine.execBL c t f s
  | .callL c t f => Sys2Proof.Machine.execCallL c t f s
  | .mfsr c t f => Sys2Proof.Machine.execMfsr c t f s
  | .mtsr c t f => Sys2Proof.Machine.execMtsr c t f s
  | .mintL c t f => Sys2Proof.Machine.execMintL c t f s
  | .mintG c t f => Sys2Proof.Machine.execMintG c t f s
  | .mkstat c t f => Sys2Proof.Machine.execMkstat c t f s
  | .eret c t f => Sys2Proof.Machine.execEret c t f s
  | .scall c t f => Sys2Proof.Machine.execScall c t f s
  | .sret c t f => Sys2Proof.Machine.execSret c t f s
  | .wfe c t f => Sys2Proof.Machine.execWfe c t f s
  | .sev c t f => Sys2Proof.Machine.execSev c t f s
  | .sevl c t f => Sys2Proof.Machine.execSevl c t f s
  | .waitcC c t f => Sys2Proof.Machine.execWaitcC c t f s
  | .waitcB c t f => Sys2Proof.Machine.execWaitcB c t f s
  | .fork c t f => Sys2Proof.Machine.execFork c t f s
  | .join c t f => Sys2Proof.Machine.execJoin c t f s
  | .exit c t f => Sys2Proof.Machine.execExit c t f s
  | .lock c t f => Sys2Proof.Machine.execLock c t f s
  | .trylock c t f => Sys2Proof.Machine.execTrylock c t f s
  | .unlock c t f => Sys2Proof.Machine.execUnlock c t f s
  | .brk c t f => Sys2Proof.Machine.execBrk c t f s
  | .fenceG c t f => Sys2Proof.Machine.execFenceG c t f s
  | .icinv c t f => Sys2Proof.Machine.execIcinv c t f s
  | .icinvL c t f => Sys2Proof.Machine.execIcinvL c t f s
  | .repI c t f b => Sys2Proof.Machine.execRepI c t f b s
  | .repN c t f b => Sys2Proof.Machine.execRepN c t f b s
  | .intrEntry c t => Sys2Proof.Machine.execIntrEntry c t s
  | .threadfEntry c => Sys2Proof.Machine.execThreadfEntry c s
  | .stallEntry c => Sys2Proof.Machine.execStallEntry c s
  | .threadWake c t => Sys2Proof.Machine.execThreadWake c t s
  | .startEntry c => Sys2Proof.Machine.execStartEntry c s
  | .threadStop c t n => Sys2Proof.Machine.execThreadStop c t n s
  | .stopHalt c t => Sys2Proof.Machine.execStopHalt c t s
  | .threadResume c t n => Sys2Proof.Machine.execThreadResume c t n s
  | .threadAbandon c t n => Sys2Proof.Machine.execThreadAbandon c t n s
  | .haltReq c bits => Sys2Proof.Machine.execHaltReq c bits s
  | .debugHalt c t => Sys2Proof.Machine.execDebugHalt c t s
  | .step c t => Sys2Proof.Machine.execStep c t s
  | .discardCb c t => Sys2Proof.Machine.execDiscardCb c t s
  | .dcflushL c t f => Sys2Proof.Machine.execDcflushL c t f s
  | .dcinvL c t f => Sys2Proof.Machine.execDcinvL c t f s
  | .dcfiL c t f => Sys2Proof.Machine.execDcfiL c t f s
  | .dcflush c t f => Sys2Proof.Machine.execDcflush c t f s
  | .dcfi c t f => Sys2Proof.Machine.execDcfi c t f s
  | .dcinv c t f => Sys2Proof.Machine.execDcinv c t f s
  | .tbwr c t f => Sys2Proof.Machine.execTbwr c t f s
  | .tbrdV c t f => Sys2Proof.Machine.execTbrdV c t f s
  | .tbrdP c t f => Sys2Proof.Machine.execTbrdP c t f s
  | .tbinv c t f => Sys2Proof.Machine.execTbinv c t f s
  | .tbinva c t f => Sys2Proof.Machine.execTbinva c t f s
  | .tbprobe c t f => Sys2Proof.Machine.execTbprobe c t f s
  | .globalResponse c id => Sys2Proof.Machine.execGlobalResponse c id s
  | .dataCacheFill c id way => Sys2Proof.Machine.execDataCacheFill c id way s
  | .delayedAccessServed c d => Sys2Proof.Machine.execDelayedAccessServed c d s
  | .tcfgWrite c t n ra => Sys2Proof.Machine.execTcfgWrite c t n ra s
  | .tload c t f => Sys2Proof.Machine.execTload c t f s
  | .tstore c t f => Sys2Proof.Machine.execTstore c t f s
  | .tstoreT c t f => Sys2Proof.Machine.execTstoreT c t f s
  | .tzero c t f => Sys2Proof.Machine.execTzero c t f s
  | .tileRowDone c id => Sys2Proof.Machine.execTileRowDone c id s
  | .mma c t f => Sys2Proof.Machine.execMma c t f s
  | .mmaS c t f => Sys2Proof.Machine.execMmaS c t f s
  | .arrayInstructionStart c back => Sys2Proof.Machine.execArrayInstructionStart c back s
  | .arrayInstructionComplete c back => Sys2Proof.Machine.execArrayInstructionComplete c back s
  | .azero c t f => Sys2Proof.Machine.execAzero c t f s
  | .aload c t f => Sys2Proof.Machine.execAload c t f s
  | .astore c t f => Sys2Proof.Machine.execAstore c t f s
  | .astoreBf c t f => Sys2Proof.Machine.execAstoreBf c t f s
  | .amovV c t f => Sys2Proof.Machine.execAmovV c t f s
  | .amovA c t f => Sys2Proof.Machine.execAmovA c t f s
  | .abias c t f => Sys2Proof.Machine.execAbias c t f s
  | .amuls c t f => Sys2Proof.Machine.execAmuls c t f s
  | .amovT c t f => Sys2Proof.Machine.execAmovT c t f s
  | .accumulatorInstructionStart c t => Sys2Proof.Machine.execAccumulatorInstructionStart c t s
  | .vadd c t f => Sys2Proof.Machine.execVadd c t f s
  | .vsub c t f => Sys2Proof.Machine.execVsub c t f s
  | .vmul c t f => Sys2Proof.Machine.execVmul c t f s
  | .vmulh c t f => Sys2Proof.Machine.execVmulh c t f s
  | .vmin c t f => Sys2Proof.Machine.execVmin c t f s
  | .vmax c t f => Sys2Proof.Machine.execVmax c t f s
  | .vminu c t f => Sys2Proof.Machine.execVminu c t f s
  | .vmaxu c t f => Sys2Proof.Machine.execVmaxu c t f s
  | .vand c t f => Sys2Proof.Machine.execVand c t f s
  | .vor c t f => Sys2Proof.Machine.execVor c t f s
  | .vxor c t f => Sys2Proof.Machine.execVxor c t f s
  | .vandn c t f => Sys2Proof.Machine.execVandn c t f s
  | .vshl c t f => Sys2Proof.Machine.execVshl c t f s
  | .vshr c t f => Sys2Proof.Machine.execVshr c t f s
  | .vsar c t f => Sys2Proof.Machine.execVsar c t f s
  | .vceq c t f => Sys2Proof.Machine.execVceq c t f s
  | .vclt c t f => Sys2Proof.Machine.execVclt c t f s
  | .vcltu c t f => Sys2Proof.Machine.execVcltu c t f s
  | .vfadd c t f => Sys2Proof.Machine.execVfadd c t f s
  | .vfsub c t f => Sys2Proof.Machine.execVfsub c t f s
  | .vfmul c t f => Sys2Proof.Machine.execVfmul c t f s
  | .vfma c t f => Sys2Proof.Machine.execVfma c t f s
  | .vfmin c t f => Sys2Proof.Machine.execVfmin c t f s
  | .vfmax c t f => Sys2Proof.Machine.execVfmax c t f s
  | .vfdiv c t f => Sys2Proof.Machine.execVfdiv c t f s
  | .vfsqrt c t f => Sys2Proof.Machine.execVfsqrt c t f s
  | .vcvtif c t f => Sys2Proof.Machine.execVcvtif c t f s
  | .vcvtfi c t f => Sys2Proof.Machine.execVcvtfi c t f s
  | .vfexp c t f => Sys2Proof.Machine.execVfexp c t f s
  | .vflog c t f => Sys2Proof.Machine.execVflog c t f s
  | .vfrcp c t f => Sys2Proof.Machine.execVfrcp c t f s
  | .vfrsq c t f => Sys2Proof.Machine.execVfrsq c t f s
  | .vftanh c t f => Sys2Proof.Machine.execVftanh c t f s
  | .vfceq c t f => Sys2Proof.Machine.execVfceq c t f s
  | .vfclt c t f => Sys2Proof.Machine.execVfclt c t f s
  | .vfcle c t f => Sys2Proof.Machine.execVfcle c t f s
  | .vld c t f => Sys2Proof.Machine.execVld c t f s
  | .vst c t f => Sys2Proof.Machine.execVst c t f s
  | .kand c t f => Sys2Proof.Machine.execKand c t f s
  | .kor c t f => Sys2Proof.Machine.execKor c t f s
  | .kxor c t f => Sys2Proof.Machine.execKxor c t f s
  | .kandn c t f => Sys2Proof.Machine.execKandn c t f s
  | .knot c t f => Sys2Proof.Machine.execKnot c t f s
  | .kmovg c t f => Sys2Proof.Machine.execKmovg c t f s
  | .kmovk c t f => Sys2Proof.Machine.execKmovk c t f s
  | .kfirst c t f => Sys2Proof.Machine.execKfirst c t f s
  | .vsplat c t f => Sys2Proof.Machine.execVsplat c t f s
  | .vins c t f => Sys2Proof.Machine.execVins c t f s
  | .vext c t f => Sys2Proof.Machine.execVext c t f s
  | .vperm c t f => Sys2Proof.Machine.execVperm c t f s
  | .vrsum c t f => Sys2Proof.Machine.execVrsum c t f s
  | .vrmax c t f => Sys2Proof.Machine.execVrmax c t f s
  | .vcvt c t f => Sys2Proof.Machine.execVcvt c t f s
  | .opr c t f => Sys2Proof.Machine.execOpr c t f s
  | .rowred2 c t f fn => Sys2Proof.Machine.execRowred2 c t f fn s
  | .rowred2Complete c => Sys2Proof.Machine.execRowred2Complete c s
  | .derivo c t f fn => Sys2Proof.Machine.execDerivo c t f fn s
  | .derivi c t f fn => Sys2Proof.Machine.execDerivi c t f fn s
  | .rr2Clr c t ra => Sys2Proof.Machine.execRr2Clr c t ra s
  | .arrayParityEntry c t => Sys2Proof.Machine.execArrayParityEntry c t s
  | .mhdr c t f => Sys2Proof.Machine.execMhdr c t f s
  | .mput c t f => Sys2Proof.Machine.execMput c t f s
  | .mputV c t f => Sys2Proof.Machine.execMputV c t f s
  | .send c t f => Sys2Proof.Machine.execSend c t f s
  | .sendf c t f => Sys2Proof.Machine.execSendf c t f s
  | .mdiscard c t f => Sys2Proof.Machine.execMdiscard c t f s
  | .mqPop c t f => Sys2Proof.Machine.execMqPop c t f s
  | .mdone c t f => Sys2Proof.Machine.execMdone c t f s
  | .mwait c t f => Sys2Proof.Machine.execMwait c t f s
  | .msgDispatch c t => Sys2Proof.Machine.execMsgDispatch c t s
  | .messageDeposit src dest fixed => Sys2Proof.Machine.execMessageDeposit src dest fixed s
  | .eventArrival src dest => Sys2Proof.Machine.execEventArrival src dest s
  | .operandArrival dest recs => Sys2Proof.Machine.execOperandArrival dest recs s
  | .broadcastArrival mask laddr data => Sys2Proof.Machine.execBroadcastArrival mask laddr data s
  | .creditRequestArrival h dest ring => Sys2Proof.Machine.execCreditRequestArrival h dest ring s
  | .grantTimeout h dest ring => Sys2Proof.Machine.execGrantTimeout h dest ring s
  | .grantArrival h dest ring => Sys2Proof.Machine.execGrantArrival h dest ring s
  | .retryArrival h dest ring => Sys2Proof.Machine.execRetryArrival h dest ring s
  | .denyArrival h dest ring => Sys2Proof.Machine.execDenyArrival h dest ring s
  | .recallArrival h dest ring => Sys2Proof.Machine.execRecallArrival h dest ring s
  | .returnArrival h dest ring => Sys2Proof.Machine.execReturnArrival h dest ring s
  | .bounceLanding c => Sys2Proof.Machine.execBounceLanding c s
  | .ringConfigWrite c n ctl w => Sys2Proof.Machine.execRingConfigWrite c n ctl w s
  | .ringRecall c n w => Sys2Proof.Machine.execRingRecall c n w s
  | .frouteWrite c r w => Sys2Proof.Machine.execFrouteWrite c r w s
  | .ringRecon c n => Sys2Proof.Machine.execRingRecon c n s
  | .ctPurge c v => Sys2Proof.Machine.execCtPurge c v s
  | .hubCtPurge d v => Sys2Proof.Machine.execHubCtPurge d v s
  | .cadReq u => Sys2Proof.Machine.execCadReq u s
  | .cadFwBeat => Sys2Proof.Machine.execCadFwBeat s
  | .beatRequestArrival d => Sys2Proof.Machine.execBeatRequestArrival d s
  | .beatIssue => Sys2Proof.Machine.execBeatIssue s
  | .beat d => Sys2Proof.Machine.execBeat d s
  | .cadEvtWrite c v => Sys2Proof.Machine.execCadEvtWrite c v s
  | .leafRejoin d nb => Sys2Proof.Machine.execLeafRejoin d nb s
  | .dmastart c t f => Sys2Proof.Machine.execDmastart c t f s
  | .dmastat c t f => Sys2Proof.Machine.execDmastat c t f s
  | .dmakill c t f => Sys2Proof.Machine.execDmakill c t f s
  | .channelGo ch => Sys2Proof.Machine.execChannelGo ch s
  | .channelKill ch => Sys2Proof.Machine.execChannelKill ch s
  | .killComplete ch k => Sys2Proof.Machine.execKillComplete ch k s
  | .periodStart ch => Sys2Proof.Machine.execPeriodStart ch s
  | .moveOp ch => Sys2Proof.Machine.execMoveOp ch s
  | .loopOp ch => Sys2Proof.Machine.execLoopOp ch s
  | .waitChev ch => Sys2Proof.Machine.execWaitChev ch s
  | .waitBeat ch => Sys2Proof.Machine.execWaitBeat ch s
  | .waitCnt ch => Sys2Proof.Machine.execWaitCnt ch s
  | .waitTimer ch => Sys2Proof.Machine.execWaitTimer ch s
  | .dmaWaitMet ch => Sys2Proof.Machine.execDmaWaitMet ch s
  | .signalSev ch => Sys2Proof.Machine.execSignalSev ch s
  | .signalCnt ch => Sys2Proof.Machine.execSignalCnt ch s
  | .signalMsg ch => Sys2Proof.Machine.execSignalMsg ch s
  | .signalBeat ch => Sys2Proof.Machine.execSignalBeat ch s
  | .signalChev ch => Sys2Proof.Machine.execSignalChev ch s
  | .dmaMsgRetry ch => Sys2Proof.Machine.execDmaMsgRetry ch s
  | .endOp ch => Sys2Proof.Machine.execEndOp ch s
  | .dmaEntry c t => Sys2Proof.Machine.execDmaEntry c t s
  | .dmaCntInc c j v => Sys2Proof.Machine.execDmaCntInc c j v s
  | .hubCntInc d j v => Sys2Proof.Machine.execHubCntInc d j v s
  | .hubReclaim d => Sys2Proof.Machine.execHubReclaim d s
  | .gemv e => Sys2Proof.Machine.execGemv e s
  | .attn e => Sys2Proof.Machine.execAttn e s
  | .gather e => Sys2Proof.Machine.execGather e s
  | .reduce e => Sys2Proof.Machine.execReduce e s
  | .copyOp e => Sys2Proof.Machine.execCopyOp e s
  | .fill e => Sys2Proof.Machine.execFill e s
  | .jobReply e => Sys2Proof.Machine.execJobReply e s
  | .jasperAbort e => Sys2Proof.Machine.execJasperAbort e s
  | .memoryReadArrival id => Sys2Proof.Machine.execMemoryReadArrival id s
  | .memoryWriteArrival id way => Sys2Proof.Machine.execMemoryWriteArrival id way s
  | .combineWindowClose m line => Sys2Proof.Machine.execCombineWindowClose m line s
  | .gddrFillLanding m line way => Sys2Proof.Machine.execGddrFillLanding m line way s
  | .gddrTracking m ch => Sys2Proof.Machine.execGddrTracking m ch s
  | .retrainReq m mask => Sys2Proof.Machine.execRetrainReq m mask s
  | .crcRetryThreshold m ch => Sys2Proof.Machine.execCrcRetryThreshold m ch s
  | .retrainComplete m ch pass => Sys2Proof.Machine.execRetrainComplete m ch pass s
  | .mscFlush m => Sys2Proof.Machine.execMscFlush m s
  | .cxlAccess a => Sys2Proof.Machine.execCxlAccess a s
  | .cxlReenum devs => Sys2Proof.Machine.execCxlReenum devs s
  | .cxlPortDown p => Sys2Proof.Machine.execCxlPortDown p s
  | .frameReceive p f => Sys2Proof.Machine.execFrameReceive p f s
  | .portLinkChange p up => Sys2Proof.Machine.execPortLinkChange p up s
  | .wrWrite d => Sys2Proof.Machine.execWrWrite d s
  | .wrWriteImm d => Sys2Proof.Machine.execWrWriteImm d s
  | .wrRead d => Sys2Proof.Machine.execWrRead d s
  | .wrSend d => Sys2Proof.Machine.execWrSend d s
  | .wrFadd d => Sys2Proof.Machine.execWrFadd d s
  | .completion d q => Sys2Proof.Machine.execCompletion d q s
  | .ackReceive d q a => Sys2Proof.Machine.execAckReceive d q a s
  | .ackTimeout d q => Sys2Proof.Machine.execAckTimeout d q s
  | .rnrTimerExpiry d q => Sys2Proof.Machine.execRnrTimerExpiry d q s
  | .cnpReceive d q => Sys2Proof.Machine.execCnpReceive d q s
  | .rateIncrease d q => Sys2Proof.Machine.execRateIncrease d q s
  | .incomingRdmaWrite d q r data => Sys2Proof.Machine.execIncomingRdmaWrite d q r data s
  | .incomingWriteImm d q r data imm => Sys2Proof.Machine.execIncomingWriteImm d q r data imm s
  | .incomingRdmaRead d q r => Sys2Proof.Machine.execIncomingRdmaRead d q r s
  | .incomingSend d q psn data => Sys2Proof.Machine.execIncomingSend d q psn data s
  | .incomingFetchAdd d q r addend => Sys2Proof.Machine.execIncomingFetchAdd d q r addend s
  | .windowMessageEnd d q => Sys2Proof.Machine.execWindowMessageEnd d q s
  | .sendCreditTimeout d q => Sys2Proof.Machine.execSendCreditTimeout d q s
  | .qpOpen d => Sys2Proof.Machine.execQpOpen d s
  | .qpClose d => Sys2Proof.Machine.execQpClose d s
  | .windowOpen d v => Sys2Proof.Machine.execWindowOpen d v s
  | .windowClose d v => Sys2Proof.Machine.execWindowClose d v s
  | .peerCommit d v => Sys2Proof.Machine.execPeerCommit d v s
  | .msaCommit p v => Sys2Proof.Machine.execMsaCommit p v s
  | .attReq p a => Sys2Proof.Machine.execAttReq p a s
  | .certReq p a => Sys2Proof.Machine.execCertReq p a s
  | .sesOpen p a => Sys2Proof.Machine.execSesOpen p a s
  | .attSegmentTimeout src => Sys2Proof.Machine.execAttSegmentTimeout src s
  | .encapKeyExpire reportId => Sys2Proof.Machine.execEncapKeyExpire reportId s
  | .sessionCloseRequest => Sys2Proof.Machine.execSessionCloseRequest s
  | .sessionClose => Sys2Proof.Machine.execSessionClose s
  | .mrExtend v => Sys2Proof.Machine.execMrExtend v s
  | .powerOn => Sys2Proof.Machine.execPowerOn s
  | .bringUpSequence o => Sys2Proof.Machine.execBringUpSequence o s
  | .heatPower h => Sys2Proof.Machine.execHeatPower h s
  | .islandPowerGoodTimeout c => Sys2Proof.Machine.execIslandPowerGoodTimeout c s
  | .bootImageCheck c => Sys2Proof.Machine.execBootImageCheck c s
  | .bootRecordTimeout c => Sys2Proof.Machine.execBootRecordTimeout c s
  | .bootRecheck c => Sys2Proof.Machine.execBootRecheck c s
  | .blkSvcWrite d b v => Sys2Proof.Machine.execBlkSvcWrite d b v s
  | .resetPin lowNs => Sys2Proof.Machine.execResetPin lowNs s
  | .rstCtlCold => Sys2Proof.Machine.execRstCtlCold s
  | .rstCtlWarm => Sys2Proof.Machine.execRstCtlWarm s
  | .rstCtlDie d => Sys2Proof.Machine.execRstCtlDie d s
  | .k0Watchdog => Sys2Proof.Machine.execK0Watchdog s
  | .coreReset c => Sys2Proof.Machine.execCoreReset c s
  | .powerLoss => Sys2Proof.Machine.execPowerLoss s
  | .parkRequest c => Sys2Proof.Machine.execParkRequest c s
  | .parkEntry c => Sys2Proof.Machine.execParkEntry c s
  | .parkExit c => Sys2Proof.Machine.execParkExit c s
  | .retainRequest c => Sys2Proof.Machine.execRetainRequest c s
  | .retainEntry c => Sys2Proof.Machine.execRetainEntry c s
  | .retainWake c => Sys2Proof.Machine.execRetainWake c s
  | .wake c => Sys2Proof.Machine.execWake c s
  | .dieSleep d => Sys2Proof.Machine.execDieSleep d s
  | .dieWakeWrite d => Sys2Proof.Machine.execDieWakeWrite d s
  | .dieWake d page => Sys2Proof.Machine.execDieWake d page s
  | .standbyRequest => Sys2Proof.Machine.execStandbyRequest s
  | .standbyWake sec => Sys2Proof.Machine.execStandbyWake sec s
  | .standbyWakeTimer => Sys2Proof.Machine.execStandbyWakeTimer s
  | .blkInjArm d b v => Sys2Proof.Machine.execBlkInjArm d b v s
  | .auditRequest d b v => Sys2Proof.Machine.execAuditRequest d b v s
  | .auditSnapshot d b => Sys2Proof.Machine.execAuditSnapshot d b s
  | .islandError c code => Sys2Proof.Machine.execIslandError c code s
  | .linkCrcFailure slot lanes => Sys2Proof.Machine.execLinkCrcFailure slot lanes s
  | .laneRetire slot lane => Sys2Proof.Machine.execLaneRetire slot lane s
  | .meshHeaderParity d x => Sys2Proof.Machine.execMeshHeaderParity d x s
  | .requestTimeout id => Sys2Proof.Machine.execRequestTimeout id s
  | .pfClear => Sys2Proof.Machine.execPfClear s
  | .flashRead => Sys2Proof.Machine.execFlashRead s
  | .flashProgram => Sys2Proof.Machine.execFlashProgram s
  | .flashErase => Sys2Proof.Machine.execFlashErase s
  | .flashComplete ok => Sys2Proof.Machine.execFlashComplete ok s
  | .capComparison vin iin pin => Sys2Proof.Machine.execCapComparison vin iin pin s
  | .thermalSample rs => Sys2Proof.Machine.execThermalSample rs s
  | .gddrTempRead m temps => Sys2Proof.Machine.execGddrTempRead m temps s
  | .i2cRead addr => Sys2Proof.Machine.execI2cRead addr s
  | .i2cWrite addr v => Sys2Proof.Machine.execI2cWrite addr v s
  | .bypass => Sys2Proof.Machine.execBypass s
  | .idcode => Sys2Proof.Machine.execIdcode s
  | .samplePreload => Sys2Proof.Machine.execSamplePreload s
  | .extest => Sys2Proof.Machine.execExtest s
  | .clamp => Sys2Proof.Machine.execClamp s
  | .highz => Sys2Proof.Machine.execHighz s
  | .registerWrite src a v => Sys2Proof.Machine.execRegisterWrite src a v s
  | .trackingPauseEnd m ch => Sys2Proof.Machine.execTrackingPauseEnd m ch s
  | .standbyEntryTimeout => Sys2Proof.Machine.execStandbyEntryTimeout s
  | .inputOvervoltage => Sys2Proof.Machine.execInputOvervoltage s
  | .tripResetHoldEnd => Sys2Proof.Machine.execTripResetHoldEnd s
  | .jasperEnWrite e en => Sys2Proof.Machine.execJasperEnWrite e en s

end Sys2Proof.Machine
end

