-- ==== Sys2Proof/Machine/Tick.lean ====
section
/-! DEFINITION. The clock: what happens at a tick of 1/12 ns on an empty queue (log 15; spec 01 R18).

A cc is three ticks, an mc four and an mdc six, all counted from POWER. -/

namespace Sys2Proof.Machine

/-- The core clock runs: the island has power and is in RUN, or still on its way into RETAIN (R53, R408). -/
def Hw.clockRuns (h : Hw) (c : Nat) : Bool := h.powered && (h.site c).powered && (decide (h.pwr c = 0) || decide (h.pwr c = 3))

/-- One cc of a core: CYCLE and STALL_CNT, which is 0 in a cc that does not count (R53, R126, R128). -/
def Hw.coreCc (h : Hw) (c : CoreId) : Hw :=
  if h.clockRuns c.val then
    h.updC c.val fun k => { k with cycle := k.cycle + 1, stallCnt := if h.stalled c then k.stallCnt + 1 else 0 }
  else h

/-- The number of ticks by which the timer of the channel of key `key` counts: cc on a core engine, mc on a compute-die hub,
mdc on a memory-side hub (R321). -/
def timerTicks (key : Nat) : Nat := if key < 0x100000 then 3 else if (key - 0x100000) / 32 < 20 then 4 else 6

/-- The engine of a channel has a running clock. -/
def Hw.chanClock (h : Hw) (key : Nat) : Bool :=
  if key < 0x100000 then h.clockRuns (key / 4)
  else h.powered && decide ((h.die ((key - 0x100000) / 32)).sleep = .run)

/-- The timers of the channels that are started, at the tick `n` (R321). -/
def Hw.timers (h : Hw) (n : Nat) : Hw :=
  { h with chans := h.chans.map fun p =>
      (p.1, if n % timerTicks p.1 = 0 ∧ p.2.state.active = true ∧ h.chanClock p.1 = true then
        { p.2 with timer := p.2.timer + 1 } else p.2) }

/-- One tick of the clock. -/
def Hw.tick (h : Hw) : Hw :=
  let n := h.now + 1
  let h := ({ h with now := n } : Hw).timers n
  if n % 3 = 0 then (List.finRange 5120).foldl (fun h c => h.coreCc c) h else h

end Sys2Proof.Machine
end

