-- ==== Sys2Proof/Safety.lean ====
section
/-! DEFINITION. What the statements call a sound state, a run that goes on, and an instruction that completes. -/

namespace Sys2Proof.Machine

/-- Every byte memory of the module keeps its canonical form (`Memory.wf`). -/
def Hw.memOk (h : Hw) : Bool :=
  h.gddr.wf && h.cxlMem.wf && h.cores.all fun p => p.2.lmem.wf

/-- Every waiting command is one that the outside can bring (`Instr.wf`). -/
def State.queueOk (s : State) : Bool := s.pending.all Instr.wf

/-- A command goes on: its outcome is a next state. -/
def Completes (i : Instr) (s : State) : Prop := ∃ t, exec i s = .next t

/-! ### A thread's instruction that completes

An instruction of `len` bytes completes when its thread runs, no entry and no halt is due, its fetch meets no fault, no
source register has bad parity and single-step is off; what its operands must be each statement says. -/

/-- The slot of thread `t` runs an instruction of `len` bytes, and nothing but the instruction's own operands can stop it. -/
def Hw.slotReady (h : Hw) (c : CoreId) (t : Tid) (len : Nat) : Bool :=
  h.canIssue c t && (h.dueEvent c t).isNone && (h.haltDue c t).isNone && (h.fetch c t len).isOk &&
    (h.thr c t).badReg.isNone && !(h.thr c t).st.ss

/-- The hardware as an instruction that is no REP prefix finds it: rep_active cleared (R91). -/
def Hw.begun (h : Hw) (c : CoreId) (t : Tid) : Hw := h.updT c t fun x => x.setSt fun s => { s with repActive := false }

/-- The PC goes to `p`, and a debugger step is over (R130). -/
def Hw.pcTo (h : Hw) (c : CoreId) (t : Tid) (p : TWord) : Hw := (h.updT c t fun x => { x with pc := p }).endStep c t

/-- The next state of an instruction that leaves the hardware as `h` and goes on to the instruction behind it. -/
def State.did (s : State) (c : CoreId) (t : Tid) (len : Nat) (h : Hw) : Host.Outcome State Fault Refusal :=
  .next { s with hw := h.pcTo c t ⟨(s.hw.thr c t).pc.tag, (s.hw.thr c t).pc.val + BitVec.ofNat 64 len⟩ }

/-- The next state of an instruction that leaves the hardware as `h` and goes to `p`. -/
def State.jumped (s : State) (c : CoreId) (t : Tid) (h : Hw) (p : TWord) : Host.Outcome State Fault Refusal :=
  .next { s with hw := h.pcTo c t p }

/-- The next state in which the hardware is `h` and the same commands wait. -/
def State.leaves (s : State) (h : Hw) : Host.Outcome State Fault Refusal := .next { s with hw := h }

/-- The next state of an instruction that parks its thread: the PC stays. -/
def State.parked (s : State) (h : Hw) : Host.Outcome State Fault Refusal := .next { s with hw := h }

/-- The next state of an instruction that faults with `e`: the entry, with the PC as the return address (R113, R116). -/
def State.faulted (s : State) (c : CoreId) (t : Tid) (e : Exc) : Host.Outcome State Fault Refusal :=
  .next { s with hw := (((s.hw.begun c t).countMiss c e).enter c t e (s.hw.thr c t).pc).endStep c t }

/-- A scalar operand of thread `t`. -/
def State.reg (s : State) (c : CoreId) (t : Tid) (r : Reg) : TWord := (s.hw.thr c t).rd r

def int? (w : TWord) : Bool := w.tag.isInt
def fp? (w : TWord) : Bool := w.tag == .fp

/-- An integer instruction of two sources that writes `v ra rb` to rd as INT. -/
def Computes (mk : CoreId → Tid → RF → Instr) (v : Word → Word → Word) : Prop :=
  ∀ c t f s, s.hw.slotReady c t 4 = true → (s.reg c t f.ra).tag.isInt = true → (s.reg c t f.rb).tag.isInt = true →
    exec (mk c t f) s =
      s.did c t 4 ((s.hw.begun c t).wrG c t f.rd ⟨.int, v (s.reg c t f.ra).val (s.reg c t f.rb).val⟩)

/-- An integer instruction of one source, whose rb must be g0. -/
def Computes1 (mk : CoreId → Tid → RF → Instr) (v : Word → Word) : Prop :=
  ∀ c t f s, s.hw.slotReady c t 4 = true → f.rb = 0 → (s.reg c t f.ra).tag.isInt = true →
    exec (mk c t f) s = s.did c t 4 ((s.hw.begun c t).wrG c t f.rd ⟨.int, v (s.reg c t f.ra).val⟩)

/-- An immediate form that writes `v ra imm16` to rd as INT, under a condition on its fields. -/
def ComputesImm (mk : CoreId → Tid → IF → Instr) (ok : IF → Prop) (v : Word → BitVec 16 → Word) : Prop :=
  ∀ c t f s, s.hw.slotReady c t 4 = true → ok f → (s.reg c t f.ra).tag.isInt = true →
    exec (mk c t f) s = s.did c t 4 ((s.hw.begun c t).wrG c t f.rd ⟨.int, v (s.reg c t f.ra).val f.imm⟩)

/-- A binary64 result as a register takes it, and a comparison's. -/
def fpRes (r : Nat × FFlags) : TWord × FFlags := (⟨.fp, BitVec.ofNat 64 r.1⟩, r.2)
def cmpRes (r : Bool × FFlags) : TWord × FFlags := (⟨.int, if r.1 then 1 else 0⟩, r.2)

/-- No flag that the instruction raises has its trap enabled (R55, R56). -/
def FFlags.quiet (fl : FFlags) (x : Thread) : Bool := decide (fl.bits x.ufTrap &&& fld x.fpcsr 12 8 = 0)

/-- The flags of a result set in FPCSR, and its value in rd (R56). -/
def Hw.fpWrote (h : Hw) (c : CoreId) (t : Tid) (rd : Reg) (r : TWord × FFlags) : Hw :=
  (h.updT c t fun x => { x with fpcsr := x.fpcsr ||| BitVec.ofNat 64 (r.2.bits x.ufTrap) }).wrG c t rd r.1

/-- A floating-point instruction that reads the operands `args` from a thread, none where a tag or a field is wrong, and
whose result is `v`: it commits when no enabled flag is raised, else it sets the flags and faults with FPX (R56, R73). -/
def FpComputes (mk : CoreId → Tid → RF → Instr) (args : Thread → RF → Option (Word × Word × Word))
    (v : RM → Word → Word → Word → TWord × FFlags) : Prop :=
  ∀ c t f s a b d, s.hw.slotReady c t 4 = true → args (s.hw.thr c t) f = some (a, b, d) →
    let x := s.hw.thr c t
    let r := v x.rm a b d
    (r.2.quiet x = true → exec (mk c t f) s = s.did c t 4 ((s.hw.begun c t).fpWrote c t f.rd r)) ∧
    (r.2.quiet x = false → exec (mk c t f) s =
      .next { s with hw := (((s.hw.begun c t).updT c t fun x =>
          { x with fpcsr := x.fpcsr ||| BitVec.ofNat 64 (r.2.bits x.ufTrap) }).enter c t
        ⟨13, BitVec.ofNat 16 (r.2.bits x.ufTrap &&& fld x.fpcsr 12 8), none⟩ x.pc).endStep c t })

/-- Operands of the floating-point forms (R64, R73). -/
def fpTwo (x : Thread) (f : RF) : Option (Word × Word × Word) :=
  if fp? (x.rd f.ra) && fp? (x.rd f.rb) then some ((x.rd f.ra).val, (x.rd f.rb).val, 0) else none
def fpThree (x : Thread) (f : RF) : Option (Word × Word × Word) :=
  if fp? (x.rd f.ra) && fp? (x.rd f.rb) && fp? (x.rd f.rd) then
    some ((x.rd f.ra).val, (x.rd f.rb).val, (x.rd f.rd).val) else none
def fpOne (x : Thread) (f : RF) : Option (Word × Word × Word) :=
  if fp? (x.rd f.ra) && decide (f.rb = 0) then some ((x.rd f.ra).val, 0, 0) else none
def fpInt (x : Thread) (f : RF) : Option (Word × Word × Word) :=
  if int? (x.rd f.ra) && decide (f.rb = 0) then some ((x.rd f.ra).val, 0, 0) else none

/-- An instruction of the R format that writes `v` to rd, with its tag, whenever `v` is some value. -/
def Writes (mk : CoreId → Tid → RF → Instr) (v : Thread → RF → Option TWord) : Prop :=
  ∀ c t f s w, s.hw.slotReady c t 4 = true → v (s.hw.thr c t) f = some w →
    exec (mk c t f) s = s.did c t 4 ((s.hw.begun c t).wrG c t f.rd w)

/-- The address `a + d` while it stays in a's space (R61). -/
def moved (a : TWord) (d : Int) : Option TWord :=
  if a.tag.isAddr = true ∧ 0 ≤ (a.val.toNat : Int) + d ∧ (a.val.toNat : Int) + d ≤ a.tag.top then
    some ⟨a.tag, BitVec.ofInt 64 ((a.val.toNat : Int) + d)⟩ else none

/-- Two addresses of one space (R64). -/
def samePair (a b : TWord) : Bool := a.tag.isAddr && a.tag == b.tag

/-- A conditional branch of two sources, its condition `v` on accepted operands (R79). -/
def BranchesOn (mk : CoreId → Tid → BF → Instr) (v : TWord → TWord → Reg → Option Bool) : Prop :=
  ∀ c t f s b, s.hw.slotReady c t 4 = true → v (s.reg c t f.ra) (s.reg c t f.rb) f.rb = some b →
    let pc := (s.hw.thr c t).pc
    let d := (pc.val.toNat : Int) + f.off.toInt * 4
    (b = false → exec (mk c t f) s = s.did c t 4 (s.hw.begun c t)) ∧
    (b = true → 0 ≤ d → d ≤ pc.tag.top →
      exec (mk c t f) s = s.jumped c t (s.hw.begun c t) ⟨pc.tag, BitVec.ofInt 64 d⟩) ∧
    (b = true → ¬(0 ≤ d ∧ d ≤ pc.tag.top) → exec (mk c t f) s = s.faulted c t (rangeExc 3 pc.tag d))

/-- Operands of kinds int and cmp (R63, R64). -/
def ints (v : Word → Word → Bool) (a b : TWord) (_ : Reg) : Option Bool :=
  if int? a && int? b then some (v a.val b.val) else none
def cmps (v : Word → Word → Bool) (a b : TWord) (_ : Reg) : Option Bool :=
  if (int? a && int? b) || samePair a b then some (v a.val b.val) else none

/-- A relative jump over `d` bytes of a word of `len` bytes that leaves `h`. -/
def State.jumps (s : State) (c : CoreId) (t : Tid) (h : Hw) (d : Int) : Host.Outcome State Fault Refusal :=
  s.jumped c t h ⟨(s.hw.thr c t).pc.tag, BitVec.ofInt 64 ((s.hw.thr c t).pc.val.toNat + d)⟩

/-- The target of a relative jump stays in the PC's space (R61, R79). -/
def State.reaches (s : State) (c : CoreId) (t : Tid) (d : Int) : Prop :=
  0 ≤ ((s.hw.thr c t).pc.val.toNat : Int) + d ∧ ((s.hw.thr c t).pc.val.toNat : Int) + d ≤ (s.hw.thr c t).pc.tag.top

/-- The return stack with `v` on top: one that is full loses its oldest entry (R81). -/
def pushed (rs : List TWord) (v : TWord) : List TWord := v :: rs.take 15

/-- The PC behind an instruction of `len` bytes. -/
def State.behind (s : State) (c : CoreId) (t : Tid) (len : Nat) : TWord :=
  ⟨(s.hw.thr c t).pc.tag, (s.hw.thr c t).pc.val + BitVec.ofNat 64 len⟩

/-- A push does not trap: the stack has room, or CORE_CTL.rs_trap is 0 (R81). -/
def State.pushes (s : State) (c : CoreId) (t : Tid) : Prop :=
  (s.hw.thr c t).rs.length ≤ 15 ∨ (s.hw.thr c t).rs.length = 16 ∧ s.hw.rsTrap c.val = false

/-! ### Threads, waits, calls and returns -/

/-- Progress of a prefix in STATUS (R91). -/
def Hw.repLeft (h : Hw) (c : CoreId) (t : Tid) (active n : Bool) (left : Nat) : Hw :=
  h.updT c t fun x => x.setSt fun s => { s with repActive := active, repMode := n, repLeft := BitVec.ofNat 12 left }

/-- A thread's mode. -/
def State.super (s : State) (c : CoreId) (t : Tid) : Bool := (s.hw.thr c t).st.priv

/-- A supervisor conversion of R76: `top` bounds the value, when the result is an address. -/
def Mints (mk : CoreId → Tid → SF → Instr) (tag : Tag) (top : Option Nat) : Prop :=
  ∀ (c : CoreId) (t : Tid) (f : SF) (s : State), s.hw.slotReady c t 4 = true → f.x = 0 → s.super c t = true → (s.reg c t f.ra).tag.isInt = true →
    (∀ n, top = some n → (s.reg c t f.ra).val.toNat ≤ n) →
    exec (mk c t f) s = s.did c t 4 ((s.hw.begun c t).wrG c t f.rd ⟨tag, (s.reg c t f.ra).val⟩)

/-- A wait (R86, R87): pending masked events end it with their bits in rd, or `met` with 0; else the thread waits in `st`. -/
def State.waits (s : State) (i : Instr) (c : CoreId) (t : Tid) (rd : Reg) (mask : W32) (met : Bool) (st : TState) (w : Wait) :
    Prop :=
  let b := (s.hw.thr c t).evPend &&& mask
  let h := s.hw.begun c t
  (b ≠ 0 → exec i s = s.did c t 4
    ((h.updT c t fun x => { x with evPend := x.evPend &&& ~~~b }).wrG c t rd ⟨.int, b.setWidth 64⟩)) ∧
  (b = 0 → met = true → exec i s = s.did c t 4 (h.wrG c t rd ⟨.int, 0⟩)) ∧
  (b = 0 → met = false → exec i s = s.parked (h.updT c t fun x => { x with state := st, wait := w }))

/-- WAITC.C (`cad` = false) and WAITC.B on a target and a mask. -/
def WaitsFor (mk : CoreId → Tid → SF → Instr) (cad : Bool) : Prop :=
  ∀ (c : CoreId) (t : Tid) (f : SF) (s : State), s.hw.slotReady c t 4 = true → f.x.toNat < 32 → (s.reg c t f.ra).tag.isInt = true →
    let w := s.reg c t ⟨f.x.toNat % 32, Nat.mod_lt _ (by decide)⟩
    w.tag.isInt = true → w.val.toNat < 2 ^ 32 →
    let target := (s.reg c t f.ra).val
    let met := if cad then decide ((s.hw.cadence c.val - target.setWidth 48).toNat < 2 ^ 47)
      else decide (((s.hw.core c.val).cycle - target).toNat < 2 ^ 63)
    s.waits (mk c t f) c t f.rd (w.val.setWidth 32) met .waitCnt (.waitc cad f.rd target (w.val.setWidth 32))

/-- The lock cell that an instruction names: rd (or 0) and x zero, ra an int below 64. -/
def State.names (s : State) (c : CoreId) (t : Tid) (f : SF) (cell : Fin 64) : Prop :=
  s.hw.slotReady c t 4 = true ∧ f.x = 0 ∧ (s.reg c t f.ra).tag.isInt = true ∧ (s.reg c t f.ra).val.toNat = cell.val

/-- What an MTSR to a thread register stores (R51, R52): the source's kinds, and the thread that holds it. -/
def SetsThread (n : Nat) (kind : Tag → Bool) (set : Thread → TWord → Thread) (user : Bool) : Prop :=
  ∀ (c : CoreId) (t : Tid) (f : SF) (s : State), s.hw.slotReady c t 4 = true → f.rd = 0 → f.x.toNat = n → kind (s.reg c t f.ra).tag = true →
    (user = true ∨ s.super c t = true) →
    exec (.mtsr c t f) s = s.did c t 4 ((s.hw.begun c t).updT c t fun x => set x (s.reg c t f.ra))

/-! ### Loads, stores and the cache -/

/-- A global access that answers: bytes read, or a store performed; while a line is missing the thread waits. -/
def State.gdone (s : State) (i : Instr) (c : CoreId) (t : Tid) (p : RepIns) (r : GRes) (commit : Hw → List Byte → Hw) : Prop :=
  (∀ h bs, r = .data h bs → exec i s = s.did c t 4 (commit h bs)) ∧
  (∀ h, r = .wait h → exec i s = s.leaves (h.updT c t fun x => { x with state := .waitReq, wait := .req (.rep p) }))

/-- What a local load of `bs` at `a` puts into rd (R60, R77): 64-bit loads take the word's tag, others INT. -/
def Core.loaded (k : Core) (size : BitVec 3) (a : Nat) : TWord :=
  ⟨if size = 6 then lookD k.ltag (a / 8) .raw else .int, extend size (k.lmem.readN a (sizeBytes size))⟩

/-- A supervisor instruction of the R format. -/
def State.cacheOp (s : State) (c : CoreId) (t : Tid) : Prop := s.hw.slotReady c t 4 = true ∧ s.super c t = true

/-! ### Tiles, accumulators and arrays -/

/-- What row `r` of a transfer leaves, if it moves (R160): the thread stays at the transfer, with the row behind as the next
one, or the last row has moved; the record, while it is still number `id`, names the row behind or is cleared. -/
def State.rowMoves (s : State) (i : Instr) (op : TileOp) (f : RF) (cfg : Word) (base : TWord) (stride : Word) (c : CoreId) (t : Tid)
    (r id : Nat) (h : Hw) : Prop :=
  let n := tileOf f.rd
  let own (p : Progress → Option Progress) (x : Tile) : Tile := if x.records = id then { x with prog := x.prog.bind p } else x
  ∀ h', h.moveRow c t op n cfg r base stride = .done h' →
    (tileRows op cfg ≤ r + 1 → exec i s = s.did c t 4 (h'.updTile c n (own fun _ => none))) ∧
    (r + 1 < tileRows op cfg →
      let g := h'.updTile c n (own fun p => some { p with next := r + 1 })
      (g.thr c t).stepping = false →
      exec i s = s.leaves (g.updT c t fun x => { x with wait := .req (.tile op f (r + 1) cfg id) }))

/-- A transfer whose checks pass moves row 0 under a new record, or the row that a record of the same transfer names; a thread in
the middle of it moves the next one, at a boundary where nothing is due. -/
def Transfers (mk : CoreId → Tid → RF → Instr) (op : TileOp) : Prop :=
  ∀ (c : CoreId) (t : Tid) (f : RF) (s : State),
    let n := tileOf f.rd
    let a := s.reg c t f.ra
    let d := (s.reg c t f.rb).val
    (s.hw.slotReady c t 4 = true →
      let h := s.hw.begun c t
      let x := (h.core c.val).tile n
      tileCheck op f (h.thr c t) x = .ok () →
      (∀ r, x.prog = some { kind := op, next := r, addr := a, stride := d } →
        s.rowMoves (mk c t f) op f x.cfg a d c t r x.records h) ∧
      ((∀ p, x.prog = some p → ¬(p.kind = op ∧ p.addr = a ∧ p.stride = d)) → (op = .load → (h.core c.val).tileRead n = false) →
        s.rowMoves (mk c t f) op f x.cfg a d c t 0 (x.records + 1)
          ((if op = .load then (h.updC c.val fun k => k.dropLatches n).updTile c n fun x => { x with valid := 0 } else h).updTile
            c n fun x => { x with prog := some { kind := op, next := 0, addr := a, stride := d }, records := x.records + 1 }))) ∧
    ∀ r cfg id, (s.hw.thr c t).state = .run → (s.hw.thr c t).wait = .req (.tile op f r cfg id) →
      let g := s.hw.updT c t fun x => { x with wait := .none }
      g.canIssue c t = true → g.dueEvent c t = none → g.haltDue c t = none → (g.thr c t).st.ss = false →
      s.rowMoves (mk c t f) op f cfg a d c t r id g

/-- The hardware as an accumulator instruction that need not wait finds it: it has its number in the issue order (R180). -/
def Hw.numbered (h : Hw) (c : CoreId) : Hw := h.updC c.val fun k => { k with seq := k.seq + 1 }

/-- An accumulator instruction whose checks pass and that need not wait ends with `eff`. -/
def Accumulates (mk : CoreId → Tid → AccF → Instr) (fn : Fin 9) (eff : Hw → CoreId → Tid → AccF → Hw) : Prop :=
  ∀ (c : CoreId) (t : Tid) (f : AccF) (s : State), s.hw.slotReady c t 4 = true →
    (s.hw.begun c t).accCheck c t fn f = .ok () →
    ((s.hw.begun c t).core c.val).accReady fn f (s.hw.core c.val).seq = true →
    exec (mk c t f) s = s.did c t 4 (eff ((s.hw.begun c t).numbered c) c t f)

/-- A vector register and the one behind it as 32 elements. -/
def Thread.pairOf (x : Thread) (r : Reg) : List Nat :=
  lanes 32 (x.vec r) ++ lanes 32 (x.vec ⟨(r.val + 1) % 32, Nat.mod_lt _ (by decide)⟩)

/-- MMA, MMA.S and OPR join the queue that steering chooses (R179, R181). -/
def Queues (mk : CoreId → Tid → MatF → Instr) (kind : ArrKind) (sels : MatF → Prop) (sel : MatF → Nat) : Prop :=
  ∀ (c : CoreId) (t : Tid) (f : MatF) (s : State) (back : Bool), s.hw.slotReady c t 4 = true → sels f → f.mbz = 0 →
    let h := s.hw.begun c t
    let k := h.core c.val
    let a := k.tile f.ta
    let b := k.tile f.tb
    shapeCheck kind f.ta f.tb a b = .ok () → k.tileStored f.ta = false → k.tileStored f.tb = false →
    h.steer c (sel f) = some back →
    exec (mk c t f) s = s.did c t 4 (h.updC c.val fun k =>
      let i : ArrIns :=
        { seq := k.seq, kind := kind, thread := t, acc := f.acc, z := f.z, ta := f.ta, tb := f.tb, a := a, b := b, mode := 0
          desc := [], snap := [], occ := occupancy kind back a b, started := none }
      if back then { k with back := k.back ++ [i], seq := k.seq + 1 }
      else { k with front := k.front ++ [i], seq := k.seq + 1 })

/-! ### Vector instructions -/

/-- A vector integer instruction whose lanes take `v w a b` (R190, R192). -/
def VecInt (mk : CoreId → Tid → VF → Instr) (v : Nat → Nat → Nat → Nat) : Prop :=
  ∀ (c : CoreId) (t : Tid) (f : VF) (s : State), s.hw.slotReady c t 4 = true →
    let w := 8 * 2 ^ f.et.toNat
    exec (mk c t f) s = s.did c t 4 ((s.hw.begun c t).updT c t fun x =>
      x.setVec f.vd (mergeLanes w (x.kmask f.km) f.z (x.vec f.vd)
        (((lanes w (x.vec f.va)).zip (lanes w (x.vec f.vb))).map fun p => v w p.1 p.2)))

/-- A vector integer comparison into a mask register (R190, R192). -/
def VecCompare (mk : CoreId → Tid → VF → Instr) (v : Nat → Nat → Nat → Bool) : Prop :=
  ∀ (c : CoreId) (t : Tid) (f : VF) (s : State), s.hw.slotReady c t 4 = true → f.vd.val < 8 → f.z = false →
    let w := 8 * 2 ^ f.et.toNat
    exec (mk c t f) s = s.did c t 4 ((s.hw.begun c t).updT c t fun x =>
      x.setMsk f.vd.val (cmpMask w (x.kmask f.km)
        (((lanes w (x.vec f.va)).zip (lanes w (x.vec f.vb))).map fun p => v w p.1 p.2)))

/-- The flags `fl` are set and the thread changed by `g`, or, when an enabled flag is raised, FPX is entered (R56). -/
def State.fpEnds (s : State) (i : Instr) (c : CoreId) (t : Tid) (fl : FFlags) (g : Thread → Thread) : Prop :=
  let x := s.hw.thr c t
  let h := (s.hw.begun c t).updT c t fun x => { x with fpcsr := x.fpcsr ||| BitVec.ofNat 64 (fl.bits x.ufTrap) }
  (fl.quiet x = true → exec i s = s.did c t 4 (h.updT c t g)) ∧
  (fl.quiet x = false → exec i s = s.leaves
    ((h.enter c t ⟨13, BitVec.ofNat 16 (fl.bits x.ufTrap &&& fld x.fpcsr 12 8), none⟩ x.pc).endStep c t))

/-- A vector floating-point instruction whose lanes of format `fmt` take `v` (R190, R193). -/
def VecFp (mk : CoreId → Tid → VF → Instr) (ok : VF → Prop) (v : Fmt → RM → Nat → Nat → Nat → Nat × FFlags) : Prop :=
  ∀ (c : CoreId) (t : Tid) (f : VF) (s : State), s.hw.slotReady c t 4 = true → f.et.toNat < 2 → ok f →
    let fmt := if f.et = 1 then bf16 else fp32
    let x := s.hw.thr c t
    let m := x.kmask f.km
    let r := ((lanes fmt.width (x.vec f.va)).zip ((lanes fmt.width (x.vec f.vb)).zip (lanes fmt.width (x.vec f.vd)))).map
      fun p => v fmt x.rm p.1 p.2.1 p.2.2
    s.fpEnds (mk c t f) c t (laneFlags fmt.width m (r.map (·.2))) fun x =>
      x.setVec f.vd (mergeLanes fmt.width m f.z (x.vec f.vd) (r.map (·.1)))

/-- A vector floating-point comparison into a mask register (R193). -/
def VecFpCompare (mk : CoreId → Tid → VF → Instr) (v : Fmt → Nat → Nat → Bool × FFlags) : Prop :=
  ∀ (c : CoreId) (t : Tid) (f : VF) (s : State), s.hw.slotReady c t 4 = true → f.et.toNat < 2 → f.vd.val < 8 →
    f.z = false →
    let fmt := if f.et = 1 then bf16 else fp32
    let x := s.hw.thr c t
    let m := x.kmask f.km
    let r := ((lanes fmt.width (x.vec f.va)).zip (lanes fmt.width (x.vec f.vb))).map fun p => v fmt p.1 p.2
    s.fpEnds (mk c t f) c t (laneFlags fmt.width m (r.map (·.2))) fun x =>
      x.setMsk f.vd.val (cmpMask fmt.width m (r.map (·.1)))

/-- A mask instruction of two masks (R195). -/
def MaskLogic (mk : CoreId → Tid → RF → Instr) (v : Word → Word → Word) : Prop :=
  ∀ (c : CoreId) (t : Tid) (f : RF) (s : State), s.hw.slotReady c t 4 = true → f.rd.val < 8 → f.ra.val < 8 →
    f.rb.val < 8 → exec (mk c t f) s = s.did c t 4 ((s.hw.begun c t).updT c t fun x =>
      x.setMsk f.rd.val (v (x.msk f.ra.val) (x.msk f.rb.val)))

/-! ### Messages and credits -/

/-- No error injection is armed in a core site's page (R432). -/
def Hw.unarmed (h : Hw) (c : CoreId) : Bool := !(h.cpg c.val 0x020).getLsbD 31

/-- The first packet of a flow is `b`, and `h` is the hardware without it. -/
def State.heads (s : State) (q : Queue) (src dest : BitVec 16) (b : PBody) (h : Hw) : Prop :=
  s.hw.firstOf q src dest = some (b, h)

/-- A page takes writes: it is not shut (R371, R390, R445), and its die is awake (R446). -/
def State.pageOpen (s : State) (d b : Nat) : Prop := s.hw.shut d b = false ∧ s.hw.awake d = true

/-- The composition buffer of an open composition changed (R275). -/
def Hw.composes (h : Hw) (c : CoreId) (t : Tid) (f : Comp → Comp) : Hw :=
  (h.openComp c t).updT c t fun x => { x with comp := f x.comp }

/-- `n` credits of entry `i` of a core's credit table are spent (R276). -/
def Hw.paid (h : Hw) (c : CoreId) (i : Nat) (e : CEnt) (n : Nat) : Hw :=
  h.updC c.val fun k =>
    { k with credits := put k.credits i { e with credits := e.credits - n, stamp := stampOf k.credits } }


/-! ### DMA -/

/-- A READY channel of a running engine whose turn it is, the 32 bytes at its index, and the hardware that has read them; a hub
channel's MOVE finds buffer slots (R308, R314, R328, R329). -/
def State.fetches (s : State) (ch : ChanId) (bs : List Byte) (h : Hw) : Prop :=
  (s.hw.ch ch).state = .ready ∧ s.hw.dmaTurn ch = true ∧ s.hw.chAwake ch = true ∧ dKnown bs = true ∧
    s.hw.unserved ch bs = false ∧ (s.hw.dmaFetch ch).2 = .ok bs ∧ h = (s.hw.dmaFetch ch).1.dmaCur ch

/-- A channel goes on with the instruction behind (R314). -/
def Hw.goesOn (h : Hw) (ch : ChanId) : Hw :=
  h.updCh ch fun x => { x with state := .ready, wait := .none, index := x.index + 1 }

/-- A channel waits (R321). -/
def Hw.holds (h : Hw) (ch : ChanId) (w : DWait) : Hw := h.updCh ch fun x => { x with state := .wait, wait := w }

/-- A WAIT: the condition holds and the channel goes on with what `met` leaves, or it waits (R321). -/
def State.dmaWaits (s : State) (i : Instr) (ch : ChanId) (h : Hw) (met : Option Hw) (w : DWait) : Prop :=
  (∀ h', met = some h' → exec i s = s.leaves (h'.goesOn ch)) ∧ (met = none → exec i s = s.leaves (h.holds ch w))

/-- A channel that a start finds free (R324). -/
def Chan.idles (x : Chan) : Bool := x.state == .idle || x.state == .done || x.state == .error || x.state == .killed

/-! ### Jasper and memory -/

/-- A job at the head of the ring that may start (R248, R258), and one whose descriptor is accepted (R247, R249). -/
def State.offered (s : State) (e : Eng) (d : List Byte) : Prop :=
  s.hw.jobHead e = some d ∧ (s.hw.eng e.val).running = false ∧ (s.hw.engPg e 0x040).getLsbD 0 = true ∧
    s.hw.jobWaits e d = false ∧ s.hw.awake (engDie e) = true ∧ s.hw.dead (engDie e) (engBlk e) = false
def State.startable (s : State) (e : Eng) (d : List Byte) : Prop := s.offered e d ∧ s.hw.jobCheck e d = 0

/-- The engine with the replies of a job that started at beat `start` and ends with `status` (R250, R254). -/
def Hw.jobLeft (h : Hw) (e : Eng) (d data : List Byte) (status start : Nat) : Hw :=
  let p := h.jobTime d status
  p.2.updEng e fun x =>
    { x with running := true, status := BitVec.ofNat 8 status, duration := BitVec.ofNat 32 p.1
             replies := p.2.jobReplies e d data status start (min p.1 (2 ^ 32 - 1)) }

/-- A job that has read its operands and leaves `h`: its result in replies or in memory, and its status, 0 or that of a bad index
(R245, R249, R250). -/
def State.jobGives (s : State) (i : Instr) (e : Eng) (d : List Byte) (h : Hw) (data : List Byte) (bad : Bool := false) : Prop :=
  let start := (s.hw.die (engDie e)).count.toNat
  let status := if bad then jBadIndex else 0
  (toMem d = false ∨ data = [] → exec i s = s.leaves (h.jobLeft e d data status start)) ∧
  (∀ h', toMem d = true → data ≠ [] → h.engWrite e (outAddr d) data = (h', 0) →
    exec i s = s.leaves (h'.jobLeft e d data status start))

/-- Request `id` may be performed now: it is `r`, nothing earlier of its core stands before it, and no die on its way sleeps and no
pair of links is DEAD (R29, R231, R410). -/
def State.mayServe (s : State) (r : MReq) (id : Nat) : Prop :=
  s.hw.reqs.find? (fun x => x.id == id) = some r ∧ s.hw.blocked r = false ∧ s.hw.reqHeld r = false

/-- No error injection is armed in any page of the module (R432). -/
def Hw.calm (h : Hw) : Prop := ∀ d b, (h.pg d b 0x020).getLsbD 31 = false

/-- The answer of a request with the data of its line. -/
def MReq.answered (r : MReq) (data : List Byte) : MRsp := { id := r.id, core := r.core, addr := r.addr, data := data, err := none }

/-- The next hardware answers a request once: its data, no error, and the request gone. -/
def Hw.answers (h : Hw) (h' : Hw) (r : MReq) (id : Nat) (data : List Byte) : Prop :=
  h'.rsps = h.rsps ++ [r.answered data] ∧ h'.reqs = h.reqs.filter fun x => x.id != id

/-! ### The network -/

/-- A request whose bytes are read joins those sent, takes its PSNs, and its packets leave (R338, R346). -/
def Hw.posts (h : Hw) (d q : Nat) (w : Wr) (bs : List Byte) : Hw :=
  ((h.updQp d q fun x => { x with sq := [] }).updQp d q fun x => { x with sent := x.sent ++ [w] }.advance 2 w.psns).transmit d q w bs

/-- The oldest request sent, `w`, ends with `st`, every other of the QP is flushed, and the QP is in ERR (R339, R347). -/
def Hw.qpErrs (h : Hw) (d q : Nat) (w : Wr) (ws : List Wr) (st : Nat) : Hw :=
  (h.dropIn d q).updQp d q fun x =>
    ({ x with sent := [], sq := [], retries := 0, rnrs := 0, rnrWait := false
              cpls := x.cpls ++ [w.cpl st 0 0] ++ (ws ++ x.sq).map Wr.flush }).setState 2

/-- A live QP without a message in hand, one that waits for credit, or requests that wait (R339, R341). -/
def State.idleQp (s : State) (d q : Nat) : Prop :=
  s.hw.qpLive d q = true ∧ (s.hw.qp d q).msg = none ∧ (s.hw.qp d q).deliver = none ∧ (s.hw.qp d q).inq = []

/-- An idle QP takes a request: it joins those that wait, and leaves them again to be served. -/
def Hw.taken (h : Hw) (d q : Nat) (r : InReq) : Hw :=
  (h.updQp d q fun x => { x with inq := x.inq ++ [r] }).updQp d q fun x => { x with inq := [] }

/-- An idle QP takes a window request as the next one, its checks pass, and no die that it touches sleeps or is cut off (R341, R350,
R410). -/
def State.admits (s : State) (d q : Nat) (r : WinReq) (len : Nat) (op : WinOp) : Prop :=
  s.idleQp d q ∧ r.length ≤ 2 ^ 31 ∧ s.hw.psnAt d q r.psn = .next ∧ s.hw.winCheck d q r len op = none ∧
    s.hw.winHeld d q (s.hw.win d (fld r.rkey 9 0)).w r.offset.toNat len = false

/-- A window request answered by a NAK of `code`: counted; all but an invalid request put the QP in ERR (R350). -/
def Hw.winNaks (h : Hw) (d q : Nat) (psn : BitVec 24) (code : Fin 4) : Hw :=
  let h := (h.updPg (36 + d) 0x011 0x064 fun v => satAdd 32 v 1).emit d q 1 psn (.nak code)
  if code = 1 then h else (h.dropIn d q).updQp d q fun x => x.flush.setState 2

/-- The first endpoint row ring record of a network die, and the hardware without it (R344). -/
def State.wrAt (s : State) (d : Nat) (m : Msg) (h : Hw) : Prop :=
  let dest := BitVec.ofNat 16 ((36 + d) * 256)
  s.hw.awake (36 + d) = true ∧ ∃ start n pad rest,
    (s.hw.ring dest 0).recs = { msg := some m, len := n, start := start, pad := pad } :: rest ∧
      h = s.hw.freed dest 0 fun r => { r with free := r.free + n, occ := r.occ - n, recs := rest }

/-- A whole message of the attestation endpoint in one segment, with none partly received from its source (R373). -/
def State.whole (s : State) (p : PortId) (a : AttMsg) : Prop :=
  s.hw.attOpen p = true ∧ s.hw.k0.partials = [] ∧ a.offset = 0 ∧ a.data.length = a.total ∧ a.total ≤ 4096

/-! ### Resets -/

/-- No posted store of a core is under way (R150). -/
def Hw.noPosts (h : Hw) : Prop := (∀ r ∈ h.reqs, r.posted = false) ∧ ∀ x ∈ h.mems, ∀ c ∈ x.2.combines, c.held = []

/-- What a WARM or COLD reset with a RST_CAUSE leaves (R236, R297, R404, R414): `h` before, `h'` after. -/
def Hw.restarted (h h' : Hw) (cold : Bool) (cause : Nat) : Prop :=
  (∀ c : CoreId, (h'.core c.val).lmem = (h.core c.val).lmem ∧ (h'.core c.val).threads = [] ∧ (h'.core c.val).dcache = []) ∧
  h'.flight = [] ∧ h'.sesOpen = false ∧ h'.k0.mrs = [] ∧ h'.k0.svnFuses = h.k0.svnFuses ∧
  (h.k0.flashOp = none → h'.k0.flash = h.k0.flash) ∧ h'.seqSt = 0 ∧ h'.seqStep = 2 ∧ h'.pg 39 0x012 0x048 = BitVec.ofNat 32 cause ∧
  h'.pins.pwrgd = true ∧ h'.k0.trip = none ∧ h'.k0.keyGen = h.k0.keyGen + cold.toNat ∧
  (cold = true → h'.k0.srt = [] ∧ h'.cxlPoison = []) ∧
  (cold = false → h'.k0.srt = h.k0.srt ∧ (h.noPosts → h'.cxlMem = h.cxlMem ∧
    ((∀ m : Fin 16, ∀ l ∈ (h.mem m.val).lines, l.dirty = false) → h'.gddr = h.gddr)))

/-- A command that makes a WARM or COLD reset. -/
def State.restarts (s : State) (i : Instr) (cold : Bool) (cause : Nat) : Prop :=
  ∃ h, exec i s = s.leaves h ∧ s.hw.restarted h cold cause

/-- A core out of service, whose power requests are refused (R403). -/
def State.coreOut (s : State) (c : CoreId) : Prop := s.hw.svc (dieOf c.val) (siteIx c.val) = 2

/-- A core woken with its source in PWR_STAT, in state `st` (R408, R409, R415). -/
def Hw.wakes (h : Hw) (c : CoreId) (src : BitVec 3) (st : Nat) : Hw :=
  ((h.updCpg c.val 0x284 fun v => setFld v 10 8 src.toNat).updCpg c.val 0x284 fun v => setFld v 2 0 st).updC c.val fun k =>
    { k with wakeSrc := 0, threads := k.threads.map fun p => (p.1, { p.2 with beatEv := 0 }) }

end Sys2Proof.Machine
end

