-- ==== Sys2Proof/Certificates/Slice0/Obligations.lean ====
section
/-! DEFINITION. The statements for the provers, one `def` each; `Safety.lean` holds their vocabulary. -/

open Sys2Proof Sys2Proof.Machine

/-- For every command and state, step with the command in front of the queue is exec of it on the queue's rest. The
queue, and that a step on an empty one is a tick of 1/12 ns, are the model's choice (log 15). -/
def Obligations.StepRunsFrontCommand : Prop :=
  (∀ (i : Instr) (rest : List Instr) (s : State),
    step { s with pending := i :: rest } = exec i { s with pending := rest }) ∧
  ∀ s : State, s.pending = [] → ∃ h, step s = .next { s with hw := h } ∧ h.now = s.hw.now + 1 ∧
    h.regs = s.hw.regs ∧ h.rings = s.hw.rings ∧ h.flight = s.hw.flight ∧ h.pins = s.hw.pins ∧
    h.gddr = s.hw.gddr ∧ h.cxlMem = s.hw.cxlMem ∧ h.k0 = s.hw.k0

/-- No command changes the queue of waiting commands: commands are taken first in, first out (the model's queue, log
15). -/
def Obligations.CommandsLeaveTheQueue : Prop :=
  ∀ (i : Instr) (s t : State), exec i s = .next t → t.pending = s.pending

/-- For every command and state: exec answers a next state exactly when the command is well-formed, and the fault
illFormed when it is not. No well-formed command is refused and none faults. -/
def Obligations.WellFormedCommandsRun : Prop :=
  ∀ (i : Instr) (s : State),
    (i.wf = true → ∃ t, exec i s = .next t) ∧ (i.wf = false → exec i s = .fault .illFormed)

/-- Progress and preservation over all states: when every waiting command is well-formed, a step answers a next state,
and every command that still waits there is well-formed. So no sequence of commands that the outside can send ever
stops the module. -/
def Obligations.WellFormedQueuesKeepRunning : Prop :=
  ∀ s : State, s.queueOk = true → ∃ t, step s = .next t ∧ t.queueOk = true

/-- For every state whose memories (GDDR7, CXL tier, local memory of every core) list rising addresses and no byte
equal to an unlisted one, every next state of a step has memories of that form: whatever a command stores, moves,
scrambles or rekeys. -/
def Obligations.MemoriesStayCanonical : Prop :=
  ∀ s t : State, s.hw.memOk = true → step s = .next t → t.hw.memOk = true

/-- State.reset has canonical memories, an empty queue, and no GDDR7, CXL or local byte listed; that an unlisted byte
reads 0 is the model's choice (log 2). -/
def Obligations.ResetMemoriesCanonical : Prop :=
  State.reset.hw.memOk = true ∧ State.reset.queueOk = true ∧ State.reset.pending = [] ∧
    State.reset.hw.gddr = [] ∧ State.reset.hw.cxlMem = [] ∧ ∀ c : CoreId, (State.reset.hw.core c.val).lmem = []

/-- When the slot is ready and ra and rb are of kind int, each two-source integer ALU instruction answers the next
state in which rd holds, as INT, the value of R70 (R71 for division by zero and for -2^63 / -1; shift amounts modulo
64; wrapping modulo 2^64), the PC is 4 further, and nothing else has changed but rep_active. -/
def Obligations.IntegerAluResults : Prop :=
  Computes .add (fun a b => a + b) ∧ Computes .sub (fun a b => a - b) ∧ Computes .mul (fun a b => a * b) ∧
  Computes .mulh (fun a b => BitVec.ofInt 64 (a.toInt * b.toInt / 2 ^ 64)) ∧
  Computes .mulhu (fun a b => BitVec.ofNat 64 (a.toNat * b.toNat / 2 ^ 64)) ∧
  Computes .div (fun a b => if b = 0 then BitVec.allOnes 64 else BitVec.ofInt 64 (a.toInt.tdiv b.toInt)) ∧
  Computes .divu (fun a b => if b = 0 then BitVec.allOnes 64 else BitVec.ofNat 64 (a.toNat / b.toNat)) ∧
  Computes .rem (fun a b => if b = 0 then a else BitVec.ofInt 64 (a.toInt.tmod b.toInt)) ∧
  Computes .remu (fun a b => if b = 0 then a else BitVec.ofNat 64 (a.toNat % b.toNat)) ∧
  Computes .andOp (fun a b => a &&& b) ∧ Computes .orOp (fun a b => a ||| b) ∧ Computes .xorOp (fun a b => a ^^^ b) ∧
  Computes .andn (fun a b => a &&& ~~~b) ∧ Computes .shl (fun a b => a <<< (b.toNat % 64)) ∧
  Computes .shr (fun a b => a >>> (b.toNat % 64)) ∧ Computes .sar (fun a b => a.sshiftRight (b.toNat % 64)) ∧
  Computes .rol (fun a b => a.rotateLeft (b.toNat % 64)) ∧
  Computes .min (fun a b => if a.toInt ≤ b.toInt then a else b) ∧
  Computes .max (fun a b => if a.toInt ≤ b.toInt then b else a) ∧
  Computes .minu (fun a b => if a.toNat ≤ b.toNat then a else b) ∧
  Computes .maxu (fun a b => if a.toNat ≤ b.toNat then b else a) ∧
  Computes .seq (fun a b => if a = b then 1 else 0) ∧ Computes .slt (fun a b => if a.toInt < b.toInt then 1 else 0) ∧
  Computes .sltu (fun a b => if a.toNat < b.toNat then 1 else 0)

/-- On a ready slot, DIV, DIVU, REM and REMU of any two int sources write an INT to rd and go on: none faults. A
quotient by zero is 0xFFFF_FFFF_FFFF_FFFF and a remainder by zero is ra, signed and unsigned. DIV of -2^63 by -1 gives
-2^63 and REM of them 0. -/
def Obligations.DivisionRaisesNoFault : Prop :=
  ∀ (c : CoreId) (t : Tid) (f : RF) (s : State), s.hw.slotReady c t 4 = true → (s.reg c t f.ra).tag.isInt = true →
    (s.reg c t f.rb).tag.isInt = true →
    let a := (s.reg c t f.ra).val
    let b := (s.reg c t f.rb).val
    let gives := fun v : Word => s.did c t 4 ((s.hw.begun c t).wrG c t f.rd ⟨.int, v⟩)
    (∀ i ∈ [Instr.div c t f, Instr.divu c t f, Instr.rem c t f, Instr.remu c t f], ∃ v, exec i s = gives v) ∧
    (b = 0 → exec (.div c t f) s = gives 0xFFFFFFFFFFFFFFFF ∧ exec (.divu c t f) s = gives 0xFFFFFFFFFFFFFFFF ∧
      exec (.rem c t f) s = gives a ∧ exec (.remu c t f) s = gives a) ∧
    (a = 0x8000000000000000 → b = 0xFFFFFFFFFFFFFFFF →
      exec (.div c t f) s = gives 0x8000000000000000 ∧ exec (.rem c t f) s = gives 0)

/-- On a ready slot with int sources: CLZ and POPC (rb = g0) write the count of leading zeros and of set bits; ADDI,
ANDI, ORI, XORI, SLTI, LI (ra = g0) and SHI (imm16[15:8] = 0) write the value of R72; LI.L writes imm48 sign-extended
and ADDI.L adds it to rd; and the PC moves past the instruction. -/
def Obligations.ImmediateAndCountResults : Prop :=
  Computes1 .clz (fun a => BitVec.ofNat 64 (if a = 0 then 64 else 63 - a.toNat.log2)) ∧
  Computes1 .popc (fun a => BitVec.ofNat 64 ((List.range 64).countP a.getLsbD)) ∧
  ComputesImm .addi (fun _ => True) (fun a i => a + i.signExtend 64) ∧
  ComputesImm .andi (fun _ => True) (fun a i => a &&& i.zeroExtend 64) ∧
  ComputesImm .ori (fun _ => True) (fun a i => a ||| i.zeroExtend 64) ∧
  ComputesImm .xori (fun _ => True) (fun a i => a ^^^ i.zeroExtend 64) ∧
  ComputesImm .shi (fun f => fld f.imm 15 8 = 0) (fun a i =>
    match fld i 7 6 with
    | 0 => a <<< fld i 5 0 | 1 => a >>> fld i 5 0 | 2 => a.sshiftRight (fld i 5 0) | _ => a.rotateLeft (fld i 5 0)) ∧
  ComputesImm .slti (fun _ => True) (fun a i => if a.toInt < i.toInt then 1 else 0) ∧
  ComputesImm .li (fun f => f.ra = 0) (fun _ i => i.signExtend 64) ∧
  (∀ c t f s, s.hw.slotReady c t 8 = true →
    exec (.liL c t f) s = s.did c t 8 ((s.hw.begun c t).wrG c t f.rd ⟨.int, f.imm.signExtend 64⟩)) ∧
  ∀ c t f s, s.hw.slotReady c t 8 = true → (s.reg c t f.rd).tag.isInt = true →
    exec (.addiL c t f) s =
      s.did c t 8 ((s.hw.begun c t).wrG c t f.rd ⟨.int, (s.reg c t f.rd).val + f.imm.signExtend 64⟩)

/-- On a ready slot with operands of the kinds of R73: each scalar floating-point instruction either (no raised flag
is trapped) writes its binary64 result, or INT for compares and CVTFI, sets the raised flags in FPCSR and moves on; or
sets the flags, writes no destination and enters FPX with the trapped flags as its detail. -/
def Obligations.FloatingPointResults : Prop :=
  FpComputes .fadd fpTwo (fun rm a b _ => fpRes (fp64.op rm .add a.toNat b.toNat 0)) ∧
  FpComputes .fsub fpTwo (fun rm a b _ => fpRes (fp64.op rm .sub a.toNat b.toNat 0)) ∧
  FpComputes .fmul fpTwo (fun rm a b _ => fpRes (fp64.op rm .mul a.toNat b.toNat 0)) ∧
  FpComputes .fdiv fpTwo (fun rm a b _ => fpRes (fp64.op rm .div a.toNat b.toNat 0)) ∧
  FpComputes .fsqrt fpOne (fun rm a _ _ => fpRes (fp64.op rm .sqrt a.toNat 0 0)) ∧
  FpComputes .fmin fpTwo (fun rm a b _ => fpRes (fp64.op rm .min a.toNat b.toNat 0)) ∧
  FpComputes .fmax fpTwo (fun rm a b _ => fpRes (fp64.op rm .max a.toNat b.toNat 0)) ∧
  FpComputes .fma fpThree (fun rm a b d => fpRes (fp64.op rm .fma a.toNat b.toNat d.toNat)) ∧
  FpComputes .feq fpTwo (fun _ a b _ => cmpRes (fp64.cmp .eq a.toNat b.toNat)) ∧
  FpComputes .flt fpTwo (fun _ a b _ => cmpRes (fp64.cmp .lt a.toNat b.toNat)) ∧
  FpComputes .fle fpTwo (fun _ a b _ => cmpRes (fp64.cmp .le a.toNat b.toNat)) ∧
  FpComputes .fneg fpOne (fun _ a _ _ => (⟨.fp, a ^^^ 0x8000000000000000⟩, {})) ∧
  FpComputes .fabs fpOne (fun _ a _ _ => (⟨.fp, a &&& 0x7FFFFFFFFFFFFFFF⟩, {})) ∧
  FpComputes .cvtif fpInt (fun rm a _ _ => fpRes (fp64.enc rm false (FV.ofZ a.toInt))) ∧
  FpComputes .cvtfi fpOne (fun rm a _ _ =>
    (⟨.int, BitVec.ofInt 64 (cvtFI 64 rm (fp64.dec a.toNat)).1⟩, (cvtFI 64 rm (fp64.dec a.toNat)).2))

/-- On a ready slot with accepted operands and unused fields 0, MOV, RETAG.I, RETAG.F, TAGOF, CLR, EVHND, ADDA, SUBA,
DIFA, AEQ, ALT, ALIGNA, ADDAI, ADDAI.L, LEAPC and LEAPC.L write the value and tag of R74, R75 and R82 to rd and move
on; an address result stays in its space (R61). -/
def Obligations.TagAndAddressResults : Prop :=
  Writes .mov (fun x f => if f.rb = 0 then some (x.rd f.ra) else none) ∧
  Writes .retagI (fun x f => if f.rb = 0 ∧ (x.rd f.ra).tag.isBits = true then some ⟨.int, (x.rd f.ra).val⟩ else none) ∧
  Writes .retagF (fun x f => if f.rb = 0 ∧ (x.rd f.ra).tag.isBits = true then some ⟨.fp, (x.rd f.ra).val⟩ else none) ∧
  Writes .tagof (fun x f => if f.rb = 0 then some ⟨.int, BitVec.ofNat 64 (x.rd f.ra).tag.code⟩ else none) ∧
  Writes .clr (fun _ f => if f.rb = 0 ∧ f.ra = 0 then some ⟨.nil, 0⟩ else none) ∧
  Writes .evhnd (fun x f => if f.rb = 0 ∧ int? (x.rd f.ra) = true ∧ evHandle (x.rd f.ra).val = true then
    some ⟨.evh, (x.rd f.ra).val⟩ else none) ∧
  Writes .adda (fun x f => if int? (x.rd f.rb) then moved (x.rd f.ra) (x.rd f.rb).val.toInt else none) ∧
  Writes .suba (fun x f => if int? (x.rd f.rb) then moved (x.rd f.ra) (-(x.rd f.rb).val.toInt) else none) ∧
  Writes .difa (fun x f => if samePair (x.rd f.ra) (x.rd f.rb) then
    some ⟨.int, (x.rd f.ra).val - (x.rd f.rb).val⟩ else none) ∧
  Writes .aeq (fun x f => if samePair (x.rd f.ra) (x.rd f.rb) then
    some ⟨.int, if (x.rd f.ra).val = (x.rd f.rb).val then 1 else 0⟩ else none) ∧
  Writes .alt (fun x f => if samePair (x.rd f.ra) (x.rd f.rb) then
    some ⟨.int, if (x.rd f.ra).val.toNat < (x.rd f.rb).val.toNat then 1 else 0⟩ else none) ∧
  Writes .aligna (fun x f =>
    if (x.rd f.ra).tag.isAddr = true ∧ int? (x.rd f.rb) = true ∧ (x.rd f.rb).val.toNat ≤ 47 then
      some ⟨(x.rd f.ra).tag,
        BitVec.ofNat 64 ((x.rd f.ra).val.toNat - (x.rd f.ra).val.toNat % 2 ^ (x.rd f.rb).val.toNat)⟩ else none) ∧
  (∀ c t f s w, s.hw.slotReady c t 4 = true → moved (s.reg c t f.ra) f.imm.toInt = some w →
    exec (.addai c t f) s = s.did c t 4 ((s.hw.begun c t).wrG c t f.rd w)) ∧
  (∀ c t f s w, s.hw.slotReady c t 8 = true → moved (s.reg c t f.rd) f.imm.toInt = some w →
    exec (.addaiL c t f) s = s.did c t 8 ((s.hw.begun c t).wrG c t f.rd w)) ∧
  (∀ c t f s, s.hw.slotReady c t 4 = true → f.ra = 0 → s.reaches c t f.imm.toInt →
    exec (.leapc c t f) s = s.did c t 4 ((s.hw.begun c t).wrG c t f.rd
      ⟨(s.hw.thr c t).pc.tag, BitVec.ofInt 64 ((s.hw.thr c t).pc.val.toNat + f.imm.toInt)⟩)) ∧
  ∀ c t f s, s.hw.slotReady c t 8 = true → s.reaches c t f.imm.toInt →
    exec (.leapcL c t f) s = s.did c t 8 ((s.hw.begun c t).wrG c t f.rd
      ⟨(s.hw.thr c t).pc.tag, BitVec.ofInt 64 ((s.hw.thr c t).pc.val.toNat + f.imm.toInt)⟩)

/-- After a register write of thread t of core c, rd reads the value written, or INT 0 when it is g0, whatever the
tag; every other register of the thread and every register of every other thread and core reads as before; and no byte
of local, GDDR7 or CXL memory has changed. -/
def Obligations.ScalarRegisterWrite : Prop :=
  ∀ (h : Hw) (c : CoreId) (t : Tid) (r : Reg) (w : TWord),
    (((h.wrG c t r w).thr c t).rd r = if r = 0 then ⟨.int, 0⟩ else w) ∧
    (∀ q, q ≠ r → ((h.wrG c t r w).thr c t).rd q = (h.thr c t).rd q) ∧
    (∀ c' t', (c', t') ≠ (c, t) → (h.wrG c t r w).thr c' t' = h.thr c' t') ∧
    (h.wrG c t r w).gddr = h.gddr ∧ (h.wrG c t r w).cxlMem = h.cxlMem ∧
    ∀ c' : CoreId, ((h.wrG c t r w).core c'.val).lmem = (h.core c'.val).lmem

/-- In every thread, g0 reads as INT 0, and a write of any word to g0 leaves the thread as it was. -/
def Obligations.GZeroReadsIntZero : Prop :=
  ∀ (x : Thread) (w : TWord), x.rd 0 = ⟨.int, 0⟩ ∧ x.wr 0 w = x ∧
    ∀ (h : Hw) (c : CoreId) (t : Tid), h.wrG c t 0 w = h

/-- On a ready slot with accepted operands: each conditional branch falls through when its condition does not hold,
goes to its address + off16 x 4 when it holds, and faults with TAG reason 1 when that leaves the space of the PC. B,
B.L and JR jump; CALL, CALL.L and CALLR push the address behind and jump; RET pops its target. -/
def Obligations.BranchesAndJumps : Prop :=
  BranchesOn .beq (cmps fun a b => decide (a = b)) ∧ BranchesOn .bne (cmps fun a b => decide (a ≠ b)) ∧
  BranchesOn .blt (ints fun a b => decide (a.toInt < b.toInt)) ∧
  BranchesOn .bge (ints fun a b => decide (b.toInt ≤ a.toInt)) ∧
  BranchesOn .bltu (cmps fun a b => decide (a.toNat < b.toNat)) ∧
  BranchesOn .bgeu (cmps fun a b => decide (b.toNat ≤ a.toNat)) ∧
  BranchesOn .bnil (fun a _ rb => if rb = 0 then some (decide (a.tag = .nil)) else none) ∧
  BranchesOn .bnnil (fun a _ rb => if rb = 0 then some (decide (a.tag ≠ .nil)) else none) ∧
  (∀ c t off s, s.hw.slotReady c t 4 = true → s.reaches c t (off.toInt * 4) →
    exec (.br c t off) s = s.jumps c t (s.hw.begun c t) (off.toInt * 4) ∧
    (s.pushes c t → exec (.call c t off) s = s.jumps c t
      ((s.hw.begun c t).setRs c t (pushed (s.hw.thr c t).rs (s.behind c t 4))) (off.toInt * 4))) ∧
  (∀ c t f s, s.hw.slotReady c t 8 = true → f.rd = 0 → s.reaches c t f.imm.toInt →
    exec (.bL c t f) s = s.jumps c t (s.hw.begun c t) f.imm.toInt ∧
    (s.pushes c t → exec (.callL c t f) s = s.jumps c t
      ((s.hw.begun c t).setRs c t (pushed (s.hw.thr c t).rs (s.behind c t 8))) f.imm.toInt)) ∧
  (∀ c t f s, s.hw.slotReady c t 4 = true → f.rd = 0 → f.rb = 0 → (s.reg c t f.ra).tag.isAddr = true →
    exec (.jr c t f) s = s.jumped c t (s.hw.begun c t) (s.reg c t f.ra) ∧
    (s.pushes c t → exec (.callr c t f) s = s.jumped c t
      ((s.hw.begun c t).setRs c t (pushed (s.hw.thr c t).rs (s.behind c t 4))) (s.reg c t f.ra))) ∧
  ∀ c t f s p rs, s.hw.slotReady c t 4 = true → f.rd = 0 → f.ra = 0 → f.rb = 0 → (s.hw.thr c t).rs = p :: rs →
    p.tag.isAddr = true → exec (.ret c t f) s = s.jumped c t ((s.hw.begun c t).setRs c t rs) p

/-- On a ready slot with unused fields 0: RSSAVE writes the top entry (NIL when the stack is empty) to rd and pops it,
RSSAVE.B does so with the bottom entry, RSLOAD pushes an address, RSLOAD.B inserts it at the bottom while there is
room; RSLOAD.B of a full stack faults with RSTACK detail 2 and a push of a full one under rs_trap with detail 1. -/
def Obligations.ReturnStackInstructions : Prop :=
  ∀ c t f s, s.hw.slotReady c t 4 = true →
    let rs := (s.hw.thr c t).rs
    let h := s.hw.begun c t
    (f.ra = 0 → f.rb = 0 → exec (.rssave c t f) s = s.did c t 4 ((h.setRs c t rs.tail).wrG c t f.rd (rs.headD {}))) ∧
    (f.ra = 0 → f.rb = 0 →
      exec (.rssaveB c t f) s = s.did c t 4 ((h.setRs c t rs.dropLast).wrG c t f.rd (rs.getLastD {}))) ∧
    (f.rd = 0 → f.rb = 0 → (s.reg c t f.ra).tag.isAddr = true →
      (s.pushes c t → exec (.rsload c t f) s = s.did c t 4 (h.setRs c t (pushed rs (s.reg c t f.ra)))) ∧
      (rs.length = 16 → s.hw.rsTrap c.val = true → exec (.rsload c t f) s = s.faulted c t ⟨11, 1, none⟩) ∧
      (rs.length < 16 → exec (.rsloadB c t f) s = s.did c t 4 (h.setRs c t (rs ++ [s.reg c t f.ra]))) ∧
      (rs.length = 16 → exec (.rsloadB c t f) s = s.faulted c t ⟨11, 2, none⟩))

/-- On a ready slot with ra = g0: MFSR of an assigned special register that user code may read, or in supervisor mode
of any assigned one, writes its value to rd; in user mode a register closed to it raises PRIV, and a number that no
chapter assigns raises ILLEGAL with reason 6; both leave the number in XADDR. -/
def Obligations.SpecialRegisterReads : Prop :=
  ∀ (c : CoreId) (t : Tid) (f : SF) (s : State), s.hw.slotReady c t 4 = true → f.ra = 0 →
    (∀ r, specialOf f.x.toNat = some r → r.ur = true ∨ s.super c t = true →
      exec (.mfsr c t f) s = s.did c t 4 ((s.hw.begun c t).wrG c t f.rd ((s.hw.begun c t).special c t f.x.toNat))) ∧
    (∀ r, specialOf f.x.toNat = some r → r.ur = false → s.super c t = false →
      exec (.mfsr c t f) s = s.faulted c t { privExc 0x05 0 with xaddr := some (BitVec.ofNat 64 f.x.toNat) }) ∧
    (specialOf f.x.toNat = none →
      exec (.mfsr c t f) s = s.faulted c t { illegal 0x05 6 with xaddr := some (BitVec.ofNat 64 f.x.toNat) })

/-- On a ready slot with rd = g0: MTSR stores STATUS.ie and ss, EV_PEND, FPCSR, ESP, ESP_LIMIT, XS_RA, XS_STAT,
SC_ENTRY, SC_RA, SC_STAT and INT_EN when the source has an accepted tag and the mode allows it, changing nothing else;
an RO register raises ILLEGAL reason 5, an unassigned one reason 6, and a supervisor register in user mode PRIV. -/
def Obligations.SpecialRegisterWrites : Prop :=
  SetsThread 0x000 Tag.isInt (fun x w => { x with st := { x.st with ie := w.val.getLsbD 1, ss := w.val.getLsbD 7 } }) false ∧
  SetsThread 0x005 Tag.isInt (fun x w => { x with evPend := w.val.setWidth 32 }) true ∧
  SetsThread 0x007 Tag.isInt (fun x w => { x with fpcsr := w.val &&& 0x31F1F }) true ∧
  SetsThread 0x010 (fun _ => true) (fun x w => { x with esp := w }) false ∧
  SetsThread 0x011 (· == .laddr) (fun x w => { x with espLimit := w }) false ∧
  SetsThread 0x012 Tag.isAddr (fun x w => { x with xsRa := w }) false ∧
  SetsThread 0x013 (· == .stat) (fun x w => { x with xsStat := w }) false ∧
  SetsThread 0x014 Tag.isAddr (fun x w => { x with scEntry := w }) false ∧
  SetsThread 0x015 Tag.isAddr (fun x w => { x with scRa := w }) false ∧
  SetsThread 0x016 (· == .stat) (fun x w => { x with scStat := w }) false ∧
  SetsThread 0x040 Tag.isInt (fun x w => { x with intEn := w.val.setWidth 32 }) false ∧
  ∀ (c : CoreId) (t : Tid) (f : SF) (s : State), s.hw.slotReady c t 4 = true → f.rd = 0 →
    let sr := some (BitVec.ofNat 64 f.x.toNat)
    (∀ r, specialOf f.x.toNat = some r → r.w = false →
      exec (.mtsr c t f) s = s.faulted c t { illegal 0x05 5 with xaddr := sr }) ∧
    (specialOf f.x.toNat = none → exec (.mtsr c t f) s = s.faulted c t { illegal 0x05 6 with xaddr := sr }) ∧
    (∀ r, specialOf f.x.toNat = some r → r.w = true → r.uw = false → s.super c t = false → f.x.toNat ≠ 0x044 →
      exec (.mtsr c t f) s = s.faulted c t { privExc 0x05 1 with xaddr := sr })

/-- On a ready slot with unused fields 0: in user mode with an address in SC_ENTRY, SCALL saves the next PC in SC_RA
and STATUS (cause 0x20, detail the code) in SC_STAT, clears ie, ss and rep_active, sets priv and goes to SC_ENTRY. In
supervisor mode with NEST 0 and a good SC_STAT and SC_RA, SRET restores STATUS with priv 0 and goes to SC_RA. In
supervisor mode with NEST above 0 and a good frame, ERET restores STATUS, lowers NEST, pops ESP by 16 or leaves the
last-resort state, and goes to the frame's address. -/
def Obligations.SystemCallsAndReturns : Prop :=
  ∀ (c : CoreId) (t : Tid) (f : SF) (s : State), s.hw.slotReady c t 4 = true → f.rd = 0 → f.ra = 0 →
    let x := s.hw.thr c t
    let h := s.hw.begun c t
    (x.st.priv = false → x.scEntry.tag.isAddr = true → exec (.scall c t f) s = s.jumped c t (h.updT c t fun y =>
      { y with scRa := s.behind c t 4
               scStat := ⟨.stat, ({ y.st with cause := 0x20, slot := 0, detail := f.x.setWidth 16 } : Status).word t⟩
               st := { y.st with priv := true, ie := false, ss := false, repActive := false } }) x.scEntry) ∧
    (f.x = 0 → x.nest = 0 → x.st.priv = true → x.scStat.tag = .stat → x.scStat.val.getLsbD 0 = false →
      x.scRa.tag.isAddr = true →
      exec (.sret c t f) s = s.jumped c t (h.updT c t fun y => y.setSt fun st => st.restore x.scStat.val false) x.scRa) ∧
    ∀ ra st xs, f.x = 0 → x.nest ≠ 0 → x.st.priv = true → h.eretFrame c (h.thr c t) = .ok (ra, st, xs) → st.tag = .stat →
      st.val.getLsbD 0 = (if x.nest = 1 then x.basePriv else true) → ra.tag.isAddr = true →
      exec (.eret c t f) s = s.jumped c t ((if xs then h else h.lmScrub c.val x.esp.val.toNat 16).updT c t fun y =>
        { y with esp := if xs then y.esp else ⟨.laddr, y.esp.val + 16⟩
                 lrLevel := if xs then 0 else y.lrLevel
                 nest := y.nest - 1
                 st := ({ y.st with lr := if xs then false else y.st.lr } : Status).restore st.val (st.val.getLsbD 0) }) ra

/-- In supervisor mode on a ready slot: ERET of a frame whose status word has no tag STAT enters RETCHK with reason 1,
whose priv bit is not the wanted one with reason 2, and whose return word is no address with reason 3; SRET likewise,
with bit 8 set. ERET with NEST 0 and SRET with NEST above 0 are ILLEGAL with reason 8, and both are PRIV in user mode.
-/
def Obligations.ReturnChecksRefuse : Prop :=
  ∀ (c : CoreId) (t : Tid) (f : SF) (s : State), s.hw.slotReady c t 4 = true → f.rd = 0 → f.ra = 0 → f.x = 0 →
    let x := s.hw.thr c t
    let h := s.hw.begun c t
    (x.nest = 0 → exec (.eret c t f) s = s.faulted c t (illegal 0x05 8)) ∧
    (x.nest ≠ 0 → exec (.sret c t f) s = s.faulted c t (illegal 0x05 8)) ∧
    (x.nest ≠ 0 → x.st.priv = false → exec (.eret c t f) s = s.faulted c t (privExc 0x05 5)) ∧
    (x.nest = 0 → x.st.priv = false → exec (.sret c t f) s = s.faulted c t (privExc 0x05 7)) ∧
    (∀ ra st xs, x.nest ≠ 0 → x.st.priv = true → h.eretFrame c (h.thr c t) = .ok (ra, st, xs) →
      (st.tag ≠ .stat → exec (.eret c t f) s = s.faulted c t (retchk false 1)) ∧
      (st.tag = .stat → st.val.getLsbD 0 ≠ (if x.nest = 1 then x.basePriv else true) →
        exec (.eret c t f) s = s.faulted c t (retchk false 2))) ∧
    (x.nest = 0 → x.st.priv = true → x.scStat.tag ≠ .stat → exec (.sret c t f) s = s.faulted c t (retchk true 1))

/-- On a ready slot with accepted operands: MINT.L, MINT.G and MKSTAT write the source under the new tag in supervisor
mode (an address inside its space). WFE and WAITC take the pending masked events into rd and complete, WAITC completes
with 0 once its counter has reached the target, and otherwise the thread waits. SEV sets the bit of the handle's
thread on the own core at once and sends an EVENT message to another; SEVL sets a bit of the own core. -/
def Obligations.MintsWaitsAndEvents : Prop :=
  Mints .mintL .laddr (some 0x180000) ∧ Mints .mintG .gaddr (some 0x1000000000000) ∧ Mints .mkstat .stat none ∧
  (∀ (c : CoreId) (t : Tid) (f : SF) (s : State), s.hw.slotReady c t 4 = true → f.x = 0 → (s.reg c t f.ra).tag.isInt = true →
    (s.reg c t f.ra).val.toNat < 2 ^ 32 → (s.reg c t f.ra).val ≠ 0 →
    s.waits (.wfe c t f) c t f.rd ((s.reg c t f.ra).val.setWidth 32) false .waitEv
      (.wfe f.rd ((s.reg c t f.ra).val.setWidth 32))) ∧
  WaitsFor .waitcC false ∧ WaitsFor .waitcB true ∧
  (∀ (c : CoreId) (t : Tid) (f : SF) (s : State), s.hw.slotReady c t 4 = true → f.rd = 0 → f.x = 0 → (s.reg c t f.ra).tag = .evh →
    (s.reg c t f.ra).val.getLsbD 31 = true →
    let v := (s.reg c t f.ra).val
    (fld v 15 0 = c.val → exec (.sev c t f) s =
      s.did c t 4 ((s.hw.begun c t).setEv c (tidOf (fld v 25 24)) (fld v 30 26))) ∧
    (fld v 15 0 ≠ c.val → exec (.sev c t f) s = s.did c t 4 ((s.hw.begun c t).send
      { q := .msg, src := BitVec.ofNat 16 c.val, dest := BitVec.ofNat 16 (fld v 15 0),
        body := .event (tidOf (fld v 25 24)) ⟨fld v 30 26 % 32, Nat.mod_lt _ (by decide)⟩ }))) ∧
  ∀ (c : CoreId) (t : Tid) (f : SF) (s : State), s.hw.slotReady c t 4 = true → f.rd = 0 → f.ra = 0 → f.x.toNat < 128 →
    exec (.sevl c t f) s = s.did c t 4 ((s.hw.begun c t).setEv c (tidOf (f.x.toNat / 32)) (f.x.toNat % 32))

/-- On a ready slot with accepted operands: FORK starts the lowest FREE pool entry at its address and writes its
handle, or NIL when none is FREE. JOIN of an EXITED entry frees it with a new generation and of another waits; a
handle of another core, of thread 0 or a stale one raises TAG with reason 2, and the thread's own ILLEGAL with reason
4. EXIT of a pool thread that holds no cell leaves it EXITED, of a holder raises LOCK with reason 3 for its lowest
cell, and of thread 0 ILLEGAL with reason 9. LOCK and TRYLOCK (which writes 1) take a free cell; of a cell that
another thread holds LOCK waits and TRYLOCK writes 0; of an own one both raise LOCK with reason 1. UNLOCK releases an
own cell, and raises LOCK with reason 2 for a free one and for another thread's. -/
def Obligations.PoolThreadsAndLocks : Prop :=
  ∀ (c : CoreId) (t : Tid) (f : SF) (s : State), s.hw.slotReady c t 4 = true →
    let k := s.hw.core c.val
    let h := s.hw.begun c t
    let a := s.reg c t f.ra
    (f.x = 0 → a.tag.isAddr = true →
      (∀ n, ([1, 2, 3] : List Tid).find? (fun n => ((h.core c.val).thr n).state == .free) = some n →
        let hd := handleWord false (k.gen n).toNat 0 n c.val
        exec (.fork c t f) s = s.did c t 4
          ((h.updC c.val fun k => k.setT n (forkThread k (h.thr c t) n a hd)).wrG c t f.rd hd)) ∧
      ((∀ n : Tid, n ≠ 0 → ((h.core c.val).thr n).state ≠ .free) →
        exec (.fork c t f) s = s.did c t 4 (h.wrG c t f.rd ⟨.nil, 0⟩))) ∧
    (f.rd = 0 → f.x = 0 → a.tag = .evh → a.val.getLsbD 31 = false → fld a.val 15 0 = c.val →
      ∀ n : Tid, n = tidOf (fld a.val 25 24) → n ≠ 0 → n ≠ t → BitVec.ofNat 8 (fld a.val 39 32) = k.gen n →
      ((h.thr c n).state = .exited → exec (.join c t f) s = s.did c t 4 (h.joined c n)) ∧
      ((h.thr c n).state ≠ .exited → exec (.join c t f) s =
        s.parked (h.updT c t fun x => { x with state := .waitJoin, wait := .join n (k.gen n) }))) ∧
    (f.rd = 0 → f.x = 0 → a.tag = .evh → a.val.getLsbD 31 = false →
      let n := tidOf (fld a.val 25 24)
      let bad := fld a.val 15 0 ≠ c.val ∨ n = 0 ∨ BitVec.ofNat 8 (fld a.val 39 32) ≠ k.gen n
      (bad → exec (.join c t f) s = s.faulted c t (tagExc 2 0 .evh)) ∧
      (¬bad → n = t → exec (.join c t f) s = s.faulted c t (illegal 0x05 4))) ∧
    (f.rd = 0 → f.ra = 0 → f.x = 0 →
      (t ≠ 0 → k.heldCell t = none → exec (.exit c t f) s = s.parked (h.exited c t)) ∧
      (∀ cell, t ≠ 0 → k.heldCell t = some cell → exec (.exit c t f) s = s.faulted c t (lockExc cell 3)) ∧
      (t = 0 → exec (.exit c t f) s = s.faulted c t (illegal 0x05 9))) ∧
    (∀ cell, s.names c t f cell →
      (look k.locks cell.val = none →
        (f.rd = 0 → exec (.lock c t f) s = s.did c t 4 (h.acquire c t cell)) ∧
        exec (.trylock c t f) s = s.did c t 4 ((h.acquire c t cell).wrG c t f.rd ⟨.int, 1⟩) ∧
        (f.rd = 0 → exec (.unlock c t f) s = s.faulted c t (lockExc cell.val 2))) ∧
      ∀ l, look k.locks cell.val = some l →
        (l.owner ≠ t →
          (f.rd = 0 → exec (.lock c t f) s = s.parked ((h.updC c.val fun k =>
            { k with locks := put k.locks cell.val { l with waiters := l.waiters ++ [t] } }).updT c t fun x =>
              { x with state := .waitLock, wait := .lock cell })) ∧
          exec (.trylock c t f) s = s.did c t 4 (h.wrG c t f.rd ⟨.int, 0⟩) ∧
          (f.rd = 0 → exec (.unlock c t f) s = s.faulted c t (lockExc cell.val 2))) ∧
        (l.owner = t →
          (f.rd = 0 → exec (.lock c t f) s = s.faulted c t (lockExc cell.val 1)) ∧
          exec (.trylock c t f) s = s.faulted c t (lockExc cell.val 1) ∧
          (f.rd = 0 → exec (.unlock c t f) s = s.did c t 4 (h.release c t cell.val))))

/-- On a ready slot: BRK takes DEBUG with its code as detail and the next instruction as the return address, or with
brk_halt halts the thread behind itself. In supervisor mode THREAD_CTL requests a stop of a running or parked pool
thread, resumes and abandons a halted one. FENCE.G completes when the thread has no store, uncached access or write-
back outstanding and waits otherwise. ICINV (supervisor) and ICINV.L drop lines of the instruction cache. -/
def Obligations.BreakpointsThreadControlAndFences : Prop :=
  ∀ (c : CoreId) (t : Tid) (s : State), s.hw.slotReady c t 4 = true →
    let h := s.hw.begun c t
    (∀ f : SF, f.rd = 0 → f.ra = 0 →
      ((s.hw.cpg c.val 0x074).getLsbD 12 = false → exec (.brk c t f) s = s.leaves
        (((h.updT c t fun x => { x with pc := s.behind c t 4 }).enter c t ⟨17, f.x.setWidth 16, none⟩
          (s.behind c t 4)).endStep c t)) ∧
      ((s.hw.cpg c.val 0x074).getLsbD 12 = true → exec (.brk c t f) s =
        s.parked ((h.updT c t fun x => { x with pc := s.behind c t 4, state := .haltDbg, stepping := false }).updCpg
          c.val 0x074 fun v => setBit v t.val true))) ∧
    (∀ n : Tid, n ≠ 0 → s.super c t = true →
      exec (.threadStop c t n) s = s.did c t 4 (h.threadStop c n) ∧
      (∀ h', h.threadResume c n = some h' → exec (.threadResume c t n) s = s.did c t 4 h') ∧
      (∀ h', h.threadAbandon c n = some h' → exec (.threadAbandon c t n) s = s.did c t 4 h')) ∧
    (∀ f : SF, f.rd = 0 → f.ra = 0 → f.x = 0 →
      ((h.thr c t).respErr = none → ((h.core c.val).outs.any fun o => o.thread == t && !o.kind.isFill) = false →
        exec (.fenceG c t f) s = s.did c t 4 h) ∧
      ((h.thr c t).respErr = none → ((h.core c.val).outs.any fun o => o.thread == t && !o.kind.isFill) = true →
        exec (.fenceG c t f) s = s.parked (h.updT c t fun x => { x with state := .waitReq, wait := .req .fence })) ∧
      (s.super c t = true → exec (.icinv c t f) s = s.did c t 4 (h.updC c.val fun k => { k with icache := [] }))) ∧
    ∀ f : SF, f.rd = 0 → f.x = 0 → (s.reg c t f.ra).tag.isAddr = true →
      (s.reg c t f.ra).val.toNat + 1 ≤ (s.reg c t f.ra).tag.top →
      exec (.icinvL c t f) s = s.did c t 4 (h.updC c.val fun k => { k with icache := k.icache.filter fun l =>
        l != (decide ((s.reg c t f.ra).tag = .gaddr), (s.reg c t f.ra).val.toNat / 64) })

/-- On a ready slot of 8 bytes whose prefix has its unused fields 0 and, for src = 1 with rep_active 0, a count
register of kind int; k is rep_left when rep_active is 1, else the word's count (src = 0) or that register (src = 1).
With a repeatable instruction, for REP.I and for REP.N: a k of 0 ends the repetition behind the pair; for k from 1 to
4,095 one command runs one iteration (the grain is the choice of log 28), and when that iteration commits, k - 1
iterations are left with rep_active 1 and the thread stays at the prefix, or, after the last, rep_active and rep_left
are 0 and the PC is behind the pair; a k above 4,095 raises REPEAT with detail 2. Of an instruction that is not
repeatable, both raise REPEAT with detail 1. -/
def Obligations.PrefixesRepeat : Prop :=
  ∀ (c : CoreId) (t : Tid) (f : PF) (b : RepIns) (s : State) (k : Nat), s.hw.slotReady c t 8 = true → f.mbz = 0 →
    let st := (s.hw.thr c t).st
    (f.src = false → f.rc = 0) → (f.src = true → f.count = 0) →
    (f.src = true → st.repActive = false → (s.reg c t f.rc).tag.isInt = true) →
    k = (if st.repActive then st.repLeft.toNat else if f.src then (s.reg c t f.rc).val.toNat else f.count.toNat) →
    let ended (h : Hw) : Hw := h.updT c t fun x => x.setSt fun y => { y with repActive := false, repLeft := 0 }
    let refuses (d : BitVec 16) : Host.Outcome State Fault Refusal :=
      s.leaves ((s.hw.enter c t ⟨12, d, none⟩ (s.hw.thr c t).pc).endStep c t)
    (b ≠ .notRepeatable → k = 0 →
      exec (.repI c t f b) s = s.did c t 8 (ended s.hw) ∧ exec (.repN c t f b) s = s.did c t 8 (ended s.hw)) ∧
    (b ≠ .notRepeatable → 0 < k → k ≤ 4095 →
      (∀ h', Hw.repBody b (s.hw.repLeft c t true false k) c t = .ok h' .seq → exec (.repI c t f b) s =
        if k = 1 then s.did c t 8 (ended h') else s.jumped c t (h'.repLeft c t true false (k - 1)) (h'.thr c t).pc) ∧
      (∀ h', Hw.repBody b (s.hw.repLeft c t true true k) c t = .ok h' .seq → exec (.repN c t f b) s =
        if k = 1 then s.did c t 8 (ended h') else s.leaves ((h'.repLeft c t true true (k - 1)).endStep c t))) ∧
    (b ≠ .notRepeatable → 4095 < k → exec (.repI c t f b) s = refuses 2 ∧ exec (.repN c t f b) s = refuses 2) ∧
    (b = .notRepeatable → exec (.repI c t f b) s = refuses 1 ∧ exec (.repN c t f b) s = refuses 1)

/-- On a ready slot, when the checks of R77 accept the operands: a local LD whose words have no uncorrectable error
writes the loaded value to rd (64-bit loads with the word's tag, others INT) and the post-incremented address to ra; a
local ST stores the low bytes of rs, a 64-bit one with its tag (STAT as RAW in user mode). A global LD or ST completes
with the bytes of its lines and pages, or waits for them; a global LD writes RAW. -/
def Obligations.ScalarLoadsAndStores : Prop :=
  ∀ (c : CoreId) (t : Tid) (f : MF) (s : State) (e : Eff), s.hw.slotReady c t 4 = true →
    let h := s.hw.begun c t
    let x := h.thr c t
    let a := e.a.val.toNat
    let n := sizeBytes f.size
    let v := x.rd f.r
    (ldEff x f = .ok e → e.a.tag = .laddr → (h.core c.val).lmErr a n < 2 →
      exec (.ld c t f) s = s.did c t 4
        (((h.lmScrub c.val a n).wrG c t f.r ((h.core c.val).loaded f.size a)).postInc c t f.ra e)) ∧
    (∀ ps, ldEff x f = .ok e → e.a.tag = .gaddr → h.pieces c x.st.priv .read (sizeLog f.size) a n = .ok ps →
      s.gdone (.ld c t f) c t (.ld f) (h.gread c t ps)
        fun h' bs => (h'.wrG c t f.r ⟨.raw, extend f.size bs⟩).postInc c t f.ra e) ∧
    (h.stEff c x f = .ok e → e.a.tag = .laddr → exec (.st c t f) s = s.did c t 4
      ((if n = 8 then h.lmStore c.val a ⟨if v.tag = .stat ∧ x.st.priv = false then .raw else v.tag, v.val⟩
        else h.lmWrite c.val a (leBytes n v.val.toNat)).postInc c t f.ra e)) ∧
    (∀ ps, h.stEff c x f = .ok e → e.a.tag = .gaddr → h.pieces c x.st.priv .write (sizeLog f.size) a n = .ok ps →
      s.gdone (.st c t f) c t (.st f) (h.gwrite c t ps ((leBytes n v.val.toNat).map some))
        fun h' _ => h'.postInc c t f.ra e)

/-- On a ready slot with an accepted address: a local VLD whose words have no uncorrectable error merges the 64 bytes
into vd under the mask (zero where z is set), a local VST with z = 0 and no guard stores exactly the active bytes; a
global VLD or VST completes with its lines and pages, or waits for them; ra is post-incremented. -/
def Obligations.VectorLoadsAndStores : Prop :=
  ∀ (c : CoreId) (t : Tid) (f : VMF) (s : State) (e : Eff), s.hw.slotReady c t 4 = true →
    let h := s.hw.begun c t
    let x := h.thr c t
    let a := e.a.val.toNat
    let load (h : Hw) (bs : List Byte) : Hw := (h.updT c t fun x =>
      x.setVec f.v (vecOf (maskBytes (x.kmask f.km) f.z (vecBytes (x.vec f.v)) bs))).postInc c t f.ra e
    let bytes := (vecBytes (x.vec f.v)).zipIdx.map fun p => if (x.kmask f.km).getLsbD p.2 then some p.1 else none
    effAddr (x.rd f.ra) (f.off.toInt * 64) f.post 64 = .ok e →
    (e.a.tag = .laddr → (h.core c.val).lmErr a 64 < 2 → exec (.vld c t f) s = s.did c t 4
      (load (h.lmScrub c.val a 64) ((h.core c.val).lmem.readN a 64))) ∧
    (∀ ps, e.a.tag = .gaddr → h.pieces c x.st.priv .read 6 a 64 = .ok ps →
      s.gdone (.vld c t f) c t (.vld f) (h.gread c t ps) load) ∧
    (f.z = false → h.guardEff c x 0x22 (x.rd f.ra) (f.off.toInt * 64) f.post ((bitsOf 64 (x.kmask f.km)).head?) = .ok () →
      (e.a.tag = .laddr →
        exec (.vst c t f) s = s.did c t 4 ((maskedWrite h c.val a bytes 0 []).postInc c t f.ra e)) ∧
      (∀ ps, e.a.tag = .gaddr → h.pieces c x.st.priv .write 6 a 64 = .ok ps →
        s.gdone (.vst c t f) c t (.vst f) (h.gwrite c t ps bytes) fun h' _ => h'.postInc c t f.ra e))

/-- When ST to local memory answers its own next state on a ready slot (no injection armed): every byte of the core's
local memory outside the stored bytes reads as before, the stored bytes read as the bytes of rs, every byte of other
cores' local memory, of GDDR7 and of the CXL tier is as before, every register but ra of the thread and every register
of every other thread reads as before, and so do the tags of all other words. -/
def Obligations.LocalStoreFrame : Prop :=
  ∀ (c : CoreId) (t : Tid) (f : MF) (s u : State) (e : Eff), s.hw.slotReady c t 4 = true →
    let h := s.hw.begun c t
    let n := sizeBytes f.size
    let at' := e.a.val.toNat
    h.stEff c (h.thr c t) f = .ok e → e.a.tag = .laddr → (s.hw.cpg c.val 0x020).getLsbD 31 = false →
    exec (.st c t f) s = .next u →
    (∀ a, a < at' ∨ at' + n ≤ a → (u.hw.core c.val).lmem.read a = (s.hw.core c.val).lmem.read a) ∧
    (∀ i, i < n → (u.hw.core c.val).lmem.read (at' + i) = ((s.reg c t f.r).val >>> (8 * i)).setWidth 8) ∧
    (∀ w, w ≠ at' / 8 → lookD (u.hw.core c.val).ltag w .raw = lookD (s.hw.core c.val).ltag w .raw) ∧
    (∀ c' : CoreId, c' ≠ c → (u.hw.core c'.val).lmem = (s.hw.core c'.val).lmem) ∧
    u.hw.gddr = s.hw.gddr ∧ u.hw.cxlMem = s.hw.cxlMem ∧ u.hw.regs = s.hw.regs ∧
    (∀ r, r ≠ f.ra → u.reg c t r = s.reg c t r) ∧
    (∀ c' t' r, (c', t') ≠ (c, t) → u.reg c' t' r = s.reg c' t' r)

/-- For each register-only scalar instruction of ops 0x01, 0x03, 0x04 and 0x08-0x11 (named in the statement) that
completes on a ready slot with no injection armed: all of local, GDDR7 and CXL memory, every page register, every
ring, packet and channel, every register but rd of the thread, its STATUS but rep_active, FPCSR, EV_PEND, ESP,
shadows, return stack, vector and mask registers, and every other thread and core are as before. -/
def Obligations.ScalarInstructionFrame : Prop :=
  ∀ (c : CoreId) (t : Tid) (r : RF) (m : IF) (s : State) (i : Instr) (rd : Reg) (w : TWord),
    (rd = r.rd ∧ i ∈ [.add c t r, .sub c t r, .mul c t r, .mulh c t r, .mulhu c t r, .div c t r, .divu c t r, .rem c t r,
        .remu c t r, .andOp c t r, .orOp c t r, .xorOp c t r, .andn c t r, .shl c t r, .shr c t r, .sar c t r, .rol c t r,
        .clz c t r, .popc c t r, .min c t r, .max c t r, .minu c t r, .maxu c t r, .seq c t r, .slt c t r, .sltu c t r,
        .mov c t r, .retagI c t r, .retagF c t r, .tagof c t r, .clr c t r, .evhnd c t r, .adda c t r, .suba c t r,
        .difa c t r, .aeq c t r, .alt c t r, .aligna c t r] ∨
      rd = m.rd ∧ i ∈ [.addi c t m, .andi c t m, .ori c t m, .xori c t m, .shi c t m, .slti c t m, .li c t m, .addai c t m,
        .leapc c t m]) →
    s.hw.slotReady c t 4 = true → (s.hw.thr c t).stepping = false → (s.hw.cpg c.val 0x020).getLsbD 31 = false →
    exec i s = s.did c t 4 ((s.hw.begun c t).wrG c t rd w) →
    ∃ u, exec i s = .next u ∧ u.hw.gddr = s.hw.gddr ∧ u.hw.cxlMem = s.hw.cxlMem ∧ u.hw.regs = s.hw.regs ∧
      u.hw.rings = s.hw.rings ∧ u.hw.chans = s.hw.chans ∧ u.hw.flight = s.hw.flight ∧ u.hw.reqs = s.hw.reqs ∧
      (∀ c' : CoreId, (u.hw.core c'.val).lmem = (s.hw.core c'.val).lmem) ∧
      (∀ c' t', (c', t') ≠ (c, t) → u.hw.thr c' t' = s.hw.thr c' t') ∧
      (∀ q, q ≠ rd → u.reg c t q = s.reg c t q) ∧ (rd ≠ 0 → u.reg c t rd = w) ∧
      ∃ g, u.hw.thr c t = { s.hw.thr c t with
        g := g, pc := s.behind c t 4, st := { (s.hw.thr c t).st with repActive := false } }

/-- On a ready slot with unused fields 0: a DCFLUSH.L, DCFI.L or DCINV.L of a local address changes nothing; of a
global one with permission, whose line is present, it writes dirty bytes back when a write-back slot is free (else the
thread waits) and DCFI.L and DCINV.L drop the line; DCFLUSH and DCFI do so for every line, and DCINV (supervisor)
drops them all unwritten. -/
def Obligations.CacheInstructions : Prop :=
  ∀ (c : CoreId) (t : Tid) (f : RF) (s : State), s.hw.slotReady c t 4 = true → f.rd = 0 → f.rb = 0 →
    let h := s.hw.begun c t
    let k := h.core c.val
    let a := s.reg c t f.ra
    let waiting (op : DcOp) (h : Hw) : Hw := h.updT c t fun x => { x with state := .waitReq, wait := .req (.dc op f) }
    (a.tag = .laddr → a.val.toNat + 1 ≤ 0x180000 →
      exec (.dcflushL c t f) s = s.did c t 4 h ∧ exec (.dcfiL c t f) s = s.did c t 4 h ∧
      exec (.dcinvL c t f) s = s.did c t 4 h) ∧
    (∀ pl l, a.tag = .gaddr → h.lineOf c t false a = .ok (some pl) → k.dcFind pl = some l →
      (∀ h', h.flushLine c t false l = some h' → exec (.dcflushL c t f) s = s.did c t 4 h') ∧
      (h.flushLine c t false l = none → exec (.dcflushL c t f) s = s.leaves (waiting .flushL h))) ∧
    (∀ pl, a.tag = .gaddr → h.lineOf c t true a = .ok (some pl) →
      (∀ l h', k.dcFind pl = some l → h.flushLine c t true l = some h' → exec (.dcfiL c t f) s = s.did c t 4 h') ∧
      exec (.dcinvL c t f) s = s.did c t 4 (h.updC c.val fun k =>
        { k with dcache := k.dcache.filter fun l => l.pline != pl })) ∧
    (f.ra = 0 →
      (∀ h', h.flushAll c t false k.dcache = (h', true) → exec (.dcflush c t f) s = s.did c t 4 h') ∧
      (∀ h', h.flushAll c t true k.dcache = (h', true) → exec (.dcfi c t f) s = s.did c t 4 h') ∧
      (∀ h', h.flushAll c t true k.dcache = (h', false) → exec (.dcfi c t f) s = s.leaves (waiting .fi h')) ∧
      (s.super c t = true →
        exec (.dcinv c t f) s = s.did c t 4 (h.updC c.val fun k => { k with dcache := [] })))

/-- In supervisor mode on a ready slot with int operands and unused fields 0: TBWR of an accepted entry invalidates
every overlapping one and stores it at its index; TBRD.V and TBRD.P read its words; TBINV invalidates the entries that
map an address and TBINVA all of them; TBPROBE answers the index that maps an address, or -1. In user mode each raises
PRIV. -/
def Obligations.TranslationBufferInstructions : Prop :=
  ∀ (c : CoreId) (t : Tid) (f : RF) (s : State), s.hw.slotReady c t 4 = true →
    let h := s.hw.begun c t
    let a := s.reg c t f.ra
    let b := s.reg c t f.rb
    let k := h.core c.val
    let off (q : TbEnt) : TbEnt := { q with v := setBit q.v 0 false }
    (s.super c t = true → a.tag.isInt = true →
      (∀ i, b.tag.isInt = true → (s.reg c t f.rd).tag.isInt = true → (s.reg c t f.rd).val.toNat = i → i < 64 →
        let e : TbEnt := ⟨a.val, b.val⟩
        (e.valid = true → h.tbOk e = true → exec (.tbwr c t f) s = s.did c t 4 (h.updC c.val fun k =>
          { k with tb := put (k.tb.map fun q => (q.1, if e.overlaps q.2 then off q.2 else q.2)) i e })) ∧
        (e.valid = false → exec (.tbwr c t f) s = s.did c t 4 (h.updC c.val fun k => { k with tb := put k.tb i e }))) ∧
      (f.rb = 0 → a.val.toNat < 64 →
        exec (.tbrdV c t f) s = s.did c t 4 (h.wrG c t f.rd ⟨.int, (lookD k.tb a.val.toNat {}).v⟩) ∧
        exec (.tbrdP c t f) s = s.did c t 4 (h.wrG c t f.rd ⟨.int, (lookD k.tb a.val.toNat {}).p⟩)) ∧
      (f.rd = 0 → f.rb = 0 → exec (.tbinv c t f) s = s.did c t 4 (h.updC c.val fun k =>
        { k with tb := k.tb.map fun q => (q.1, if q.2.maps a.val.toNat then off q.2 else q.2) })) ∧
      (f.rb = 0 → exec (.tbprobe c t f) s = s.did c t 4 (h.wrG c t f.rd ⟨.int,
        match k.tbFind a.val.toNat with | some (i, _) => BitVec.ofNat 64 i | none => BitVec.allOnes 64⟩))) ∧
    (s.super c t = true → f.rd = 0 → f.ra = 0 → f.rb = 0 → exec (.tbinva c t f) s = s.did c t 4 (h.updC c.val fun k =>
      { k with tb := k.tb.map fun q => (q.1, off q.2) })) ∧
    (s.super c t = false → f.rb = 0 → exec (.tbprobe c t f) s = s.faulted c t (privExc 0x31 0))

/-- On a ready slot, when the checks of R159, R160 and R164 pass: a transfer moves row 0, or the row of a record of
the same transfer, and a thread in the middle of one moves the next row, one row a command (the grain is the choice of
log 28); the record it still owns names the row behind, and is cleared by the last row, which ends the instruction.
TZERO of a configured tile that no queued instruction reads zeroes its rows and marks them valid. An accepted TCFGn
write sets the configuration, clears the valid mask and the record; a value that R157 refuses raises ILLEGAL with
reason 4. -/
def Obligations.TileTransfersAndConfiguration : Prop :=
  Transfers .tload .load ∧ Transfers .tstore .store ∧ Transfers .tstoreT .storeT ∧
  (∀ (c : CoreId) (t : Tid) (f : RF) (s : State), s.hw.slotReady c t 4 = true → f.rd.val < 8 → f.ra = 0 → f.rb = 0 →
    let h := s.hw.begun c t
    let n := tileOf f.rd
    let x := (h.core c.val).tile n
    x.cfg.getLsbD 31 = true → (h.core c.val).tileRead n = false →
    exec (.tzero c t f) s = s.did c t 4 ((h.updTile c n fun x =>
      { x with bytes := x.bytes.filter fun p => decide (trows x.cfg ≤ p.1 / 256)
               valid := x.valid ||| BitVec.ofNat 32 (2 ^ trows x.cfg - 1), prog := none
               bad := x.bad.filter fun r => decide (trows x.cfg ≤ r.val) }).rowWritten c n 0)) ∧
  ∀ (c : CoreId) (t : Tid) (n : Fin 8) (ra : Reg) (s : State), s.hw.slotReady c t 4 = true →
    (s.reg c t ra).tag.isInt = true →
    let h := s.hw.begun c t
    let v := (s.reg c t ra).val
    (tcfgOk v = true → (h.core c.val).tileRead n = false → exec (.tcfgWrite c t n ra) s =
      s.did c t 4 ((h.updC c.val fun k => k.dropLatches n).updTile c n fun x =>
        { x with cfg := v &&& 0x801FFF1F, valid := 0, prog := none })) ∧
    (tcfgOk v = false → exec (.tcfgWrite c t n ra) s = s.faulted c t
      { illegal 0x05 4 with xaddr := some (BitVec.ofNat 64 (0x090 + n.val)) })

/-- On a ready slot with checked operands and no earlier work on the accumulator: AZERO clears it; ALOAD (no row with
an uncorrectable error) loads it row by row; ASTORE and ASTORE.BF store its rows; AMOV.V and AMOV.A move a row; ABIAS
adds, AMULS scales with FP32 rounding; AMOV.T converts into a tile. With earlier work under way the thread is held,
and ACCUMULATOR_INSTRUCTION_START then runs the instruction. -/
def Obligations.AccumulatorInstructions : Prop :=
  Accumulates .azero 0 (fun h c _ f => h.updC c.val fun k =>
    { k with accs := k.accs.filter fun p => decide (p.1 / 1024 ≠ f.acc.val) }) ∧
  (∀ (c : CoreId) (t : Tid) (f : AccF) (s : State), s.hw.slotReady c t 4 = true →
    (s.hw.begun c t).accCheck c t 1 f = .ok () →
    ((s.hw.begun c t).core c.val).accReady 1 f (s.hw.core c.val).seq = true →
    (∀ r, r < 32 → (s.hw.core c.val).lmErr (accAddr (s.hw.thr c t) f r).toNat 128 < 2) →
    ∃ h, exec (.aload c t f) s = s.did c t 4 h ∧ ∀ r n, r < 32 → n < 32 → (h.core c.val).acc f.acc r n =
      BitVec.ofNat 32 (leAt ((s.hw.core c.val).lmem.readN (accAddr (s.hw.thr c t) f r).toNat 128) (4 * n) 4)) ∧
  Accumulates .astore 2 (fun h c t f => h.astore false f c t) ∧
  Accumulates .astoreBf 3 (fun h c t f => h.astore true f c t) ∧
  Accumulates .amovV 4 (fun h c t f =>
    let vs := (h.core c.val).accRowVals f.acc ((h.thr c t).rd f.rb).val.toNat
    h.updT c t fun x => (x.setVec f.x (ofLanes 32 (vs.take 16))).setVec ⟨(f.x.val + 1) % 32, Nat.mod_lt _ (by decide)⟩
      (ofLanes 32 (vs.drop 16))) ∧
  Accumulates .amovA 5 (fun h c t f => h.updC c.val fun k =>
    k.setAccRow f.acc ((h.thr c t).rd f.rb).val.toNat ((h.thr c t).pairOf f.x)) ∧
  Accumulates .abias 6 (fun h c t f =>
    h.accMap c f.acc fun v n => fp32.op 0 .add v (((h.thr c t).pairOf f.x).getD n 0) 0) ∧
  Accumulates .amuls 7 (fun h c t f =>
    let r := convert fp64 fp32 0 false ((h.thr c t).rd f.ra).val.toNat
    (h.accMap c f.acc fun v _ => fp32.op 0 .mul v r.1 0).arrFlags c.val false r.2.of false) ∧
  Accumulates .amovT 8 (fun h c t f => h.amovt f c t) ∧
  (∀ (c : CoreId) (t : Tid) (f : AccF) (s : State), s.hw.slotReady c t 4 = true →
    (s.hw.begun c t).accCheck c t 0 f = .ok () →
    ((s.hw.begun c t).core c.val).accReady 0 f (s.hw.core c.val).seq = false →
    exec (.azero c t f) s = s.leaves
      (((s.hw.begun c t).numbered c).updT c t fun x => { x with wait := .acc (s.hw.core c.val).seq 0 f })) ∧
  ∀ (c : CoreId) (t : Tid) (fn : Fin 9) (f : AccF) (seq : Nat) (s : State), (s.hw.thr c t).wait = .acc seq fn f →
    s.hw.coreRuns c.val = true → (s.hw.core c.val).accReady fn f seq = true →
    exec (.accumulatorInstructionStart c t) s = s.leaves (s.hw.complete c t fun h => Hw.accGo fn f h c t)

/-- On a ready slot with operands that R167-R169 accept and no store of a source tile under way, MMA, MMA.S and OPR
append their entry, with the operands and the occupancy as they stand, to the queue that sel and R179 choose (OPR: the
back one). A start marks the first entry of a queue that has not started, once no earlier work holds its accumulator.
A completion of a started entry with no parity error takes it off the queue, writes each element of its region by R182
and no other element. -/
def Obligations.MatrixQueues : Prop :=
  Queues .mma .mma (fun f => f.sel ≠ 3) (fun f => f.sel.toNat) ∧
  Queues .mmaS .mmaS (fun f => f.sel ≠ 3) (fun f => f.sel.toNat) ∧
  Queues .opr .opr (fun f => f.sel = 0 ∨ f.sel = 2) (fun _ => 2) ∧
  (∀ (c : CoreId) (back : Bool) (s : State) (i : ArrIns),
    ((s.hw.core c.val).queue back).find? (fun i => i.started.isNone) = some i →
    (s.hw.core c.val).mayStart back i = true →
    exec (.arrayInstructionStart c back) s = s.leaves (s.hw.updC c.val fun k =>
      k.setQueue back (markStarted s.hw.now (k.queue back)))) ∧
  ∀ (c : CoreId) (back : Bool) (s : State) (i : ArrIns) (rest : List ArrIns),
    (s.hw.core c.val).queue back = i :: rest → i.kind ≠ .rowred2 → i.started ≠ none →
    badOperandRow (s.hw.core c.val) (if back then 2 else 0) i.ta i.a = none →
    badOperandRow (s.hw.core c.val) (if back then 3 else 1) i.tb i.b = none →
    ∃ h, exec (.arrayInstructionComplete c back) s = s.leaves h ∧ (h.core c.val).queue back = rest ∧
      (∀ m n, m < (regionOf i).1 → n < (regionOf i).2 → m < 32 → n < 32 → (h.core c.val).acc i.acc m n =
        BitVec.ofNat 32 (resultElem i (s.hw.free + 32 * (32 * m + n)) m n ((s.hw.core c.val).acc i.acc m n).toNat).v) ∧
      ∀ acc m n, m < 32 → n < 32 → acc ≠ i.acc → (h.core c.val).acc acc m n = (s.hw.core c.val).acc acc m n

/-- On a ready slot: each vector integer instruction writes, in every lane of 8, 16, 32 or 64 bits that the mask
activates, the value of R192 modulo 2^w (shift amounts modulo w), and keeps or clears the inactive lanes; VCEQ, VCLT
and VCLTU (vd a mask register, z 0) write the mask of the lanes where the comparison holds. -/
def Obligations.VectorIntegerLanes : Prop :=
  VecInt .vadd (fun w a b => (a + b) % 2 ^ w) ∧ VecInt .vsub (fun w a b => (a + 2 ^ w - b) % 2 ^ w) ∧
  VecInt .vmul (fun w a b => a * b % 2 ^ w) ∧
  VecInt .vmulh (fun w a b => (sgn w a * sgn w b / 2 ^ w % (2 ^ w : Nat)).toNat) ∧
  VecInt .vmin (fun w a b => if sgn w a < sgn w b then a else b) ∧
  VecInt .vmax (fun w a b => if sgn w a < sgn w b then b else a) ∧
  VecInt .vminu (fun _ a b => min a b) ∧ VecInt .vmaxu (fun _ a b => max a b) ∧
  VecInt .vand (fun _ a b => a &&& b) ∧ VecInt .vor (fun _ a b => a ||| b) ∧ VecInt .vxor (fun _ a b => a ^^^ b) ∧
  VecInt .vandn (fun w a b => a &&& (2 ^ w - 1 - b)) ∧ VecInt .vshl (fun w a b => a * 2 ^ (b % w) % 2 ^ w) ∧
  VecInt .vshr (fun w a b => a / 2 ^ (b % w)) ∧
  VecInt .vsar (fun w a b => (sgn w a / 2 ^ (b % w) % (2 ^ w : Nat)).toNat) ∧
  VecCompare .vceq (fun _ a b => decide (a = b)) ∧ VecCompare .vclt (fun w a b => decide (sgn w a < sgn w b)) ∧
  VecCompare .vcltu (fun _ a b => decide (a < b))

/-- On a ready slot with lanes FP32 or BF16 and unused fields 0: each vector floating-point instruction writes its
active lanes' results and sets the flags that active lanes raise, or, when one of these is trapped, sets the flags,
writes no destination and enters FPX. VFEXP, VFLOG, VFRCP, VFRSQ and VFTANH take the model's approximation of R193,
whose value inside the stated error is free (log 9). -/
def Obligations.VectorFloatLanes : Prop :=
  let no2 (f : VF) : Prop := f.vb = 0
  VecFp .vfadd (fun _ => True) (fun g rm a b _ => g.op rm .add a b 0) ∧
  VecFp .vfsub (fun _ => True) (fun g rm a b _ => g.op rm .sub a b 0) ∧
  VecFp .vfmul (fun _ => True) (fun g rm a b _ => g.op rm .mul a b 0) ∧
  VecFp .vfma (fun _ => True) (fun g rm a b d => g.op rm .fma a b d) ∧
  VecFp .vfmin (fun _ => True) (fun g rm a b _ => g.op rm .min a b 0) ∧
  VecFp .vfmax (fun _ => True) (fun g rm a b _ => g.op rm .max a b 0) ∧
  VecFp .vfdiv (fun _ => True) (fun g rm a b _ => g.op rm .div a b 0) ∧
  VecFp .vfsqrt no2 (fun g rm a _ _ => g.op rm .sqrt a 0 0) ∧
  VecFp .vcvtif (fun f => f.vb = 0 ∧ f.et = 0) (fun g rm a _ _ => g.enc rm false (FV.ofZ (sgn 32 a))) ∧
  VecFp .vcvtfi (fun f => f.vb = 0 ∧ f.et = 0) (fun g rm a _ _ =>
    (((cvtFI 32 rm (g.dec a)).1 % 2 ^ 32).toNat, (cvtFI 32 rm (g.dec a)).2)) ∧
  VecFp .vfexp no2 (fun g _ a _ _ => g.approx .exp a) ∧ VecFp .vflog no2 (fun g _ a _ _ => g.approx .log a) ∧
  VecFp .vfrcp no2 (fun g _ a _ _ => g.approx .rcp a) ∧ VecFp .vfrsq no2 (fun g _ a _ _ => g.approx .rsq a) ∧
  VecFp .vftanh no2 (fun g _ a _ _ => g.approx .tanh a) ∧
  VecFpCompare .vfceq (fun g a b => g.cmp .eq a b) ∧ VecFpCompare .vfclt (fun g a b => g.cmp .lt a b) ∧
  VecFpCompare .vfcle (fun g a b => g.cmp .le a b)

/-- On a ready slot with accepted fields and operands: KAND, KOR, KXOR, KANDN, KNOT, KMOV.G, KMOV.K and KFIRST write
their mask or register; VSPLAT, VINS and VPERM write the lanes or bytes of vd that the mask activates, and VEXT a
lane of va to a register as RAW; VRSUM writes the tree sum of the active lanes to lane 0, VRMAX their maximumNumber
(with no active lane a free value, log 10), the rest of vd 0; VCVT converts the part q of va or into the part q of
vd. VRSUM, VRMAX and VCVT set the flags that arise, or trap with FPX when one of these is enabled. -/
def Obligations.MasksPermutesAndReductions : Prop :=
  MaskLogic .kand (fun a b => a &&& b) ∧ MaskLogic .kor (fun a b => a ||| b) ∧ MaskLogic .kxor (fun a b => a ^^^ b) ∧
  MaskLogic .kandn (fun a b => a &&& ~~~b) ∧
  (∀ (c : CoreId) (t : Tid) (f : RF) (s : State), s.hw.slotReady c t 4 = true → f.rb = 0 →
    let h := s.hw.begun c t
    let a := s.reg c t f.ra
    (f.rd.val < 8 → f.ra.val < 8 →
      exec (.knot c t f) s = s.did c t 4 (h.updT c t fun x => x.setMsk f.rd.val (~~~x.msk f.ra.val))) ∧
    (f.rd.val < 8 → a.tag.isBits = true →
      exec (.kmovg c t f) s = s.did c t 4 (h.updT c t fun x => x.setMsk f.rd.val a.val)) ∧
    (f.ra.val < 8 → exec (.kmovk c t f) s = s.did c t 4 (h.wrG c t f.rd ⟨.int, (h.thr c t).msk f.ra.val⟩)) ∧
    (f.rd.val < 8 → a.tag.isInt = true → a.val.toNat ≤ 64 →
      exec (.kfirst c t f) s = s.did c t 4 (h.updT c t fun x =>
        x.setMsk f.rd.val (BitVec.ofNat 64 (2 ^ a.val.toNat - 1))))) ∧
  ∀ (c : CoreId) (t : Tid) (f : VF) (s : State), s.hw.slotReady c t 4 = true →
    let h := s.hw.begun c t
    let x := s.hw.thr c t
    let w := 8 * 2 ^ f.et.toNat
    (f.vb = 0 → (x.rd f.va).tag.isBits = true → exec (.vsplat c t f) s = s.did c t 4 (h.updT c t fun x =>
      x.setVec f.vd (mergeLanes w (x.kmask f.km) f.z (x.vec f.vd)
        (List.replicate (512 / w) ((x.rd f.va).val.toNat % 2 ^ w))))) ∧
    (f.vb.val < 512 / w →
      exec (.vins c t f) s = s.did c t 4 (h.updT c t fun x =>
        x.setVec f.vd (mergeLanes w (x.kmask f.km) f.z (x.vec f.vd)
          ((lanes w (x.vec f.vd)).set f.vb.val ((x.rd f.va).val.toNat % 2 ^ w))))) ∧
    (f.km = 0 → f.z = false → f.vb.val < 512 / w →
      exec (.vext c t f) s = s.did c t 4 (h.wrG c t f.vd ⟨.raw, BitVec.ofNat 64 (lane w (x.vec f.va) f.vb.val)⟩)) ∧
    (f.et = 0 → exec (.vperm c t f) s = s.did c t 4 (h.updT c t fun x =>
      x.setVec f.vd (vecOf (maskBytes (x.kmask f.km) f.z (vecBytes (x.vec f.vd))
        ((vecBytes (x.vec f.vb)).map fun b => (vecBytes (x.vec f.va)).getD (b.toNat % 64) 0))))) ∧
    (f.et.toNat < 2 → f.vb = 0 → f.z = false →
      let fmt := if f.et = 1 then bf16 else fp32
      let n := fmt.width
      let m := x.kmask f.km
      let acts := (lanes n (x.vec f.va)).zipIdx.filterMap fun p => if active n m p.2 then some p.1 else none
      (let r := treeSum fmt x.rm 5 (lanes n (mergeLanes n m true 0 (lanes n (x.vec f.va))));
        s.fpEnds (.vrsum c t f) c t r.2 fun x => x.setVec f.vd (BitVec.ofNat 512 r.1)) ∧
      (∀ v i, maxOf fmt acts = some (v, i) →
        s.fpEnds (.vrmax c t f) c t ((fmt.enc 0 false v).2.or { nv := i }) fun x => x.setVec f.vd (BitVec.ofNat 512 (fmt.enc 0 false v).1)) ∧
      (acts = [] → exec (.vrmax c t f) s = s.did c t 4 (({ h with free := h.free + 1 } : Hw).updT c t fun x =>
        x.setVec f.vd (BitVec.ofNat 512 ((Config.free s.hw.free).toNat % 2 ^ n))))) ∧
    (f.km = 0 → f.z = false → f.et = 0 → 2 ≤ f.vb.val / 4 ∨ f.vb.val % 4 < 2 →
      let code := f.vb.val / 4
      let q := f.vb.val % 4
      let inW := [4, 2, 4, 4, 1, 1, 4, 1].getD code 4
      let outW := [2, 4, 1, 1, 4, 4, 1, 4].getD code 4
      let r := (List.range 16).map fun i =>
        cvtLane code x.rm (leAt (vecBytes (x.vec f.va)) ((if inW = 4 then 0 else 16 * inW * q) + inW * i) inW)
      s.fpEnds (.vcvt c t f) c t ((r.map (·.2)).foldl FFlags.or {}) fun x =>
        let old := vecBytes (x.vec f.vd)
        let lo := if outW = 4 then 0 else 16 * outW * q
        x.setVec f.vd (vecOf (old.take lo ++ (r.map fun p => leBytes outW p.1).flatten ++ old.drop (lo + 16 * outW))))

/-- On a ready slot: ROWRED2 whose descriptor passes R207-R209 joins the back queue, while it has fewer than four
entries, with its descriptor copied and the occupancy of R212. Its completion, once started, with no bad word in the
core's local memory and no injection armed in its page, takes it off the queue, leaves the others in their order, and
records its mode and all its rows as completed with no error. DERIVO (fn 0-4) and DERIVI (fn 0-2) on FP32 or BF16
lanes write the active lanes' derivatives and set their flags, or trap with FPX; a lane that is not exact takes a
value within the error that R217 allows, which one is free (log 9). A write with bit 0 set to RR2_CLR clears the ECC
mark. -/
def Obligations.BackwardPassInstructions : Prop :=
  (∀ (c : CoreId) (t : Tid) (f : RF) (fn : BitVec 11) (s : State) (d : RDesc), s.hw.slotReady c t 4 = true →
    let h := s.hw.begun c t
    h.rowredCheck c (h.thr c t) f fn.toNat = .ok d → (s.hw.core c.val).back.length < 4 →
    ∃ i h', exec (.rowred2 c t f fn) s = s.did c t 4 h' ∧ (h'.core c.val).back = (s.hw.core c.val).back ++ [i] ∧
      i.kind = .rowred2 ∧ i.thread = t ∧ i.mode.val = fn.toNat ∧ rdescOf i.mode.val i.desc = d ∧ i.occ = d.occ ∧
      i.started = none) ∧
  (∀ (c : CoreId) (s : State) (i : ArrIns) (rest : List ArrIns), (s.hw.core c.val).back = i :: rest →
    i.kind = .rowred2 → i.started ≠ none → (rdescOf i.mode.val i.desc).rows < 8192 → (s.hw.core c.val).lbad = [] →
    (s.hw.cpg c.val 0x020).getLsbD 31 = false →
    ∃ h, exec (.rowred2Complete c) s = s.leaves h ∧
      (h.core c.val).back.map (fun j => { j with snap := [] }) = rest.map (fun j => { j with snap := [] }) ∧
      (h.core c.val).rr2Rows.toNat = (rdescOf i.mode.val i.desc).rows ∧ (h.core c.val).rr2Ecc = false ∧
      (h.core c.val).rr2Mode.toNat = i.mode.val) ∧
  (∀ (inp : Bool) (c : CoreId) (t : Tid) (f : VF) (fn : BitVec 5) (s : State), s.hw.slotReady c t 4 = true →
    f.et.toNat < 2 → fn.toNat < (if inp then 3 else 5) →
    let fmt := if f.et = 1 then bf16 else fp32
    let x := s.hw.thr c t
    let m := x.kmask f.km
    let r := ((lanes fmt.width (x.vec f.va)).zip (lanes fmt.width (x.vec f.vb))).map fun p =>
      derivLane fmt x.rm inp fn.toNat p.1 p.2
    s.fpEnds (if inp then .derivi c t f fn else .derivo c t f fn) c t (laneFlags fmt.width m (r.map (·.2))) fun x =>
      x.setVec f.vd (mergeLanes fmt.width m f.z (x.vec f.vd) (r.map (·.1)))) ∧
  ∀ (c : CoreId) (t : Tid) (ra : Reg) (s : State), s.hw.slotReady c t 4 = true → (s.reg c t ra).tag.isInt = true →
    (s.reg c t ra).val.getLsbD 0 = true →
    exec (.rr2Clr c t ra) s = s.did c t 4 ((s.hw.begun c t).updC c.val fun k => { k with rr2Ecc := false })

/-- On a ready slot with accepted operands: MHDR sets the header fields, MPUT and MPUT.V write bytes of the (possibly
newly opened) composition, MDISCARD closes it. SEND of an open, headed composition, and SENDF on an enabled route,
whose entry holds enough credits spend them, put the message into its flow and close the composition; with too few
credits in a HELD entry they set it to REQ, send a credit request for the rest and wait. -/
def Obligations.CompositionAndSending : Prop :=
  ∀ (c : CoreId) (t : Tid) (f : RF) (s : State), s.hw.slotReady c t 4 = true →
    let h := s.hw.begun c t
    let x := h.thr c t
    let k := h.core c.val
    let a := s.reg c t f.ra
    let b := s.reg c t f.rb
    (f.rd = 0 → a.tag.isInt = true → b.tag.isInt = true → a.val.toNat < 2 ^ 18 → destOk (fld a.val 15 0) = true →
      b.val.toNat < 65536 → exec (.mhdr c t f) s = s.did c t 4 (h.composes c t fun y =>
        { y with hdrSet := true, dest := a.val.setWidth 16, ring := ⟨fld a.val 17 16 % 4, Nat.mod_lt _ (by decide)⟩
                 tag := b.val.setWidth 16 })) ∧
    (f.rd = 0 → b.tag.isInt = true → 16 ≤ b.val.toNat → b.val.toNat ≤ 1016 → b.val.toNat % 8 = 0 →
      exec (.mput c t f) s = s.did c t 4 (h.composes c t fun y =>
        { y with buf := Comp.write y.buf b.val.toNat (leBytes 8 a.val.toNat) })) ∧
    (f.ra = 0 → b.tag.isInt = true → 1 ≤ b.val.toNat → b.val.toNat ≤ 15 →
      exec (.mputV c t f) s = s.did c t 4 (h.composes c t fun y =>
        { y with buf := Comp.write y.buf (64 * b.val.toNat) (vecBytes (x.vec f.rd)) })) ∧
    (f.rd = 0 → f.ra = 0 → f.rb = 0 → exec (.mdiscard c t f) s = s.did c t 4 (h.closeComp c t)) ∧
    (f.rd = 0 → f.rb = 0 → a.tag.isInt = true → 1 ≤ a.val.toNat → a.val.toNat ≤ 16 → x.comp.isOpen = true →
      x.comp.hdrSet = true → s.hw.unarmed c = true → ∀ i e, k.credit x.comp.dest x.comp.ring = some (i, e) →
      (a.val.toNat ≤ e.credits → exec (.send c t f) s = s.did c t 4 (((h.paid c i e a.val.toNat).send
            { q := .msg, src := coreIdW c, dest := x.comp.dest
              body := .message (x.composed c a.val.toNat) }).closeComp c t)) ∧
      (e.credits < a.val.toNat → e.state ≠ .req → exec (.send c t f) s = s.leaves
        (((h.updC c.val fun k => { k with credits := put k.credits i { e with state := .req } }).askCredit (.core c)
          x.comp.dest x.comp.ring (a.val.toNat - e.credits) (h.reqGran c.val)).updT c t fun x =>
            { x with state := .waitReq, wait := .req (.send f) }))) ∧
    (f.rd = 0 → a.tag.isInt = true → b.tag.isInt = true → a.val.toNat < 8 → 1 ≤ b.val.toNat → b.val.toNat ≤ 15 →
      x.comp.isOpen = true → s.hw.unarmed c = true →
      let v := h.cpg c.val (0x0E0 + 4 * a.val.toNat)
      v.getLsbD 31 = true → ∀ i e, k.credit (frDest v) (frRing v) = some (i, e) → b.val.toNat + 1 ≤ e.credits →
      exec (.sendf c t f) s = s.did c t 4 (((h.paid c i e (b.val.toNat + 1)).send
          { q := .fix, src := coreIdW c, dest := frDest v
            body := .message (fixedMsg (coreIdW c) (frDest v) (frRing v) b.val.toNat (frTag v) a.val.toNat
              ((x.comp.data (b.val.toNat + 1)).drop 48)) }).closeComp c t))

/-- On a ready slot with a ring number 0-3 whose ring is enabled: MQ_POP of a ring without dispatch returns the
address of the next visible message and marks it popped, or NIL when there is none. MDONE retires the oldest popped
message, whose granules become free. MWAIT with a message in its dispatch set dispatches it, with masked events takes
them, and otherwise waits; MSG_DISPATCH then dispatches to the waiting thread. A dispatch pushes the PC, sets g1 to
the message and g2 to its header word, and goes to the handler. -/
def Obligations.PoppingAndDispatch : Prop :=
  ∀ (c : CoreId) (t : Tid) (f : RF) (s : State),
    let h := s.hw.begun c t
    let a := s.reg c t f.ra
    (s.hw.slotReady c t 4 = true → f.rb = 0 → a.tag.isInt = true →
      (∀ n : Fin 4, a.val.toNat = n.val → ringEn (h.rctl c.val n) = true →
        (ringHen (h.rctl c.val n) = false →
          (h.popMsg c n = none → exec (.mqPop c t f) s = s.did c t 4 (h.wrG c t f.rd ⟨.nil, 0⟩)) ∧
          (∀ p h', h.popMsg c n = some (p, h') →
            exec (.mqPop c t f) s = s.did c t 4 (h'.wrG c t f.rd ⟨.laddr, BitVec.ofNat 64 p⟩))) ∧
        (f.rd = 0 → (h.ring (coreIdW c) n).popped ≠ 0 →
          exec (.mdone c t f) s = s.did c t 4 (h.freed (coreIdW c) n Ring.retire))) ∧
      (a.val.toNat < 2 ^ 32 → a.val ≠ 0 →
        (h.dispatchRing c t = none → (h.thr c t).evPend &&& a.val.setWidth 32 = 0 →
          exec (.mwait c t f) s = s.leaves (h.updT c t fun x =>
            { x with state := .waitEv, wait := .mwait f.rd (a.val.setWidth 32) })) ∧
        (∀ n p h', h.dispatchRing c t = some n → h.popMsg c n = some (p, h') →
          let hd := leNat ((h.core c.val).lmem.readN p 8)
          let w := (h.core c.val).ldWord (fld (h.cpg c.val 0x0D0) 31 20 * 512 + 8 * (hd / 2 ^ 32 % 64))
          fld (h.cpg c.val 0x0D0) 31 20 * 512 + 8 * (hd / 2 ^ 32 % 64) < 0x180000 → w.tag.isAddr = true → s.pushes c t →
          exec (.mwait c t f) s = s.jumped c t (((h'.setRs c t (pushed (s.hw.thr c t).rs (s.hw.thr c t).pc)).wrG c t 1
            ⟨.laddr, BitVec.ofNat 64 p⟩).wrG c t 2 ⟨.int, BitVec.ofNat 64 hd⟩) w))) ∧
    ∀ rd m n, (s.hw.thr c t).wait = .mwait rd m → (s.hw.thr c t).state = .waitEv → s.hw.dispatchRing c t = some n →
      s.hw.coreRuns c.val = true → s.hw.dueEvent c t = none →
      exec (.msgDispatch c t) s = s.leaves (s.hw.complete c t fun h => h.dispatch c t n)

/-- A NORMAL or FIXED message at the head of its flow whose core is in service and whose ring is enabled leaves the
flow and lands: its record is appended, and its granules turn from granted into occupied. An EVENT at the head of its
flow at a core in service sets its bit. An OPERAND message, whose way to a core with debug access is open, writes the
named scalar register of a halted thread from its records and nothing else of any core (no injection armed; the
command is its sending too, log 93). A BROADCAST writes its granules into every ACTIVE and SPARE site of the named
dies. -/
def Obligations.MessagesEventsAndBroadcastsArrive : Prop :=
  (∀ (src dest : BitVec 16) (fixed : Bool) (s : State) (m : Msg) (h : Hw) (c : CoreId),
    s.heads (if fixed then .fix else .msg) src dest (.message m) h → m.dest = coreIdW c →
    h.refuses (.core c) = 0 → ringEn (h.rctl c.val m.ring) = true →
    exec (.messageDeposit src dest fixed) s = s.leaves (h.landCore c m.ring m true) ∧
    ((h.cpg c.val 0x020).getLsbD 31 = false →
      let r := h.ring (coreIdW c) m.ring
      let r' := (h.landCore c m.ring m true).ring (coreIdW c) m.ring
      r'.occ = r.occ + m.gran ∧ r'.granted = r.granted - m.gran ∧ r'.popped = r.popped ∧
      ∃ pads at', r'.recs = r.recs ++ pads ++ [{ start := at', len := m.gran }])) ∧
  (∀ (src dest : BitVec 16) (s : State) (u : Tid) (b : Fin 32) (h : Hw) (c : CoreId),
    s.heads .msg src dest (.event u b) h → dest = coreIdW c → h.refuses (.core c) = 0 →
    (h.cpg c.val 0x280).getLsbD 20 = false → exec (.eventArrival src dest) s = s.leaves (h.setEv c u b.val)) ∧
  (∀ (c : CoreId) (r : OperandRec) (q : Reg) (s : State), s.hw.goneSite c.val = false →
    (s.hw.cpg c.val 0x040).getLsbD 7 = true → s.hw.pwr c.val ≠ 1 → s.hw.calm → s.hw.awake (dieOf c.val) = true →
    (let p := meshPoint c.val;
      s.hw.routeHeld (entryLink 0x2700 (meshEntry 0x2700)) (routeOf 160 (meshEntry 0x2700) (p.1, p.2.1) p.2.2) = false) →
    r.valid = true → (s.hw.thr c r.thread).state.halted = true → r.sel.toNat = q.val →
    let w (h : Hw) := h.wrG c r.thread q ⟨Tag.ofCode r.tag.toNat, r.payload⟩
    ∃ g, g.cores = s.hw.cores ∧ exec (.operandArrival (coreIdW c) [r, r, r]) s = s.leaves (w (w (w g)))) ∧
  ∀ (mask : BitVec 20) (a : BitVec 21) (data : List Byte) (s : State), (Instr.broadcastArrival mask a data).wf = true →
    exec (.broadcastArrival mask a data) s = s.leaves (((List.range 20).filter mask.getLsbD).foldl (fun h d =>
      (List.range 256).foldl (fun h x => if (h.site (d * 256 + x)).st = .active ∨ (h.site (d * 256 + x)).st = .spare
        then h.lmWrite (d * 256 + x) a.toNat data else h) h) s.hw)

/-- A credit request at the head of its flow: a receiver not in service answers DENY with its bcause, one whose ring
is off DENY with bcause 3; a ring where none waits and that can grant it at once grants min(want, free - 15); else
the request joins up to 8 that wait, and is answered RETRY when 8 wait or the time-out is 0. The first queued request
of a holder that times out leaves the queue with a RETRY. A GRANT at the head of its flow to an entry in REQ is
applied by the model's operation, which, with nothing waiting on the entry and no injection armed, leaves it HELD
with the credits added; RETRY and DENY end the request, a RECALL returns the credits with a RETURN, and a RETURN to a
ring that granted to its holder moves them from granted to free, and the requests that wait there are looked at
again. -/
def Obligations.CreditRequestsAndAnswers : Prop :=
  (∀ (hd : Holder) (dest : BitVec 16) (ring : Fin 4) (s : State) (need want port : Nat) (h : Hw),
    s.heads .msg (holderSrc hd) dest (.creq hd ring need want port) h →
    let b := h.refuses (endpOf dest ring)
    let r := h.ring dest ring
    (b ≠ 0 → exec (.creditRequestArrival hd dest ring) s = s.leaves
      (h.send { q := .bnc, src := dest, dest := holderSrc hd, body := .deny hd ring b, port := port })) ∧
    (b = 0 → h.ringOn dest ring = false → exec (.creditRequestArrival hd dest ring) s = s.leaves
      (h.send { q := .bnc, src := dest, dest := holderSrc hd, body := .deny hd ring 3, port := port })) ∧
    (b = 0 → h.ringOn dest ring = true → r.waiting = [] → h.grantable dest ring hd need = true →
      exec (.creditRequestArrival hd dest ring) s = s.leaves (h.grant dest ring hd (min want (r.free - 15)) port)) ∧
    (b = 0 → h.ringOn dest ring = true → (r.waiting ≠ [] ∨ h.grantable dest ring hd need = false) →
      (r.waiting.length < 8 → h.grantTo dest ring ≠ 0 → exec (.creditRequestArrival hd dest ring) s = s.leaves
        (h.updRing dest ring fun r =>
          { r with waiting := r.waiting ++ [{ h := hd, src := holderSrc hd, need := need, want := want, port := port }] })) ∧
      (8 ≤ r.waiting.length ∨ h.grantTo dest ring = 0 → exec (.creditRequestArrival hd dest ring) s = s.leaves
        (h.send { q := .ctl, src := dest, dest := holderSrc hd, body := .retry hd ring, port := port })))) ∧
  (∀ (hd : Holder) (dest : BitVec 16) (ring : Fin 4) (s : State) (w : CReq),
    (s.hw.ring dest ring).waiting.find? (fun q => q.h == hd) = some w →
    exec (.grantTimeout hd dest ring) s = s.leaves ((s.hw.freed dest ring fun r =>
      { r with waiting := r.waiting.eraseP fun q => q.h == hd }).send
        { q := .ctl, src := dest, dest := holderSrc hd, body := .retry hd ring, port := w.port })) ∧
  (∀ (hd : Holder) (dest : BitVec 16) (ring : Fin 4) (s : State) (h : Hw), s.hw.bncHeld hd = false →
    (∀ g, s.heads .ctl dest (holderSrc hd) (.grant hd ring g) h → (h.holderEntry hd dest ring).state = .req →
      exec (.grantArrival hd dest ring) s = s.leaves (h.granted hd dest ring g)) ∧
    (s.heads .ctl dest (holderSrc hd) (.retry hd ring) h → (h.holderEntry hd dest ring).state = .req →
      exec (.retryArrival hd dest ring) s = s.leaves (h.retried hd dest ring)) ∧
    (∀ b, s.heads .bnc dest (holderSrc hd) (.deny hd ring b) h → (h.holderEntry hd dest ring).state = .req →
      exec (.denyArrival hd dest ring) s = s.leaves (h.denied hd dest ring b)) ∧
    (s.heads .ctl dest (holderSrc hd) (.recallOf hd ring) h →
      exec (.recallArrival hd dest ring) s = s.leaves ((h.updHolder hd dest ring fun e =>
        { e with credits := 0, state := if e.state = .req then .req else .empty }).send
          { q := .ctl, src := holderSrc hd, dest := dest, body := .ret hd ring (h.holderEntry hd dest ring).credits })) ∧
    (∀ n, s.heads .ctl (holderSrc hd) dest (.ret hd ring n) h → (h.ring dest ring).grants.any (fun g => g.1 == hd) = true →
      exec (.returnArrival hd dest ring) s = s.leaves ((h.freed dest ring fun r =>
        { r with granted := r.granted - n, free := r.free + n, grants := r.grants.filter fun g => g.1 != hd
                 recallFrom := r.recallFrom.filter fun x => x != hd }).serveAll dest))) ∧
  ∀ (c : CoreId) (dest : BitVec 16) (ring : Fin 4) (h : Hw) (g i : Nat) (e : CEnt),
    (h.core c.val).credit dest ring = some (i, e) → e.state = .req → h.unarmed c = true → h.waiters c dest ring = [] →
    h.chanWaiters (.core c) dest ring = [] →
    ((h.granted (.core c) dest ring g).core c.val).credit dest ring =
      some (i, { e with credits := e.credits + g, state := .held, stamp := stampOf (h.core c.val).credits })

/-- By page write on an awake die whose page is open: RINGn_BASE and RINGn_CTL take an accepted value, and refuse one
that R267 forbids with an access error, of reason 4 where the ring is busy and else 3 (a reading of log 58); a write
of RINGn_CTL.recall that is accepted starts a recall; FROUTEr stages its value; RING_RECON of a ring with no recall
and no waiting request moves its granted credits to free. An accepted RINGn_BASE or RINGn_CTL write by MTSR on a
ready supervisor slot does the same as by page. CT_PURGE and HUB_CT_PURGE that name one entry drop it. With none
waiting, the first bounce in flight to a core, at the head of its flow, lands by the model's operation when the
bounce ring has room. -/
def Obligations.RingAndRouteRegisters : Prop :=
  ∀ (c : CoreId) (s : State),
    (s.pageOpen (dieOf c.val) (siteIx c.val) →
      (∀ (n : Fin 4) (ctl : Bool) (v : W32),
        (∀ h', s.hw.ringWrite c n ctl v = some h' → exec (.ringConfigWrite c n ctl (.page v)) s = s.leaves h') ∧
        (s.hw.ringWrite c n ctl v = none → exec (.ringConfigWrite c n ctl (.page v)) s = s.leaves
          (s.hw.accErr (dieOf c.val) (siteIx c.val) ((if ctl then 0x104 else 0x100) + 32 * n.val)
            (s.hw.ringReason c n ctl v)))) ∧
      (∀ (n : Fin 4) (h' : Hw), s.hw.ringWrite c n true (setBit (s.hw.rctl c.val n) 21 true) = some h' →
        exec (.ringRecall c n .page) s = s.leaves h') ∧
      (∀ (r : Fin 8) (v : W32), exec (.frouteWrite c r (.page v)) s = s.leaves
        (s.hw.updC c.val fun k => { k with frStaged := put k.frStaged r.val (v &&& 0x83FFFFFF) })) ∧
      (∀ n : Fin 4, (s.hw.ring (coreIdW c) n).recallFrom = [] → (s.hw.ring (coreIdW c) n).waiting = [] →
        exec (.ringRecon c n) s = s.leaves (((s.hw.updRing (coreIdW c) n fun r =>
          { r with free := r.free + r.granted, granted := 0, grants := [] }).setCpg c.val 0x1A8
            (BitVec.ofNat 32 (s.hw.ring (coreIdW c) n).granted)).serveAll (coreIdW c))) ∧
      (∀ v : W32, (s.hw.core c.val).credits.filter (fun x => purged v x.2) = [] →
        exec (.ctPurge c v) s = s.leaves s.hw) ∧
      (∀ (v : W32) (i : Nat) (e : CEnt), (s.hw.core c.val).credits.filter (fun x => purged v x.2) = [(i, e)] →
        exec (.ctPurge c v) s = s.leaves ((s.hw.updC c.val fun k => { k with credits := del k.credits i }).askAgain
          (.core c) e.dest e.ring))) ∧
    (∀ (t : Tid) (ra : Reg) (n : Fin 4) (ctl : Bool) (h' : Hw), s.hw.slotReady c t 4 = true → s.super c t = true →
      (s.reg c t ra).tag.isInt = true →
      (s.hw.begun c t).ringWrite c n ctl ((s.reg c t ra).val.setWidth 32) = some h' →
      exec (.ringConfigWrite c n ctl (.mtsr t ra)) s = s.did c t 4 h') ∧
    (∀ (d : Fin 36) (v : W32) (n : Fin 32), s.pageOpen d.val 0x101 →
      (∀ m, m ≠ n → purged v (s.hw.ch (.hub d m)).cred = false) → purged v (s.hw.ch (.hub d n)).cred = true →
      ∃ h, exec (.hubCtPurge d v) s = s.leaves h ∧ (h.ch (.hub d n)).cred = {} ∧
        ∀ m, m ≠ n → (h.ch (.hub d m)).cred = (s.hw.ch (.hub d m)).cred) ∧
    ∀ (m : Msg) (p : Pkt) (h h' : Hw), s.hw.bouncesOf c = [] →
      s.hw.flight.find? (fun p => p.q == .bnc && p.dest == coreIdW c &&
        (match p.body with | .message _ => true | _ => false)) = some p →
      s.heads .bnc p.src (coreIdW c) (.message m) h → h.landBounce c m = some h' →
      exec (.bounceLanding c) s = s.leaves h'

/-- For every thread whose exception stack can take a frame (push_check reason 0), and every cause but ECC (whose
error counts come with it): entry stores the return word at ESP - 8 and the STAT word at ESP - 16, lowers ESP by 16,
raises NEST, records BASE_PRIV at NEST 0, puts cause, detail and slot into STATUS with priv 1, ie, ss and rep_active
0, sets XADDR if the cause has one, goes to 0x0400 + 64 x slot, ends a wait, and leaves every scalar register, the
return stack, the shadows and every local byte outside the frame. -/
def Obligations.ExceptionEntry : Prop :=
  ∀ (h : Hw) (c : CoreId) (t : Tid) (e : Exc) (ret : TWord), (h.thr c t).pushCheck = 0 → h.unarmed c = true →
    e.cause < 32 → e.cause ≠ 10 →
    let x := h.thr c t
    let y := (h.enter c t e ret).thr c t
    let k := (h.enter c t e ret).core c.val
    let sp := x.esp.val.toNat - 16
    y.pc = ⟨.laddr, BitVec.ofNat 64 (0x0400 + 64 * e.cause)⟩ ∧ y.st.priv = true ∧ y.st.ie = false ∧ y.st.ss = false ∧
    y.st.repActive = false ∧ y.st.cause = BitVec.ofNat 8 e.cause ∧ y.st.detail = e.detail ∧
    y.st.slot = BitVec.ofNat 5 e.cause ∧ y.st.lr = x.st.lr ∧ y.nest = x.nest + 1 ∧
    y.basePriv = (if x.nest = 0 then x.st.priv else x.basePriv) ∧ y.esp = ⟨.laddr, BitVec.ofNat 64 sp⟩ ∧
    y.xaddr = e.xaddr.getD x.xaddr ∧ y.state = .run ∧ y.wait = .none ∧ k.ldWord (sp + 8) = ret ∧
    k.ldWord sp = ⟨.stat, ({ x.st with cause := BitVec.ofNat 8 e.cause, detail := e.detail
                                       slot := BitVec.ofNat 5 e.cause } : Status).word t⟩ ∧
    (∀ r, y.rd r = x.rd r) ∧ y.rs = x.rs ∧ y.scRa = x.scRa ∧ y.scStat = x.scStat ∧ y.fpcsr = x.fpcsr ∧
    y.espLimit = x.espLimit ∧ y.intEn = x.intEn ∧ y.xsRa = x.xsRa ∧ y.xsStat = x.xsStat ∧
    ∀ a, a < sp ∨ sp + 16 ≤ a → k.lmem.read a = (h.core c.val).lmem.read a

/-- When push_check fails for a cause with no fault address and lr is 0, entry stores the return word in XS_RA and
STATUS in XS_STAT, sets lr and LR_LEVEL, raises NEST and enters slot 1 (STACK) with the reason as detail, storing
nothing. With lr 1, a pool thread stops in HALT_FAULT at the return address, and thread 0 takes every thread of the
core to HALT_CORE. -/
def Obligations.LastResortAndCoreHalt : Prop :=
  ∀ (h : Hw) (c : CoreId) (t : Tid) (e : Exc) (ret : TWord), e.xaddr = none → e.cause ≠ 10 →
    let x := h.thr c t
    let u := h.enter c t e ret
    let y := u.thr c t
    x.pushCheck ≠ 0 →
    (x.st.lr = false → y.xsRa = ret ∧ y.xsStat.tag = .stat ∧ y.st.lr = true ∧ y.nest = x.nest + 1 ∧
      y.lrLevel = x.nest + 1 ∧ y.esp = x.esp ∧ y.pc = ⟨.laddr, 0x0440⟩ ∧ y.st.cause = 1 ∧
      y.st.detail = BitVec.ofNat 16 x.pushCheck ∧ y.st.priv = true ∧ y.state = .run ∧
      ∀ c' : CoreId, (u.core c'.val).lmem = (h.core c'.val).lmem) ∧
    (x.st.lr = true → t ≠ 0 → y.state = .haltFault ∧ y.pc = ret) ∧
    (x.st.lr = true → t = 0 → y.pc = ret ∧ ∀ n : Tid, (u.thr c n).state = .haltCore)

/-- In a core that runs, at a thread's boundary where an entry is due: one of cause 18 is taken by INTR_ENTRY (a wait
whose own mask holds the bit completes instead), one of cause 20 by thread 0's THREADF_ENTRY, one of cause 15 by
DMA_ENTRY, and ECC of a tile parity error by ARRAY_PARITY_ENTRY. With no other entry than INTR due, THREAD_WAKE
completes a WFE, a WAITC or an MWAIT with no message to dispatch with the pending events of its mask in rd, these
cleared, and a WAITC whose counter has reached its target with rd 0. When all threads wait, nothing is armed and
STALL_CNT has reached a STALL_WINDOW above 0, STALL_ENTRY takes thread 0 into STALL with the thread states as detail,
the count at 0. START_ENTRY starts thread 0 of a core whose threads may run, on a die that runs: with detail 1 when
it wakes from RETAIN, and with 0 when its image is accepted and K0 has released the cores. -/
def Obligations.AsynchronousEntriesAndWakes : Prop :=
  ∀ (c : CoreId) (s : State),
    (s.hw.coreRuns c.val = true → ∀ t : Tid,
      let x := s.hw.thr c t
      (∀ e : Exc, x.atBoundary = true → s.hw.dueHere c t = some e →
        let u := s.leaves ((s.hw.takeEvent c t e).endStep c t)
        (e.cause = 18 → s.hw.waitTakes c t = false → exec (.intrEntry c t) s = u) ∧
        (∀ h', s.hw.waitTakes c t = true → s.hw.waitMet c t = some h' → exec (.intrEntry c t) s = s.leaves h') ∧
        (e.cause = 20 → t = 0 → exec (.threadfEntry c) s = u) ∧ (e.cause = 15 → exec (.dmaEntry c t) s = u) ∧
        (x.arrayEcc ≠ none → exec (.arrayParityEntry c t) s = u)) ∧
      ∀ (rd : Reg) (m : W32), s.hw.otherDue c t = false →
        let wakes (h : Hw) := exec (.threadWake c t) s = s.leaves (h.complete c t fun h => .ok h .seq)
        (x.evPend &&& m ≠ 0 →
          let h := (s.hw.updT c t fun x => { x with evPend := x.evPend &&& ~~~(x.evPend &&& m) }).wrG c t rd
            ⟨.int, (x.evPend &&& m).setWidth 64⟩
          (x.state = .waitEv → x.wait = .wfe rd m → wakes h) ∧
          (x.state = .waitEv → x.wait = .mwait rd m → s.hw.dispatchRing c t = none → wakes h) ∧
          ∀ cad target, x.state = .waitCnt → x.wait = .waitc cad rd target m → wakes h) ∧
        ∀ cad target, x.evPend &&& m = 0 → x.state = .waitCnt → x.wait = .waitc cad rd target m →
          s.hw.reached c cad target = true → wakes (s.hw.wrG c t rd ⟨.int, 0⟩)) ∧
    (s.hw.stalled c = true → s.hw.cpg c.val 0x064 ≠ 0 →
      (s.hw.cpg c.val 0x064).toNat ≤ (s.hw.core c.val).stallCnt.toNat →
      exec (.stallEntry c) s = s.leaves ((s.hw.updC c.val fun k => { k with stallCnt := 0 }).enter c 0
        ⟨19, (s.hw.core c.val).threadState.setWidth 16, none⟩ ((s.hw.core c.val).thr 0).pc)) ∧
    (s.hw.mayRun c.val = true → (s.hw.die (dieOf c.val)).sleep = .run →
      (s.hw.pwr c.val = 4 → exec (.startEntry c) s = s.leaves (s.hw.start c.val 1)) ∧
      (s.hw.pwr c.val = 0 → s.hw.boot c.val = 2 →
        (fld (s.hw.pg 39 0x012 0x040) 31 28 = 1 ∨ fld (s.hw.pg 39 0x012 0x040) 31 28 = 2) →
        exec (.startEntry c) s = s.leaves (s.hw.start c.val 0)))

/-- In a core that runs: a thread in RUN (not held at an accumulator instruction), or in a wait that can be
abandoned, with a STOP or a halt request to land and no entry due halts in HALT_STOP or HALT_DBG by STOP_HALT or
DEBUG_HALT, its wait abandoned. By page write on an open page of an awake die, of a core that is neither in RETAIN
nor held in reset: DBG_CTL.halt_req takes its bits, and a thread in HALT_DBG runs again when its bit falls and else
stays; step lets a thread in HALT_DBG run one step; discard_cb closes a halted thread's composition. A delayed access
is counted in BANK_CNT and shown in BANK_LAST; with bank_trap, that of a scalar or vector instruction takes its
thread, in RUN or stopped by a halt behind that instruction, into BANK with the PC as return address, unless it is in
the middle of a REP.N. -/
def Obligations.HaltsAndDebuggerSteps : Prop :=
  ∀ (c : CoreId) (t : Tid) (s : State),
    let x := s.hw.thr c t
    (s.hw.coreRuns c.val = true → x.atBoundary = true → s.hw.dueEvent c t = none →
      (s.hw.haltDue c t = some .haltStop → exec (.stopHalt c t) s = s.leaves (s.hw.landHalt c t .haltStop)) ∧
      (s.hw.haltDue c t = some .haltDbg → exec (.debugHalt c t) s = s.leaves (s.hw.landHalt c t .haltDbg))) ∧
    (s.pageOpen (dieOf c.val) (siteIx c.val) → s.hw.noneHeld c.val = false →
      (∀ bits, ∃ h, exec (.haltReq c bits) s = s.leaves h ∧ fld (h.cpg c.val 0x074) 3 0 = bits.toNat ∧
        (x.state = .haltDbg → (h.thr c t).state =
          if (s.hw.cpg c.val 0x074).getLsbD t.val = true ∧ bits.getLsbD t.val = false then .run else .haltDbg)) ∧
      (x.state = .haltDbg → exec (.step c t) s =
        s.leaves (s.hw.updT c t fun x => { x with state := .run, stepping := true })) ∧
      (x.state.halted = true → exec (.discardCb c t) s = s.leaves (s.hw.closeComp c t))) ∧
    ∀ d : Delayed, d.thread = t →
      let h := (s.hw.updCpg c.val 0x094 fun v => satAdd 32 v 1).setCpg c.val 0x098
        (pack 32 [(16, d.laddr.toNat / 64 % 24), (8, d.loser.val), (0, d.winner.val)])
      let g := (h.enter c t
        ⟨7, pack 16 [(8, d.laddr.toNat / 64 % 24), (4, min d.delay 15), (0, d.winner.val)], some (d.laddr.setWidth 64)⟩ x.pc).endStep c t
      ((s.hw.cpg c.val 0x040).getLsbD 6 = false → exec (.delayedAccessServed c d) s = s.leaves h) ∧
      ((s.hw.cpg c.val 0x040).getLsbD 6 = true → d.loser = 1 ∨ d.loser = 2 → s.hw.coreRuns c.val = true →
        x.bankDue = none → s.hw.midN c t = false →
        (x.state = .run → x.wait.isHeld = false → exec (.delayedAccessServed c d) s = s.leaves g) ∧
        (x.state = .haltStop ∨ x.state = .haltDbg → exec (.delayedAccessServed c d) s =
          s.leaves (g.updT c t fun y => { y with state := x.state })))

/-- An answer to a read or an acknowledgement that the core expects, with nothing holding it on its way, leaves the
network and drops the outstanding request; a read's data joins what the thread has received, an error waits for the
thread, and the threads that wait for memory try again. TILE_ROW_DONE does the same for an answer for which a tile
transfer waits. A line fill without error, no injection armed, puts its line into the cache with no dirty byte, in an
invalid way or in place of the way's line, which is written back first when it is dirty and a write-back slot is
free; one with an error leaves it to the thread. A request with no trace left in the mesh or at a memory ends by the
time-out with error kind 5. -/
def Obligations.GlobalAnswersReachCores : Prop :=
  ∀ (c : CoreId) (id : Nat) (s : State),
    (∀ (r : MRsp) (h : Hw) (o : OutReq), s.hw.takeRsp c id = some (r, h) → (s.hw.core c.val).out id = some o →
      o.kind.isFill = false →
      let u := s.leaves (((h.dropOut c id).updT c o.thread fun x =>
        { x with resp := if o.kind = .read then some (x.resp.getD [] ++ r.data) else x.resp
                 respErr := r.err <|> x.respErr }).retryAll c)
      exec (.globalResponse c id) s = u ∧
      (∀ op f row cfg n, (s.hw.thr c o.thread).pend = some (.tile op f row cfg n) → exec (.tileRowDone c id) s = u)) ∧
    (∀ (r : MRsp) (h : Hw) (o : OutReq) (pl : Nat) (way : Fin 4), s.hw.takeRsp c id = some (r, h) →
      (s.hw.core c.val).out id = some o → o.kind = .fill pl →
      let w := (s.hw.core c.val).fillWay pl way
      let victim (l : DLine) : Bool := decide (l.pline % 128 = pl % 128) && l.way == w
      let lands (h : Hw) := exec (.dataCacheFill c id way) s = s.leaves (((h.dropOut c id).updC c.val fun k => k.dcPut
        { pline := pl, way := w, bytes := sub r.data 0 128, dirty := 0 }).retryAll c)
      (∀ e, r.err = some e → exec (.dataCacheFill c id way) s = s.leaves
        (((h.dropOut c id).updT c o.thread fun x => { x with respErr := some e }).retryAll c)) ∧
      (r.err = none → s.hw.calm →
        (∀ l ∈ (s.hw.core c.val).dcache, victim l = true → l.dirty = 0) → lands h) ∧
      (∀ l, r.err = none → s.hw.calm → (s.hw.core c.val).dcache.find? victim = some l → l.dirty ≠ 0 →
        (s.hw.core c.val).wbacks < 8 → lands (h.writeBack c o.thread l (decide (2 ≤ l.bad.toNat))))) ∧
    (∀ o, s.hw.reqs.any (fun r => r.id == id) = false → s.hw.rsps.any (fun r => r.id == id) = false →
      (s.hw.mems.any fun m => m.2.combines.any fun w => (w.joined ++ w.held ++ w.queued).any fun r => r.id == id) = false →
      s.hw.cores.find? (fun p => (p.2.out id).isSome) = some (c.val, s.hw.core c.val) → (s.hw.core c.val).out id = some o →
      exec (.requestTimeout id) s =
        s.leaves (((s.hw.dropOut c id).updT c o.thread fun x => { x with respErr := some 5 }).retryAll c))

/-- A CAD_REQ joins the requests of its leaf. When the first of them reaches the root, one of the starter that
CAD_ROOT_CTL names, at the leaf of its own die, raises pending and the count of accepted requests, or waits while
pending is 65,535; any other is counted and recorded with reason 5; a channel's signal is then over. CAD_FW_BEAT is
accepted where src is 0, waits while pending is full, and is refused where src is not 0. BEAT_ISSUE, with a beat
pending, no hold and no STANDBY, adds 1 to the root count, takes one from pending (which a waiting firmware request
then joins) and sends the count to every leaf in step. A BEAT, when no leaf lags, nothing that an applied beat
launches is still to start and nothing is staged, sets the die's count and, on a compute die, strikes its beat
events. CAD_EVT of a core that is neither in RETAIN nor held takes its fields, or refuses an enabled bit outside
16-30. A leaf that the root holds for takes a running neighbour's count, or the root's when no leaf runs, once every
beat issued has been applied; the hold for it ends. -/
def Obligations.CadenceBeats : Prop :=
  ∀ (s : State),
    (∀ u, exec (.cadReq u) s = s.leaves (s.hw.updDie (beatDie u) fun x => { x with beatReqs := x.beatReqs ++ [u] })) ∧
    (fld (s.hw.pg 39 cadBlk 0x040) 31 30 = 0 → s.hw.k0.pendingBeats < 65535 →
      exec .cadFwBeat s = s.leaves (s.hw.updK fun k => { k with pendingBeats := k.pendingBeats + 1, accepted := k.accepted + 1 })) ∧
    (fld (s.hw.pg 39 cadBlk 0x040) 31 30 = 0 → 65535 ≤ s.hw.k0.pendingBeats →
      exec .cadFwBeat s = s.leaves (s.hw.updK fun k => { k with fwWaits := k.fwWaits + 1 })) ∧
    (fld (s.hw.pg 39 cadBlk 0x040) 31 30 ≠ 0 → exec .cadFwBeat s =
      s.leaves ((s.hw.updPg 39 cadBlk 0x060 fun v => satAdd 32 v 1).accErr 39 0x111 0x05C 5)) ∧
    (∀ (d : DieId) (u : BeatSrc) (rest : List BeatSrc), (s.hw.die d.val).beatReqs = u :: rest →
      let ctl := s.hw.pg 39 cadBlk 0x040
      let starter : Prop := match u with
        | .core c => fld ctl 31 30 = 1 ∧ fld ctl 15 0 = c.val ∧ dieOf c.val = d.val
        | .chan (.core c n) => fld ctl 31 29 = 4 ∧ fld ctl 15 0 = c.val ∧ fld ctl 20 16 = n.val ∧ dieOf c.val = d.val
        | .chan (.hub e n) => fld ctl 31 29 = 5 ∧ fld ctl 15 0 = e.val * 256 ∧ fld ctl 20 16 = n.val ∧ e.val = d.val
        | .window => False
      let h := (s.hw.updDie d.val fun x => { x with beatReqs := rest }).rootDone u
      (starter → s.hw.k0.pendingBeats < 65535 → exec (.beatRequestArrival d) s =
        s.leaves (h.updK fun k => { k with pendingBeats := k.pendingBeats + 1, accepted := k.accepted + 1 })) ∧
      (starter → 65535 ≤ s.hw.k0.pendingBeats → exec (.beatRequestArrival d) s = s.leaves s.hw) ∧
      (¬starter → exec (.beatRequestArrival d) s =
        s.leaves ((h.updPg 39 cadBlk 0x060 fun v => satAdd 32 v 1).accErr d.val 0x111 0x040 5))) ∧
    (s.hw.k0.pendingBeats ≠ 0 → s.hw.k0.hold = [] → s.hw.seqSt ≠ 4 →
      let n := s.hw.k0.rootCount + 1
      ∃ h, exec .beatIssue s = s.leaves h ∧
        h.k0 = { s.hw.k0 with rootCount := n, lastIssue := some s.hw.now, fwWaits := s.hw.k0.fwWaits - 1
                              pendingBeats := s.hw.k0.pendingBeats - 1 + (if s.hw.k0.fwWaits = 0 then 0 else 1)
                              accepted := s.hw.k0.accepted + (if s.hw.k0.fwWaits = 0 then 0 else 1) } ∧
        h.regs = s.hw.regs ∧ h.cores = s.hw.cores ∧ ∀ d : DieId, h.die d.val =
          if (s.hw.die d.val).sync then { s.hw.die d.val with due := (s.hw.die d.val).due ++ [n] } else s.hw.die d.val) ∧
    (∀ (d : DieId) (n : BitVec 48) (rest : List (BitVec 48)), (s.hw.die d.val).due = n :: rest → s.hw.lagging n = false →
      s.hw.launchDue = false →
      (∀ p ∈ s.hw.cores, p.2.frStaged = []) → (∀ p ∈ s.hw.engines, p.2.frStaged = []) → s.hw.svcStaged d.val = [] →
      let h := s.hw.updDie d.val fun x => { x with due := rest, count := n }
      exec (.beat d) s = s.leaves (if d.val < 20 then h.beatEvents d.val n else h)) ∧
    (∀ (c : CoreId) (v : W32), s.pageOpen (dieOf c.val) (siteIx c.val) → s.hw.noneHeld c.val = false →
      (v.getLsbD 31 = true ∧ ¬(16 ≤ fld v 4 0 ∧ fld v 4 0 ≤ 30) →
        exec (.cadEvtWrite c v) s = s.leaves (s.hw.accErr (dieOf c.val) (siteIx c.val) 0x190 3)) ∧
      (¬(v.getLsbD 31 = true ∧ ¬(16 ≤ fld v 4 0 ∧ fld v 4 0 ≤ 30)) →
        exec (.cadEvtWrite c v) s = s.leaves (s.hw.setCpg c.val 0x190 (v &&& 0x8000F19F)))) ∧
    ∀ (d : DieId) (nb : Option DieId), s.hw.k0.hold.contains d = true → (∀ p ∈ s.hw.dies, p.2.due = []) →
      (match nb with
       | some n => (s.hw.die n.val).sync = true
       | none => ∀ e : DieId, (s.hw.die e.val).sync = false) →
      ∃ h, exec (.leafRejoin d nb) s = s.leaves h ∧ (h.die d.val).sync = true ∧
        (h.die d.val).count = (match nb with | some n => (s.hw.die n.val).count | none => s.hw.k0.rootCount) ∧
        h.k0.hold = s.hw.k0.hold.filter (fun x => x != d) ∧ h.k0.rootCount = s.hw.k0.rootCount ∧
        ∀ e : DieId, e ≠ d → h.die e.val = s.hw.die e.val

/-- At the turn of a READY channel of a running engine whose 32 bytes at the index are read, a hub's MOVE finding
buffer slots: a MOVE whose rows are all read and written goes on (source rows before any destination row where it
transposes, words from the old or the new source where they overlap), one row from local to local memory with no
overlap as exactly the bytes copied and counted, and one that is refused stops the channel with its reason. LOOP
jumps back while its count is below n, and ends behind it. Each WAIT goes on when its condition holds, with a
relative target counted from the previous one of its kind, else the channel waits. SIGNAL SEV sets a bit of its own
core at once and sends an EVENT to another; SIGNAL CNT adds to the counter of an awake die; SIGNAL MSG sends its
message when the credit is there, waits for it, or retries; SIGNAL BEAT asks its leaf and waits for the root; SIGNAL
CHEV sets bits of a channel of its engine. END leaves the channel DONE with its completion event, and starts the one
channel that is chained to it, or notes its overrun. -/
def Obligations.DmaPrograms : Prop :=
  ∀ (ch : ChanId) (bs : List Byte) (h : Hw) (s : State), s.fetches ch bs h →
    (dop bs = 1 →
      (∀ (m : Move) (g : Hw), h.moveOf ch bs = .ok m →
        let rows := List.range m.rows
        let overlap := rows.any fun (r : Nat) => m.touched (m.src.shift (r * m.ss)) m.rb
        (overlap = false → m.tr = false → h.moveRows ch m rows = (g, none) → exec (.moveOp ch) s = s.leaves (g.goesOn ch)) ∧
        (∀ g' read, overlap = false → m.tr = true → h.readRows ch m rows [] = (g', .ok read) →
          g'.writeRows ch m ((List.range m.elems).map fun c => (c, transRow m.conv m.es c read)) = (g, none) →
          exec (.moveOp ch) s = s.leaves (g.goesOn ch)) ∧
        (overlap = true → let parts := List.range m.parts
          Hw.overlapGo (h.choose 2).2 ch m (if (h.choose 2).1 = 0 then parts else parts.reverse) (h.choose 2).2 = (g, none) →
          exec (.moveOp ch) s = s.leaves (g.goesOn ch))) ∧
      (∀ (m : Move) (c c' a b : Nat), h.moveOf ch bs = .ok m → m.tr = false → m.conv = 0 → m.rows = 1 →
        m.src = .loc c (a : Int) → m.dst = .loc c' (b : Int) → m.touched m.src m.rb = false → a + m.rb ≤ localTop →
        b + m.rb ≤ localTop → (h.core c).lmErr a m.rb < 2 → ((h.ch ch).priv = true ∨ h.guardTop c' ≤ b) →
        let g := h.lmScrub c a m.rb
        (g.ch ch).priv = (h.ch ch).priv → g.guardTop c' = h.guardTop c' →
        exec (.moveOp ch) s = s.leaves (((g.lmWrite c' b ((h.core c).lmem.readN a m.rb)).updCh ch fun x =>
          { x with bytes := x.bytes + BitVec.ofNat 32 m.rb }).goesOn ch)) ∧
      (∀ e, h.moveOf ch bs = .error e → exec (.moveOp ch) s = s.leaves (h.chFail ch e))) ∧
    (dop bs = 2 →
      let l := fld (dw bs 0) 27 26
      let t := fld (dw bs 0) 15 8
      let n := leAt bs 4 4
      fld (dw bs 0) 25 16 = 0 → fld (dw bs 0) 7 0 = 0 → 1 ≤ n → n ≤ 65535 → t < (h.ch ch).index → leAt bs 16 16 = 0 →
      ((h.ch ch).i.getD l 0 + 1 < n → exec (.loopOp ch) s = s.leaves ((h.updCh ch fun x =>
        { x with i := x.i.set l (x.i.getD l 0 + 1)
                 body := x.body.set l (some (t, x.index, (dw bs 8).toInt, (dw bs 12).toInt)) }).updCh ch fun x =>
          { x with state := .ready, wait := .none, index := t })) ∧
      (n ≤ (h.ch ch).i.getD l 0 + 1 → exec (.loopOp ch) s = s.leaves ((h.updCh ch fun x =>
        { x with i := x.i.set l 0, body := x.body.set l none }).goesOn ch))) ∧
    (dop bs = 3 → fld (dw bs 0) 22 21 = 0 → fld (dw bs 0) 15 8 = 0 → leAt bs 4 4 = 0 → leAt bs 16 16 = 0 →
      let v := dq bs 8
      let x := h.ch ch
      let rel := (dw bs 0).getLsbD 23
      (dkind bs = 0 → rel = false → v = 0 → let m := h.chEv ch (chanNo ch) &&& BitVec.ofNat 32 (fld (dw bs 0) 7 0)
        s.dmaWaits (.waitChev ch) ch h
          (if m = 0 then none else some (h.setChEv ch (chanNo ch) (h.chEv ch (chanNo ch) &&& ~~~m)))
          (.chev (BitVec.ofNat 8 (fld (dw bs 0) 7 0)))) ∧
      (dkind bs = 1 → let t := if rel then x.relBeat.getD x.beat0 + v.setWidth 48 else v.setWidth 48
        let g := h.updCh ch fun x => { x with relBeat := some t }
        s.dmaWaits (.waitBeat ch) ch g (if ((h.die (chanDie ch)).count - t).toNat < 2 ^ 47 then some g else none) (.beat t)) ∧
      (dkind bs = 2 → let j := fld (dw bs 0) 20 16
        j < counters ch →
        let t := if rel then lookD x.relCnt j (lookD x.cnt0 j 0) + v.setWidth 32 else v.setWidth 32
        let g := h.updCh ch fun x => { x with relCnt := put x.relCnt j t }
        s.dmaWaits (.waitCnt ch) ch g (if (h.chCnt ch j - t).toNat < 2 ^ 31 then some g else none) (.cnt j t)) ∧
      (dkind bs = 3 → let t := if rel then x.relTimer + v.setWidth 32 else v.setWidth 32
        let g := h.updCh ch fun x => { x with relTimer := t }
        s.dmaWaits (.waitTimer ch) ch g (if (x.timer - t).toNat < 2 ^ 31 then some g else none) (.timer t))) ∧
    (dop bs = 4 → signalOk bs = true →
      let a := dq bs 8
      let src := match ch with | .core c _ => coreIdW c | .hub d _ => srcOf d.val 0x101
      (∀ c : CoreId, dkind bs = 0 → eventHandle a = true → fld a 15 0 = c.val →
        (∀ n, ch = .core c n → exec (.signalSev ch) s =
          s.leaves ((h.setEv c (tidOf (fld a 25 24)) (fld a 30 26)).goesOn ch)) ∧
        ((∀ n, ch ≠ .core c n) → ∃ b : Fin 32, b.val = fld a 30 26 ∧ exec (.signalSev ch) s = s.leaves ((h.send
          { q := .msg, src := src, dest := coreIdW c, body := .event (tidOf (fld a 25 24)) b }).goesOn ch))) ∧
      (dkind bs = 1 → ∀ p, h.dmaXlate ch .write a.toNat = .ok p →
        (∀ (c : CoreId) (j : Fin 8), h.awake (dieOf c.val) = true →
          p = regBase + c.val / 256 * 2 ^ 24 + c.val % 256 * 2 ^ 12 + 0x1E0 + 4 * j.val →
          exec (.signalCnt ch) s = s.leaves ((h.cntInc c.val j.val (dw bs 0x10)).goesOn ch)) ∧
        (∀ (d : Fin 36) (j : Fin 16), h.awake d.val = true → p = regBase + d.val * 2 ^ 24 + 0x101 * 2 ^ 12 + 0x0C0 + 4 * j.val →
          exec (.signalCnt ch) s = s.leaves ((h.hubCntInc d.val j.val (dw bs 0x10)).goesOn ch))) ∧
      (dkind bs = 2 → ∀ (g g' : Hw) (m : Msg), h.signalMessage ch bs = (g, .ok m) →
        (g.hubSpend ch m.dest m.ring m.n = .spent g' → exec (.signalMsg ch) s = s.leaves ((g'.send
          { q := .msg, src := src, dest := m.dest, body := .message m }).goesOn ch)) ∧
        (g.hubSpend ch m.dest m.ring m.n = .wait g' →
          exec (.signalMsg ch) s = s.leaves (g'.holds ch (.credit m.dest m.ring))) ∧
        (g.hubSpend ch m.dest m.ring m.n = .again g' → exec (.signalMsg ch) s = s.leaves (g'.holds ch .retry))) ∧
      (dkind bs = 3 → exec (.signalBeat ch) s = s.leaves ((h.cadReq (chanDie ch) (.chan ch)).updCh ch fun x =>
        { x with state := .run, wait := .root })) ∧
      (dkind bs = 4 → a.toNat < chCount ch → exec (.signalChev ch) s = s.leaves ((h.setChEv ch a.toNat
        (h.chEv ch a.toNat ||| BitVec.ofNat 32 (fld (dw bs 0) 7 0))).goesOn ch))) ∧
    (leNat (sub bs 0 32) = 0xF0000000 → dop bs = 15 →
      let ended (g : Hw) := g.updCh ch fun x => { x with state := .done, wait := .none }
      let told := match chEvent ch (h.chCtl ch), ch with
        | some (t, b), .core c _ => (ended h).setEv c t b
        | some (t, b), .hub d _ => (ended h).send
            { q := .msg, src := srcOf d.val 0x101, dest := BitVec.ofNat 16 (h.ch ch).home
              body := .event t ⟨b % 32, Nat.mod_lt _ (by decide)⟩ }
        | none, _ => ended h
      let chained (n : Nat) : Prop := chStartMode (h.chCtl (chSib ch n)) = 1 ∧ chainSrc ch (h.chCtl (chSib ch n)) = chanNo ch
      ((∀ n < chCount ch, ¬chained n) → exec (.endOp ch) s = s.leaves (ended told)) ∧
      ∀ n < chCount ch, chained n → (∀ m < chCount ch, m ≠ n → ¬chained m) → n ≠ chanNo ch →
        let o := chSib ch n
        exec (.endOp ch) s = s.leaves (ended ((told.chStart o (h.ch ch).priv (h.ch ch).owner (told.chProg o)).getD (told.overrun o))))

/-- On a ready slot with accepted operands: DMASTART starts a free slot with the thread's rights and writes 0 to rd,
and of a busy one writes 1; DMASTAT reads the slot's status; DMAKILL of a slot that the thread's mode may kill kills
it. A free channel of a running engine, a hub's in service, starts READY at index 0 with supervisor rights and thread
0, and CHANNEL_GO on an open page starts it, or is refused with reason 4 where the channel is busy. CHANNEL_KILL puts
a channel that is READY, RUN or WAIT into KILLING with a record entry, and leaves any other. KILL_COMPLETE of a
KILLING channel leaves it KILLED, reason 7, its bytes raised by a multiple of 8, and unchanged where no MOVE was
under way. PERIOD_START in period mode after a software start starts a free channel and notes the overrun of a busy
slot. DMA_CNT_INC and HUB_CNT_INC add to an open page's counter. HUB_RECLAIM frees every orphan of a hub with no
channel READY, RUN or WAIT, and is refused with reason 4 otherwise. DMA_WAIT_MET lets a running engine's channel
whose condition holds go on, and DMA_MSG_RETRY makes a retrying channel READY. -/
def Obligations.DmaChannels : Prop :=
  ∀ (ch : ChanId) (s : State),
    let x := s.hw.ch ch
    let isOpen := s.pageOpen (chanDie ch) (chanBlk ch) ∧ ∀ c n, ch = .core c n → s.hw.noneHeld c.val = false
    (∀ (c : CoreId) (t : Tid) (f : RF) (n : Fin 4), s.hw.slotReady c t 4 = true →
      ((s.reg c t f.ra).tag = .laddr → (s.reg c t f.ra).val.toNat % 32 = 0 → (s.reg c t f.rb).tag.isInt = true →
        (s.reg c t f.rb).val.toNat = n.val → let h := s.hw.begun c t
        (∀ h', h.chSoft (.core c n) (s.super c t) t (s.reg c t f.ra).val.toNat = some h' →
          exec (.dmastart c t f) s = s.did c t 4 (h'.wrG c t f.rd ⟨.int, 0⟩)) ∧
        ((h.ch (.core c n)).idles = false → exec (.dmastart c t f) s = s.did c t 4 (h.wrG c t f.rd ⟨.int, 1⟩))) ∧
      (f.rb = 0 → (s.reg c t f.ra).tag.isInt = true → (s.reg c t f.ra).val.toNat = n.val →
        exec (.dmastat c t f) s = s.did c t 4 ((s.hw.begun c t).wrG c t f.rd
          ⟨.int, ((s.hw.ch (.core c n)).stat false).setWidth 64⟩)) ∧
      (f.rd = 0 → f.rb = 0 → (s.reg c t f.ra).tag.isInt = true → (s.reg c t f.ra).val.toNat = n.val →
        (s.super c t = true ∨ (s.hw.ch (.core c n)).priv = false) →
        exec (.dmakill c t f) s = s.did c t 4 ((s.hw.begun c t).chKill (.core c n)))) ∧
    (x.idles = true → s.hw.chAwake ch = true → (chHub ch = true → s.hw.svc (chanDie ch) 0x101 = 0) → ∃ h,
      s.hw.chSoft ch true 0 (s.hw.chProg ch) = some h ∧ (h.ch ch).state = .ready ∧ (h.ch ch).index = 0 ∧
      (h.ch ch).prog = s.hw.chProg ch ∧ (h.ch ch).priv = true ∧ (h.ch ch).owner = 0 ∧ (h.ch ch).bytes = 0 ∧
      (h.ch ch).started = true ∧ (isOpen → exec (.channelGo ch) s = s.leaves h)) ∧
    (isOpen →
      (x.idles = false →
        exec (.channelGo ch) s = s.leaves (s.hw.accErr (chanDie ch) (chanBlk ch) (0x200 + 32 * chanNo ch) 4)) ∧
      (x.state = .ready ∨ x.state = .run ∨ x.state = .wait →
        exec (.channelKill ch) s = s.leaves ((s.hw.updCh ch fun x => { x with state := .killing, wait := .none }).pf 0x14
          (chanDie ch) (chanBlk ch) (pack 32 [(31, (chHub ch).toNat), (0, chanNo ch)]) x.bytes)) ∧
      (x.idles = true ∨ x.state = .killing → exec (.channelKill ch) s = s.leaves s.hw)) ∧
    (∀ k, x.state = .killing → ∃ h, exec (.killComplete ch k) s = s.leaves h ∧ (h.ch ch).state = .killed ∧
      (h.ch ch).reason = 7 ∧ ((h.ch ch).bytes - x.bytes).toNat % 8 = 0 ∧ (s.hw.killedMove ch = none → (h.ch ch).bytes = x.bytes)) ∧
    (chStartMode (s.hw.chCtl ch) = 2 → s.hw.chReg ch (if chHub ch then 0x14 else 0x10) ≠ 0 → x.started = true →
      (∀ h, s.hw.chStart ch x.swPriv x.swOwner (s.hw.chProg ch) = some h → exec (.periodStart ch) s = s.leaves h) ∧
      (s.hw.chAwake ch = true → x.idles = false → exec (.periodStart ch) s = s.leaves (s.hw.overrun ch))) ∧
    (∀ (c : CoreId) (j : Fin 8) (v : W32), s.pageOpen (dieOf c.val) (siteIx c.val) → s.hw.noneHeld c.val = false →
      exec (.dmaCntInc c j v) s = s.leaves (s.hw.updCpg c.val (0x1C0 + 4 * j.val) fun x => x + v)) ∧
    (∀ (d : Fin 36), s.pageOpen d.val 0x101 →
      let runs (n : Fin 32) : Prop := let st := (s.hw.ch (.hub d n)).state; st = .ready ∨ st = .run ∨ st = .wait
      (∀ (j : Fin 16) v, exec (.hubCntInc d j v) s = s.leaves (s.hw.updPg d.val 0x101 (0x080 + 4 * j.val) fun x => x + v)) ∧
      ((∀ n, ¬runs n) → exec (.hubReclaim d) s = s.leaves (s.hw.updDie d.val fun x => { x with orphans := 0 })) ∧
      (∀ n, runs n → exec (.hubReclaim d) s = s.leaves (s.hw.accErr d.val 0x101 0x040 4))) ∧
    (x.state = .wait →
      (s.hw.chAwake ch = true →
        (∀ t, x.wait = .beat t → ((s.hw.die (chanDie ch)).count - t).toNat < 2 ^ 47 →
          exec (.dmaWaitMet ch) s = s.leaves (s.hw.goesOn ch)) ∧
        (∀ j t, x.wait = .cnt j t → (s.hw.chCnt ch j - t).toNat < 2 ^ 31 →
          exec (.dmaWaitMet ch) s = s.leaves (s.hw.goesOn ch)) ∧
        (∀ t, x.wait = .timer t → (x.timer - t).toNat < 2 ^ 31 → exec (.dmaWaitMet ch) s = s.leaves (s.hw.goesOn ch)) ∧
        ∀ m : BitVec 8, x.wait = .chev m → let v := s.hw.chEv ch (chanNo ch)
          v &&& m.setWidth 32 ≠ 0 → exec (.dmaWaitMet ch) s =
            s.leaves ((s.hw.setChEv ch (chanNo ch) (v &&& ~~~(v &&& m.setWidth 32))).goesOn ch)) ∧
      (x.wait = .retry → exec (.dmaMsgRetry ch) s = s.leaves (s.hw.updCh ch fun x =>
        { x with state := .ready, wait := .none })))

/-- With an accepted job at the head of an enabled idle engine that is awake and not DEAD, whose memory accesses
succeed: GEMV gives each x with each row of W the sum of R186; ATTN the records that the model's arithmetic of R245
and R246 gives for its queries (an exponential within 2 ulp, which one is free, log 9); GATHER the rows that its
indices name, up to the first that is out of range, which gives status BAD_INDEX; REDUCE the FP32 sum of its FP32 or
BF16 sources in order; COPY writes the bytes it read; FILL the pattern. The result goes into replies or to memory,
with status OK and a duration by R254 (log 97). A job that the start check refuses ends with that status and no data.
JOB_REPLY sends the first reply, NORMAL or on a valid fixed route, when the engine's credit suffices, and asks for
the rest when not; a reply on a route that is not valid is given up (log 21); behind the last one the job ends.
JASPER_ABORT on an open page discards every job and frees the ring; a running one is counted as done, with status
ABORTED in JSP_LAST_ERR and the time it ran, which is open, in JSP_BUSY_CNT. A write of JSP_CTL.en on an open page is
taken. -/
def Obligations.JasperJobs : Prop :=
  ∀ (e : Eng) (s : State),
    let x := s.hw.eng e.val
    (∀ d, s.startable e d →
      let al := s.hw.streamAlloc e d
      (jtype d = 1 → ∀ (h1 h2 h3 : Hw) (xs ws ss : List (List Byte)), let n := jw d 0x34
        let k := jw d 0x38
        let j := jw d 0x3C % 16
        s.hw.engReads e true ((List.range j).map fun i => (ja d 0x20 + 2 * i * k, 2 * k)) [] = (h1, .ok xs) →
        h1.engReads e al ((List.range n).map fun i => (ja d 0x10 + i * jw d 0x30, k / 2)) [] = (h2, .ok ws) →
        h2.engReads e al ((List.range n).map fun i => (ja d 0x18 + i * (k / 32), k / 32)) [] = (h3, .ok ss) →
        s.jobGives (.gemv e) e d { h3 with free := h3.free + j * n * (k / 32) }
          (((xs.zipIdx.map fun x => ((ws.zip ss).zipIdx.map fun w => outBytes (gemvOut d)
            (blockSum (h3.free + (x.2 * n + w.2) * (k / 32)) ((mxRow w.1.1 w.1.2 k).zip (elems bf16 x.1)))).flatten)).flatten)) ∧
      (jtype d = 2 → ∀ h' data, s.hw.attnJob e d = (h', data, 0) → s.jobGives (.attn e) e d h' data) ∧
      (jtype d = 3 → ∀ (h1 h2 : Hw) (bs data : List Byte),
        s.hw.engRead e true (ja d 0x18) (4 * jw d 0x30) = (h1, .ok bs) →
        let idx := (List.range (jw d 0x30)).map fun i => sgn 32 (leAt bs (4 * i) 4)
        let good := idx.takeWhile fun i => decide (0 ≤ i ∧ i < (jw d 0x34 : Int))
        let regs := good.map fun i => (ja d 0x10 + i.toNat * jw d 0x28, jw d 0x38)
        regs.all (fun r => h1.homeRegion e r) = true → h1.engPrefix e (h1.streamAlloc e d) regs [] = (h2, data, 0) →
        s.jobGives (.gather e) e d h2 data (decide (good.length < idx.length))) ∧
      (jtype d = 4 → ∀ (h' : Hw) (srcs : List (List Byte)), let n := jw d 0x30
        let val (b : List Byte) (i : Nat) : Nat :=
          if reduceIn d = 2 then (convert bf16 fp32 0 false (leAt b (i * 2) 2)).1 else leAt b (i * 4) 4
        s.hw.engReads e al ((List.range (jw d 0x34)).map fun i => (ja d 0x10 + i * jw d 0x18, n * reduceIn d)) [] = (h', .ok srcs) →
        s.jobGives (.reduce e) e d h' (((List.range n).map fun i =>
          match srcs.map fun b => val b i with
          | [] => outBytes (reduceOut d) 0
          | v :: vs => outBytes (reduceOut d) (vs.foldl f32add v)).flatten)) ∧
      (jtype d = 5 → ∀ (h1 h2 : Hw) (bs : List Byte), s.hw.engRead e al (ja d 0x10) (ja d 0x20) = (h1, .ok bs) →
        h1.engWrite e (ja d 0x18) bs = (h2, 0) → s.jobGives (.copyOp e) e d h2 []) ∧
      (jtype d = 6 → ∀ h', s.hw.engWrite e (ja d 0x10) (List.replicate (ja d 0x20 / 8) (sub d 0x18 8)).flatten = (h', 0) →
        s.jobGives (.fill e) e d h' [])) ∧
    (∀ d, s.offered e d → s.hw.jobCheck e d ≠ 0 →
      ∀ p ∈ [(1, Instr.gemv e), (2, .attn e), (3, .gather e), (4, .reduce e), (5, .copyOp e), (6, .fill e)], jtype d = p.1 →
        exec p.2 s = s.leaves (s.hw.jobLeft e d [] (s.hw.jobCheck e d) (s.hw.die (engDie e)).count.toNat)) ∧
    (∀ (r : Reply) (rs : List Reply), x.replies = r :: rs →
      let m := match r.route with
        | some n => fixedMsg (engId e) r.dest r.ring r.n r.tag n r.bytes
        | none => normalMsg (engId e) r.dest r.ring r.n r.tag (List.replicate 48 0 ++ r.bytes)
      let spend := tableSpend x.credits r.dest r.ring (if r.route.isSome then r.n + 1 else r.n)
      let valid (n : Nat) := (s.hw.engPg e (0x060 + 4 * n)).getLsbD 31
      ((∀ n, r.route = some n → valid n = true) →
        (∀ t, spend = .ok t → exec (.jobReply e) s = s.leaves
          (((s.hw.updEng e fun x => { x with credits := t }).send { q := if r.route.isSome then .fix else .msg, src := engId e
                                                                    dest := r.dest, body := .message m }).replyGone e)) ∧
        (∀ t need, spend = .error (t, need) → let h := s.hw.updEng e fun x => { x with credits := t }
          exec (.jobReply e) s = s.leaves (if need = 0 then h else h.askCredit (.eng e) r.dest r.ring need 0))) ∧
      (∀ n, r.route = some n → valid n = false → exec (.jobReply e) s = s.leaves (s.hw.replyGone e))) ∧
    (∀ (h : Hw) (r : Reply) (rs : List Reply), (h.eng e.val).replies = r :: rs →
      h.replyGone e = if rs = [] then h.jobEnds e else h.updEng e fun x => { x with replies := rs }) ∧
    (s.pageOpen (engDie e) (engBlk e) →
      (∀ en, exec (.jasperEnWrite e en) s = s.leaves (s.hw.updEngPg e 0x040 fun v => setBit v 0 en)) ∧
      let empties (h : Hw) := exec (.jasperAbort e) s = s.leaves ((h.updEng e fun x =>
        { x with running := false, status := 0, replies := [], duration := 0 }).freed (engId e) 0 fun r =>
          { r with free := r.free + r.occ, occ := 0, ret := r.wr, recs := [] })
      (x.running = false → empties s.hw) ∧
      ∀ d, x.running = true → s.hw.jobHead e = some d →
        let h := (s.hw.setPg (engDie e) (engBlk e) 0x04C (pack 32 [(24, 5), (16, jtype d), (0, leAt d 6 2)])).updEngPg e 0x048
          fun v => v + 1
        empties (({ h with free := h.free + 1 } : Hw).updEngPg e 0x050 fun v => v + (Config.free h.free).setWidth 32))

/-- With no error injection armed, and a request that nothing stands before: MEMORY_READ_ARRIVAL of a GDDR7 line that
hits a good line in the memory-side cache answers its bytes; one that misses opens a window, and one to a line with a
window joins it or queues behind a held write. MEMORY_WRITE_ARRIVAL of part of a cached good line of a ready channel
merges its bytes, makes the line dirty and is acknowledged; behind a window it is held. COMBINE_WINDOW_CLOSE issues
the read; GDDR_FILL_LANDING of a line that is not cached answers its one joined read and caches the line.
GDDR_TRACKING pauses the next channel in turn; TRACKING_PAUSE_END makes it ready and starts a retrain that was
requested; RETRAIN_REQ and CRC_RETRY_THRESHOLD start a retrain of a ready channel when nothing else is pending on the
die; RETRAIN_COMPLETE makes the channel ready, or leaves the device's two channels DEAD. MSC_FLUSH leaves no dirty
line and, of one dirty line, writes its bytes. CXL_ACCESS counts its link replays and reads a line of the device, or
writes a whole one. CXL_REENUM brings up the ports that a device trains on; CXL_PORT_DOWN takes one port down as
DEAD. A read of a register page is answered with the register. -/
def Obligations.MemoryAtItsHome : Prop :=
  ∀ (s : State), s.hw.calm →
    (∀ (r : MReq) (id : Nat), s.mayServe r id → r.id = id → let line := r.addr / 128
      let m := s.hw.home line
      (r.write = false → r.addr < cxlBase → s.hw.awake (20 + m) = true →
        (∀ l, (s.hw.mem m).combine line = none → (s.hw.mem m).poison.contains line = false → s.hw.lineDead line = false →
          (s.hw.mem m).find line = some l → l.bad = 0 → ∃ h, exec (.memoryReadArrival id) s = s.leaves h ∧
            s.hw.answers h r id (sub l.bytes (r.addr % 128) r.len) ∧ h.mems = s.hw.mems ∧ h.gddr = s.hw.gddr) ∧
        ((s.hw.mem m).combine line = none → s.hw.misses line = true → exec (.memoryReadArrival id) s =
          s.leaves ((s.hw.dropReq id).updMem m fun x => { x with combines := x.combines ++
            [{ line := line, issued := decide (fld (gddrPg s.hw m 0x048) 8 0 = 0), joined := [r] }] })) ∧
        (∀ c, (s.hw.mem m).combine line = some c → exec (.memoryReadArrival id) s = s.leaves (if c.held = [] then
          ((s.hw.dropReq id).updMem m fun x => x.setCombine { c with joined := c.joined ++ [r] }).bumpSat (20 + m) 0x010 0x050
          else (s.hw.dropReq id).updMem m fun x => x.setCombine { c with queued := c.queued ++ [r] }))) ∧
      (r.write = false → regBase ≤ r.addr → s.hw.awake (pageOf r.addr).1 = true → let g := s.hw.dropReq id
        exec (.memoryReadArrival id) s = s.leaves { g with rsps := g.rsps ++ [r.answered (leBytes r.len
          (s.hw.pageRead (pageOf r.addr).1 (pageOf r.addr).2.1 (pageOf r.addr).2.2).toNat)] }) ∧
      (∀ (l : MLine) (w : Fin 16), r.write = true → r.addr < cxlBase → s.hw.awake (20 + m) = true →
        s.hw.chanReady line = true → s.hw.lineDead line = false → r.poison = false → r.data.length ≠ 128 →
        (s.hw.mem m).find line = some l → l.bad = 0 → (s.hw.mem m).poison.contains line = false →
        ((s.hw.mem m).combine line = none → ∃ h l', exec (.memoryWriteArrival id w) s = s.leaves h ∧ s.hw.answers h r id [] ∧
          (h.mem m).find line = some l' ∧ l'.bytes = mergeLine line l.bytes r.data ∧ l'.dirty = true ∧ l'.bad = 0) ∧
        (∀ c, (s.hw.mem m).combine line = some c → ∃ h, exec (.memoryWriteArrival id w) s = s.leaves h ∧
          h.mems = ((s.hw.dropReq id).updMem m fun x => x.setCombine { c with issued := true, held := c.held ++ [r] }).mems ∧
          h.reqs = s.hw.reqs.filter (fun x => x.id != id) ∧ h.rsps = s.hw.rsps)) ∧
      (∀ p replays, cxlBase ≤ r.addr → r.addr < regBase → s.hw.awake 38 = true → s.hw.cxlLoc (128 * line - cxlBase) = some p →
        s.hw.cxlRefuses p.1 = false →
        let g := (s.hw.dropReq id).updPg 38 (0x020 + p.1) 0x044 fun v => satAdd 32 v replays
        (r.write = false → s.hw.cxlPoison.contains (cxlKey p) = false → exec (.cxlAccess ⟨id, replays⟩) s =
          s.leaves { g with rsps := g.rsps ++ [r.answered (sub (s.hw.padN (128 * line) (s.hw.cxlMem.readN (cxlKey p) 128))
            (r.addr % 128) r.len)] }) ∧
        (r.write = true → r.data.length = 128 → r.poison = false → exec (.cxlAccess ⟨id, replays⟩) s = s.leaves
          { g with cxlMem := s.hw.cxlMem.writeN (cxlKey p) (s.hw.padN (128 * line) (mergeLine line (List.replicate 128 0) r.data))
                   cxlPoison := s.hw.cxlPoison.filter fun k => k != cxlKey p
                   rsps := g.rsps ++ [r.answered []] }))) ∧
    (∀ (m : Fin 16) (line : Nat) (c : Combine), (s.hw.mem m.val).combine line = some c →
      exec (.combineWindowClose m line) s = s.leaves (s.hw.updMem m.val fun x => x.setCombine { c with issued := true }) ∧
      ∀ (r : MReq) (w : Fin 16), m.val = s.hw.home line → c.issued = true → c.joined = [r] → c.held = [] → c.queued = [] →
        s.hw.chanReady line = true → s.hw.lineDead line = false → (s.hw.mem m.val).find line = none →
        (s.hw.mem m.val).poison.contains line = false →
        ∃ h l, exec (.gddrFillLanding m line w) s = s.leaves h ∧ h.rsps = s.hw.rsps ++
          [r.answered (sub (s.hw.gddrLine line) (r.addr % 128) r.len)] ∧
          (h.mem m.val).combine line = none ∧ (h.mem m.val).find line = some l ∧ l.bytes = s.hw.gddrLine line ∧ l.dirty = false) ∧
    (∀ (m : Fin 16), let x := s.hw.mem m.val
      let asked := (gddrPg s.hw m.val 0x040).setWidth 8
      let retrains := fun (ch : Fin 8) (h : Hw) => (h.setChan m ch.val .retrain).bumpSat (20 + m.val) 0x010 0x058
      (∀ ch : Fin 8, x.paused = false → x.toTrack = some ch.val → x.selfRefresh = false → s.hw.fusedDie (20 + m.val) = false →
        fld (gddrPg s.hw m.val 0x040) 15 8 ≠ 0 → exec (.gddrTracking m ch) s =
          s.leaves (((s.hw.updMem m.val fun x => { x with nextTrack := (ch.val + 1) % 8 }).setChan m ch.val .tracking).bumpSat
            (20 + m.val) 0x010 0x054)) ∧
      (∀ ch : Fin 8, x.chan ch.val = .tracking → x.combines = [] →
        (asked = 0 → exec (.trackingPauseEnd m ch) s = s.leaves (s.hw.setChan m ch.val .ready)) ∧
        (∀ c : Fin 8, (∀ n < 8, n ≠ ch.val → x.chan n = .ready) → asked = BitVec.ofNat 8 (2 ^ c.val) →
          exec (.trackingPauseEnd m ch) s = s.leaves (retrains c (s.hw.setChan m ch.val .ready)))) ∧
      (∀ ch : Fin 8, x.paused = false → x.chan ch.val = .ready → s.hw.fusedDie (20 + m.val) = false → asked = 0 →
        let go := fun h : Hw => retrains ch (h.updPg (20 + m.val) 0x010 0x040 fun v => v ||| BitVec.ofNat 32 (2 ^ ch.val))
        exec (.retrainReq m (BitVec.ofNat 8 (2 ^ ch.val))) s = s.leaves (go s.hw) ∧
        exec (.crcRetryThreshold m ch) s = s.leaves (go (s.hw.updPg (20 + m.val) 0x010 0x05C fun v => satAdd 32 v 65))) ∧
      (∀ (ch : Fin 8) (pass : Bool), x.chan ch.val = .retrain → x.combines = [] → asked = BitVec.ofNat 8 (2 ^ ch.val) →
        ∃ h, exec (.retrainComplete m ch pass) s = s.leaves h ∧
          (pass = true → (h.mem m.val).chan ch.val = .ready) ∧
          (pass = false → s.hw.unitFused (0x100 + 4 * (4 * m.val + ch.val / 2)) = false →
            (h.mem m.val).chan (2 * (ch.val / 2)) = .dead ∧ (h.mem m.val).chan (2 * (ch.val / 2) + 1) = .dead ∧
            h.unitDead (0x100 + 4 * (4 * m.val + ch.val / 2)) = true)) ∧
      ∃ h, exec (.mscFlush m) s = s.leaves h ∧ (h.mem m.val).lines = x.lines.map (fun l => { l with dirty := false }) ∧
        ∀ l, x.lines.filter (·.dirty) = [l] →
          h.gddr = s.hw.gddr.writeN (128 * l.line) (s.hw.padN (128 * l.line) l.bytes)) ∧
    (∀ devs, s.pageOpen 38 0x010 → ∃ h, exec (.cxlReenum devs) s = s.leaves h ∧ ∀ p : Fin 4,
      let d := devs.find? fun x => x.port == p && cxlTrains x
      ((h.cxlPort p.val).up = (d.isSome && !s.hw.unitDead (0x420 + 4 * p.val))) ∧ (h.cxlPort p.val).dead = false ∧
      ((h.cxlPort p.val).mapped = true → (h.cxlPort p.val).size ≠ 0)) ∧
    ∀ p : Fin 4, (s.hw.cxlPort p.val).up = true → ∃ h, exec (.cxlPortDown p) s = s.leaves h ∧ (h.cxlPort p.val).up = false ∧
      (h.cxlPort p.val).dead = true ∧ ∀ q : Fin 4, q ≠ p → h.cxlPort q.val = s.hw.cxlPort q.val

/-- WR_WRITE, WR_WRITE_IMM, WR_READ, WR_SEND and WR_FADD, when the first message of the endpoint's ring is a valid
request of that operation without fence, for a QP in RTS with no other request queued and no completion waiting: the
message leaves the ring, its data (none for READ and FADD, which need room among the outstanding reads) is read, the
request takes its PSNs and its packets leave. COMPLETION sends the first waiting completion when the endpoint holds
credit and asks for credit otherwise. ACK_RECEIVE at the PSN of a live QP's oldest request: an ACK of its last packet
ends a request that is no READ or FADD with status OK, and the last packet of a response is written and ends a READ
or FADD so; a NAK ends it with status 3, 2 or 4, flushes the others and puts the QP in ERR; RNR makes the QP wait, or
fails it with status 6 beyond rnr_retry. ACK_TIMEOUT beyond retry_cnt fails the QP with status 5, and before sends a
lone READ or FADD again. RNR_TIMER_EXPIRY ends the wait. A CNP, the first since the QP opened, cuts the rate, which
RATE_INCREASE raises to at most 400 Gbit/s. FRAME_RECEIVE counts a frame with a bad FCS or length, a pause frame, one
for another station and a secured one outside a session, and otherwise a secured one without packet advances its
receive entry. PORT_LINK_CHANGE takes a port down, and up unless it is FUSED, DEAD, held down or OUT. -/
def Obligations.NetworkRequester : Prop :=
  ∀ (d : NetId) (q : Fin 2048) (s : State),
    (∀ (m : Msg) (w : Wr) (h : Hw), s.wrAt d.val m h → s.hw.parseWr (m.bytes.drop 64) = (q.val, w) → w.bad = false →
      (h.qp d.val q.val).state = 1 → (h.qp d.val q.val).sq = [] → (h.qp d.val q.val).cpls = [] →
      (h.qp d.val q.val).rnrWait = false → w.fence = false → w.acked = 0 →
      let g := h.updQp d.val q.val fun x => { x with sq := [w] }
      let v : Wr := { w with first := ((h.qp d.val q.val).word 2).setWidth 24 }
      (∀ g' bs, g.netRead d.val q.val w.laddr w.len = (g', .ok bs) → let u := s.leaves (g'.posts d.val q.val v bs)
        (w.op = 1 → exec (.wrWrite d) s = u) ∧ (w.op = 2 → exec (.wrWriteImm d) s = u) ∧
        (w.op = 4 → exec (.wrSend d) s = u)) ∧
      (((h.qp d.val q.val).sent.filter Wr.reads).length < fld ((h.qp d.val q.val).word 4) 9 5 →
        (w.op = 3 → exec (.wrRead d) s = s.leaves (g.posts d.val q.val v [])) ∧
        (w.op = 5 → exec (.wrFadd d) s = s.leaves (g.posts d.val q.val v [])))) ∧
    (∀ (c : Cpl) (cs : List Cpl) (h : Hw), (s.hw.qp d.val q.val).cpls = c :: cs → s.hw.awake (36 + d.val) = true →
      (s.hw.netSpend d.val q.val c.rcore c.rring 1 = (h, true) → exec (.completion d q) s = s.leaves
        (((h.cplMsg d.val q.val c).1.netSend d.val q.val (h.cplMsg d.val q.val c).2).cplGone d.val q.val)) ∧
      (s.hw.netSpend d.val q.val c.rcore c.rring 1 = (h, false) →
        exec (.completion d q) s = s.leaves (h.updQp d.val q.val fun x => { x with asked := true }))) ∧
    (∀ (w : Wr) (ws : List Wr), (s.hw.qp d.val q.val).sent = w :: ws → let x := s.hw.qp d.val q.val
      (s.hw.qpLive d.val q.val = true → w.acked < w.psns → w.psns ≤ 2 ^ 20 →
        let una := w.first + BitVec.ofNat 24 w.acked
        (w.reads = false → x.sq = [] → exec (.ackReceive d q ⟨w.first + BitVec.ofNat 24 (w.psns - 1), .ack⟩) s =
          s.leaves (s.hw.updQp d.val q.val fun x => { x with sent := ws, retries := 0, rnrs := 0
                                                             cpls := if w.signal then x.cpls ++ [w.cpl 0 w.len 0] else x.cpls })) ∧
        (∀ bs h, let part := sub bs 0 (min 4096 w.left)
          w.reads = true → w.acked + 1 = w.psns → s.hw.netWrite d.val q.val w.at part = (h, none) → (h.qp d.val q.val).sq = [] →
          exec (.ackReceive d q ⟨una, .data bs⟩) s = s.leaves (h.updQp d.val q.val fun x =>
            let v := if w.op = 5 then BitVec.ofNat 64 (leNat part) else 0
            { x with sent := x.sent.tail, retries := 0, rnrs := 0
                     cpls := if w.signal then x.cpls ++ [w.cpl 0 w.len v] else x.cpls })) ∧
        exec (.ackReceive d q ⟨una, .nakInvalid⟩) s = s.leaves (s.hw.qpErrs d.val q.val w ws 3) ∧
        exec (.ackReceive d q ⟨una, .nakAccess⟩) s = s.leaves (s.hw.qpErrs d.val q.val w ws 2) ∧
        exec (.ackReceive d q ⟨una, .nakOper⟩) s = s.leaves (s.hw.qpErrs d.val q.val w ws 4) ∧
        (∀ t, exec (.ackReceive d q ⟨una, .rnr t⟩) s = s.leaves
          (if fld (x.word 4) 23 21 ≠ 7 ∧ fld (x.word 4) 23 21 ≤ x.rnrs then s.hw.qpErrs d.val q.val w ws 6
          else s.hw.updQp d.val q.val fun x => { x with rnrs := x.rnrs + 1, rnrWait := true }))) ∧
      (x.state = 1 → x.rnrWait = false →
        (fld (x.word 4) 26 24 ≤ x.retries → exec (.ackTimeout d q) s = s.leaves (s.hw.qpErrs d.val q.val w ws 5)) ∧
        (x.retries < fld (x.word 4) 26 24 → w.reads = true → ws = [] → exec (.ackTimeout d q) s = s.leaves
          ((s.hw.updQp d.val q.val fun x => { x with retries := x.retries + 1 }).transmit d.val q.val w [])))) ∧
    ((s.hw.qp d.val q.val).rnrWait = true → (s.hw.qp d.val q.val).sent = [] → (s.hw.qp d.val q.val).sq = [] →
      exec (.rnrTimerExpiry d q) s = s.leaves (s.hw.updQp d.val q.val fun x => { x with rnrWait := false })) ∧
    (s.hw.qpLive d.val q.val = true → (s.hw.qp d.val q.val).lastCut = none → exec (.cnpReceive d q) s = s.leaves
      ((s.hw.updPg (36 + d.val) 0x010 0x054 fun v => v + 1).updQp d.val q.val fun x =>
        { x with rate := max (1000 * fld (s.hw.npg d.val 0x010 0x044) 7 0)
                   (x.rate * (256 - fld (s.hw.npg d.val 0x010 0x040) 7 0) / 256)
                 lastCut := some s.hw.us })) ∧
    ((s.hw.qp d.val q.val).state = 1 → exec (.rateIncrease d q) s = s.leaves (s.hw.updQp d.val q.val fun x =>
      { x with rate := min 400000 (x.rate + 100 * fld (s.hw.npg d.val 0x010 0x044) 31 16) })) ∧
    (∀ (p : PortId) (f : Frame), (s.hw.port p.val).up = true → s.hw.awake (36 + p.val / 4) = true → f.fecOk = true →
      (s.hw.pg (36 + p.val / 4) (p.val % 4) 0x020).getLsbD 31 = false →
      let n := fun o => s.leaves
        (s.hw.updPg (36 + p.val / 4) (p.val % 4) o fun v => satAdd 32 v 1)
      let bad := f.fcsOk = false ∨ f.length < 64 ∨ 4352 < f.length
      (bad → exec (.frameReceive p f) s = n 0x074) ∧ (¬bad → f.pause = true → exec (.frameReceive p f) s = n 0x078) ∧
      (¬bad → f.pause = false → f.destMac ≠ Config.portMac p.val → exec (.frameReceive p f) s = n 0x074) ∧
      (¬bad → f.pause = false → f.destMac = Config.portMac p.val → ∀ t, f.sec = some t →
        (s.hw.sesOpen = false → exec (.frameReceive p f) s = n 0x07C) ∧
        (∀ i, s.hw.sesOpen = true → s.hw.macsec p.val t = some i → f.packet = none → exec (.frameReceive p f) s = s.leaves
          ((s.hw.updPort p.val fun x => { x with rx := upd x.rx i {} fun e =>
            if e.pn.toNat ≤ t.pn.toNat then { e with pn := t.pn + 1 } else e }).updPg (36 + p.val / 4) (p.val % 4) 0x070
              fun v => v + 1)))) ∧
    ∀ (p : PortId), let dd := 36 + p.val / 4
      let b := p.val % 4
      exec (.portLinkChange p false) s = s.leaves (s.hw.updPort p.val fun x => { x with up := false }) ∧
      (s.hw.fused dd b = false → s.hw.dead dd b = false → (s.hw.pg dd b 0x040).getLsbD 0 = true → s.hw.svc dd b ≠ 2 →
        s.hw.awake dd = true → s.hw.seqSt = 1 →
        exec (.portLinkChange p true) s = s.leaves (s.hw.updPort p.val fun x => { x with up := true }))

/-- For a live QP with nothing in hand and nothing waiting: WRITE to a window of a core's local memory that R350
admits writes its bytes there, holds the window, sends an ACK for every 16 packets before the last, and advances the
expected PSN; WRITE with immediate does the same once the credit of its message is spent, and waits before; READ that
is admitted answers the bytes and advances the PSN; FETCH_ADD on local memory stores the sum, saves the old value and
answers it; SEND of at most 992 bytes sends its message, advances the PSN and is acknowledged once its credit is
spent, and waits before; a longer one gets the invalid NAK. A window request that a check of R350 refuses is counted
and gets its NAK, and the QP enters ERR unless the NAK is the invalid one. A request ahead of the expected PSN gets
the PSN NAK, a duplicate WRITE or SEND an ACK, and a duplicate FETCH_ADD the value saved for it. WINDOW_MESSAGE_END
of a message in hand, with nothing behind it, releases its window, counts a message to local memory in WIN_W6, sends
its event where one is set, and ACKs. SEND_CREDIT_TIMEOUT gives up a waiting message with the RNR NAK of the QP's
min_rnr. -/
def Obligations.NetworkResponder : Prop :=
  ∀ (d : NetId) (q : Fin 2048) (r : WinReq) (data : List Byte) (imm : W32) (addend : BitVec 64) (s : State),
    let win := fld r.rkey 9 0
    let w := (s.hw.win d.val win).w
    let a := winBase w + r.offset.toNat
    let n := r.length
    let busy (h : Hw) : Hw := h.updWin d.val win fun x => { x with busy := x.busy + 1 }
    let written (h : Hw) (m : Option Msg) : Hw :=
      ((h.midAcks d.val q.val r.psn n).updQp d.val q.val fun x =>
        ({ x with msg := some { win := win, w := w, imm := m, psn := some (lastPsn r.psn n) } }).advance 3 (packets n)).lmWrite
          (winSite w) a data
    let asWrite (i : Option W32) := s.hw.taken d.val q.val (.write r data i)
    let asRead := s.hw.taken d.val q.val (.read r)
    let asFadd := s.hw.taken d.val q.val (.fadd r addend)
    let asSend := s.hw.taken d.val q.val (.send r.psn data)
    (data.length = n → s.admits d.val q.val r n .write → winType w = 1 →
      exec (.incomingRdmaWrite d q r data) s = s.leaves (written (busy (asWrite none)) none)) ∧
    (∀ h, data.length = n → s.admits d.val q.val r n .writeImm → winType w = 1 →
      let p := (busy (asWrite (some imm))).recvMsg d.val q.val 2 0 imm []
      let g := p.1.updQp d.val q.val fun x =>
        { x with deliver := some { msg := p.2, win := some (win, w), psn := r.psn, off := r.offset.toNat, data := data } }
      (g.netSpend d.val q.val p.2.dest p.2.ring p.2.n = (h, true) → exec (.incomingWriteImm d q r data imm) s = s.leaves
        (written (h.updQp d.val q.val fun x => { x with deliver := none }) (some p.2))) ∧
      (g.netSpend d.val q.val p.2.dest p.2.ring p.2.n = (h, false) → exec (.incomingWriteImm d q r data imm) s = s.leaves h)) ∧
    (∀ h bs, s.admits d.val q.val r n .read → asRead.winRead d.val q.val w r.offset.toNat n = (h, .ok bs) →
      exec (.incomingRdmaRead d q r) s = s.leaves ((h.updQp d.val q.val fun x => x.advance 3 (packets n)).emit
        d.val q.val (packets n) r.psn (.readData bs))) ∧
    (∀ h bs, n ≤ 2 ^ 31 → s.admits d.val q.val r 8 .fadd → winType w = 1 → asFadd.locRead (winSite w) a 8 = (h, .ok bs) →
      let old := BitVec.ofNat 64 (leNat bs)
      exec (.incomingFetchAdd d q r addend) s = s.leaves (((h.lmWrite (winSite w) a (leBytes 8 (old + addend).toNat)).updQp
        d.val q.val fun x => { x with savedAtomic := put x.savedAtomic r.psn.toNat old }.advance 3 1).emit d.val q.val 1 r.psn
          (.atomicAck old))) ∧
    (∀ h, s.idleQp d.val q.val → s.hw.psnAt d.val q.val r.psn = .next → data.length ≤ 992 →
      let p := asSend.recvMsg d.val q.val 1 data.length 0 data
      let g := p.1.updQp d.val q.val fun x => { x with deliver := some { msg := p.2, win := none, psn := r.psn, data := data } }
      (g.netSpend d.val q.val p.2.dest p.2.ring p.2.n = (h, true) → exec (.incomingSend d q r.psn data) s = s.leaves
        ((((h.updQp d.val q.val fun x => { x with deliver := none }).netSend d.val q.val p.2).updQp d.val q.val fun x =>
          x.advance 3 1).emit d.val q.val 1 r.psn .ack)) ∧
      (g.netSpend d.val q.val p.2.dest p.2.ring p.2.n = (h, false) → exec (.incomingSend d q r.psn data) s = s.leaves h)) ∧
    (s.idleQp d.val q.val → n ≤ 2 ^ 31 → s.hw.psnAt d.val q.val r.psn = .next →
      (∀ code, data.length = n → s.hw.winCheck d.val q.val r n .write = some code →
        exec (.incomingRdmaWrite d q r data) s = s.leaves ((asWrite none).winNaks d.val q.val r.psn code)) ∧
      (∀ code, data.length = n → s.hw.winCheck d.val q.val r n .writeImm = some code →
        exec (.incomingWriteImm d q r data imm) s = s.leaves ((asWrite (some imm)).winNaks d.val q.val r.psn code)) ∧
      (∀ code, s.hw.winCheck d.val q.val r n .read = some code →
        exec (.incomingRdmaRead d q r) s = s.leaves (asRead.winNaks d.val q.val r.psn code)) ∧
      (∀ code, s.hw.winCheck d.val q.val r 8 .fadd = some code →
        exec (.incomingFetchAdd d q r addend) s = s.leaves (asFadd.winNaks d.val q.val r.psn code)) ∧
      (992 < data.length → data.length ≤ 2 ^ 31 →
        exec (.incomingSend d q r.psn data) s = s.leaves (asSend.emit d.val q.val 1 r.psn (.nak 1)))) ∧
    (s.idleQp d.val q.val → n ≤ 2 ^ 31 → data.length = n →
      (s.hw.psnAt d.val q.val r.psn = .ahead → let naks := fun h : Hw => s.leaves (h.emit d.val q.val 1 r.psn (.nak 0))
        exec (.incomingRdmaWrite d q r data) s = naks (asWrite none) ∧
        exec (.incomingWriteImm d q r data imm) s = naks (asWrite (some imm)) ∧
        exec (.incomingRdmaRead d q r) s = naks asRead ∧ exec (.incomingFetchAdd d q r addend) s = naks asFadd ∧
        exec (.incomingSend d q r.psn data) s = naks asSend) ∧
      (s.hw.psnAt d.val q.val r.psn = .duplicate →
        let acks := fun h : Hw => s.leaves (h.emit d.val q.val 1 (lastPsn r.psn n) .ack)
        exec (.incomingRdmaWrite d q r data) s = acks (asWrite none) ∧
        exec (.incomingWriteImm d q r data imm) s = acks (asWrite (some imm)) ∧
        exec (.incomingSend d q r.psn data) s = acks asSend ∧
        ∀ v, look (s.hw.qp d.val q.val).savedAtomic r.psn.toNat = some v →
          exec (.incomingFetchAdd d q r addend) s = s.leaves (asFadd.emit d.val q.val 1 r.psn (.atomicAck v)))) ∧
    (∀ (m : WinMsg) (psn : BitVec 24), (s.hw.qp d.val q.val).msg = some m → m.psn = some psn → m.imm = none →
      (s.hw.qp d.val q.val).deliver = none → (s.hw.qp d.val q.val).inq = [] → s.hw.qpLive d.val q.val = true →
      let g := (s.hw.updQp d.val q.val fun x => { x with msg := none }).updWin d.val m.win fun x => { x with busy := x.busy - 1 }
      let k := g.updWin d.val m.win fun x => { x with w := upd x.w 6 0 fun v => v + 1, ended := x.ended + 1 }
      let w5 := lookD m.w 5 0
      let e : Pkt := { q := .msg, src := netId (netIx d.val), dest := BitVec.ofNat 16 (fld (lookD m.w 1 0) 31 16)
                       port := (k.qp d.val q.val).port
                       body := .event (tidOf (fld w5 30 29)) ⟨fld w5 28 24 % 32, Nat.mod_lt _ (by decide)⟩ }
      exec (.windowMessageEnd d q) s = s.leaves
        ((if winType m.w ≠ 1 then g else if w5.getLsbD 31 then k.send e else k).emit d.val q.val 1 psn .ack)) ∧
    ∀ x : Held, (s.hw.qp d.val q.val).deliver = some x → (s.hw.qp d.val q.val).inq = [] → s.hw.qpLive d.val q.val = true →
      let h := match x.win with
        | some (i, _) => s.hw.updWin d.val i fun x => { x with busy := x.busy - 1 }
        | none => s.hw
      exec (.sendCreditTimeout d q) s = s.leaves ((h.updQp d.val q.val fun x => { x with deliver := none }).emit d.val q.val 1
        x.psn (.rnrNak (BitVec.ofNat 5 (fld ((s.hw.qp d.val q.val).word 4) 20 16))))

/-- Through an open page: QP_OPEN takes a QP in RESET with a valid peer, a port that is neither FUSED nor DRAINING
and a legal W4 to RTS, and is refused with reason 3 for the W4 and with reason 4 otherwise; QP_CLOSE of a QP that
holds no message for credit flushes its requests and leaves it in RESET. WINDOW_OPEN opens an entry with the staged
words, and one that R349 forbids is refused; WINDOW_CLOSE closes it. PEER_COMMIT commits an entry with its staged
words, and MSA_COMMIT one of a session's receive entries, entry 0 and any outside a session being refused. For a
message of one segment at an open port: ATT_REQ of 64 bytes is answered by the signed report over its nonce, the 65th
in a second by RATE and another length by FORMAT; CERT_REQ of no bytes by the certificate, else by FORMAT; SES_OPEN
by BUSY, FORMAT, STALE or OWNER, or else, unsigned on a part without owner, it opens the session: QP 0 of both dies
in RTS, window 0 of both over the register region, and the decapsulation key used up. ATT_SEGMENT_TIMEOUT drops a
partial message, ENCAP_KEY_EXPIRE a key. SESSION_CLOSE_REQUEST schedules the close; SESSION_CLOSE leaves every QP in
RESET, every window closed, the key of window 0 and the keys of the ports gone. MR_EXTEND extends MR6 or MR7 by the
staged words. -/
def Obligations.TablesAndSessions : Prop :=
  ∀ (s : State),
    (∀ (d : NetId), let q := s.hw.qpSel d.val
      let x := s.hw.qp d.val q
      let legal := fld (x.word 4) 31 27 ≠ 0 ∧ 1 ≤ fld (x.word 4) 9 5 ∧ fld (x.word 4) 9 5 ≤ 16
      let peer := (lookD (s.hw.peer d.val (fld (x.word 0) 13 0)) 0 0).getLsbD 31
      (s.pageOpen (36 + d.val) 0x013 →
        (x.state = 0 → peer = true → s.hw.fused (36 + d.val) x.port = false → s.hw.svc (36 + d.val) x.port ≠ 1 →
          (legal → exec (.qpOpen d) s = s.leaves (s.hw.updQp d.val q fun x =>
            ({ x with retries := 0, rnrs := 0, rnrWait := false, rate := 400000, lastCut := none, lastCnp := none
                      savedAtomic := [] } : Qp).setState 1)) ∧
          (¬legal → exec (.qpOpen d) s = s.leaves (s.hw.accErr (36 + d.val) 0x013 0x044 3))) ∧
        (x.state ≠ 0 ∨ peer = false ∨ s.hw.fused (36 + d.val) x.port = true ∨ s.hw.svc (36 + d.val) x.port = 1 →
          exec (.qpOpen d) s = s.leaves (s.hw.accErr (36 + d.val) 0x013 0x044 4)) ∧
        (x.deliver = none → exec (.qpClose d) s = s.leaves (s.hw.updQp d.val q fun x =>
          ({ x with sq := [], sent := [], cpls := x.cpls ++ (x.sent ++ x.sq).map Wr.flush, retries := 0, rnrs := 0
                    rnrWait := false, deliver := none, inq := [], msg := x.msg.map fun m => { m with psn := none }
                    rate := 400000, lastCut := none, lastCnp := none } : Qp).setState 0))) ∧
      (s.pageOpen (36 + d.val) 0x011 → ∀ v : W32, let n := fld (s.hw.npg d.val 0x011 0x040) 9 0
        let clear := fun h : Hw => h.updNet d.val fun x => { x with winStaged := [] }
        let w := (s.hw.net d.val).winStaged.foldl (fun t p => put t p.1 p.2)
          (put (s.hw.win d.val n).w 0 (setBit v 31 true &&& 0xFE3FFFFF))
        (s.hw.winRefused w = false → exec (.windowOpen d v) s = s.leaves (clear (s.hw.updWin d.val n fun x =>
          { x with w := put w 6 0, base6 := 0, ended := 0 }))) ∧
        (s.hw.winRefused w = true → exec (.windowOpen d v) s = s.leaves (s.hw.accErr (36 + d.val) 0x011 0x044 3)) ∧
        exec (.windowClose d v) s = s.leaves (clear (s.hw.updWin d.val n fun x =>
          { x with w := put x.w 0 (setBit v 31 false &&& 0xFE3FFFFF) }))) ∧
      (s.pageOpen (36 + d.val) 0x012 → ∀ v : W32,
        let n := fld (s.hw.npg d.val 0x012 0x040) 13 0
        let w := (s.hw.net d.val).peerStaged.foldl (fun t p => put t p.1 p.2) (put (s.hw.peer d.val n) 0 (v &&& 0xCFFFFFFF))
        exec (.peerCommit d v) s = s.leaves (s.hw.updNet d.val fun x => { x with peerStaged := [], peers := put x.peers n w }))) ∧
    (∀ (p : PortId) (v : W32), s.pageOpen (36 + p.val / 4) (p.val % 4) → let n := s.hw.msaSel p.val
      (s.hw.sesOpen = true → n ≠ 0 → exec (.msaCommit p v) s = s.leaves (s.hw.updPort p.val fun x =>
        { x with rx := put x.rx n { (lookD x.rx n {}).stage x.staged with w0 := v &&& 0x80030000 }, staged := [] })) ∧
      (s.hw.sesOpen = false ∨ n = 0 →
        exec (.msaCommit p v) s = s.leaves (s.hw.accErr (36 + p.val / 4) (p.val % 4) 0x0C4 4))) ∧
    (∀ (p : PortId) (a : AttMsg), s.whole p a →
      let tells := fun (i : Instr) (type : Nat) (bs : List Byte) =>
        ∃ h, exec i s = s.leaves h ∧ h.out = s.hw.out ++ attFrames p a type bs
      let busy := s.hw.sesOpen = true ∨ s.hw.k0.closing = true ∨ s.hw.seqSt = 0
      let signed := (sw a.data 8).getLsbD 0
      let named := s.hw.k0.decaps.find? fun x => x.reportId == BitVec.ofNat 64 (leAt a.data 0 8)
      let recent := (s.hw.k0.served.filter fun t => decide (s.hw.us < t + 1000000)).length
      let body := s.hw.report a.data (Config.kemKey s.hw.free)
        (pack 64 [(32, (s.hw.pg 39 0x010 0x048).toNat), (0, (s.hw.k0.reportNo + 1).toNat)])
      (a.data.length = 64 → recent < 64 → tells (.attReq p a) 2 (body ++ sub (Config.sign identityKeys.2 body) 0 4627)) ∧
      (a.data.length = 64 → 64 ≤ recent → tells (.attReq p a) 7 (leBytes 4 5)) ∧
      (a.data.length ≠ 64 → tells (.attReq p a) 7 (leBytes 4 3)) ∧
      (a.data = [] → tells (.certReq p a) 4 s.hw.k0.certificate) ∧ (a.data ≠ [] → tells (.certReq p a) 7 (leBytes 4 3)) ∧
      (busy → tells (.sesOpen p a) 7 (leBytes 4 1)) ∧
      (¬busy → a.data.length ≠ (if signed then 8883 else 0x680) → tells (.sesOpen p a) 7 (leBytes 4 3)) ∧
      (¬busy → signed = false → a.data.length = 0x680 → (named = none → tells (.sesOpen p a) 7 (leBytes 4 2)) ∧
        (named.isSome = true → s.hw.k0.owner.isSome = true → tells (.sesOpen p a) 7 (leBytes 4 4))) ∧
      (∀ x, ¬busy → signed = false → s.hw.k0.owner = none → a.data.length = 0x680 → named = some x →
        ∃ h bs, exec (.sesOpen p a) s = s.leaves h ∧ h.sesOpen = true ∧ h.out = s.hw.out ++ attFrames p a 6 bs ∧
          h.k0.decaps = s.hw.k0.decaps.filter (fun y => y.reportId != x.reportId) ∧
          ∀ d : NetId, (h.qp d.val 0).state = 1 ∧ (lookD (h.win d.val 0).w 0 0).getLsbD 31 = true ∧
            winType (h.win d.val 0).w = 0 ∧ winBase (h.win d.val 0).w = regBase)) ∧
    (∀ (src : BitVec 128) (x : Partial), x ∈ s.hw.k0.partials → x.src = src → exec (.attSegmentTimeout src) s = s.leaves
      ((s.hw.updK fun k => { k with partials := k.partials.filter fun x => x.src != src }).updPg 39 0x011 0x050 fun v =>
        satAdd 32 v 1)) ∧
    (∀ id, exec (.encapKeyExpire id) s = s.leaves (s.hw.updK fun k =>
      { k with decaps := k.decaps.filter fun x => x.reportId != id })) ∧
    (s.pageOpen 39 0x011 → s.hw.sesOpen = true → exec .sessionCloseRequest s = s.leaves
      ((s.hw.updK fun k => { k with closing := true }).setPg 39 0x011 0x044 1)) ∧
    (s.hw.k0.closing = true → ∃ h, exec .sessionClose s = s.leaves h ∧ h.sesOpen = false ∧ h.k0.closing = false ∧
      (∀ d : NetId, (∀ q, (h.qp d.val q).state = 0) ∧ (∀ w, (lookD (h.win d.val w).w 0 0).getLsbD 31 = false) ∧
        fld (lookD (h.win d.val 0).w 0 0) 21 0 = 0) ∧
      ∀ p : PortId, (h.port p.val).tx = {} ∧ (h.port p.val).rx = []) ∧
    ∀ v : W32, s.pageOpen 39 0x010 → let n := if v.getLsbD 0 then 7 else 6
      exec (.mrExtend v) s = s.leaves (s.hw.updK fun k => { k with mrs := put k.mrs n (Config.sha3 (leBytes 64 (k.mr n).toNat ++
        ((List.range 16).map fun i => leBytes 4 (s.hw.pg 39 0x010 (0x080 + 4 * i)).toNat).flatten)) })

/-- POWER_ON begins step 1 once. BRING_UP_SEQUENCE ends the step in progress: step 1 raises pwrgd; step 2 reads the
owner record and goes on with the selected slot or else the other, the first whose images all verify, and enters
RECOVERY when neither slot's do; step 3 qualifies every link, a DEAD one failing the step; step 5 sends the image
after the last heat; step 6 ends once every live site has accepted it; step 7 marks a failing site DEAD; step 8
without repairs assigns the sites; step 9 ends READY or, after a failed step, FAILED. HEAT_POWER of the next heat
powers its sites with a cleared record. ISLAND_POWER_GOOD_TIMEOUT leaves its site DEAD, cause 3, without power.
BOOT_RECORD_TIMEOUT of a record that was sent and did not arrive makes the site read BADCRC, and at run time the
image is sent once more or the site is DEAD. BOOT_IMAGE_CHECK accepts an image whose record and CRC hold; otherwise
the site reads BADCRC when K0 sent the record and NOIMG when not. BOOT_RECHECK acts in NOIMG only. BLK_SVC_WRITE
stages the next state, cancels, or refuses. -/
def Obligations.BringUp : Prop :=
  ∀ (s : State),
    (exec .powerOn s = s.leaves (if s.hw.powered then s.hw else
      ((({ s.hw with powered := true } : Hw).setStep 1).updPg 39 0x010 0x048 fun v => v + 1).pf 0x01 39 0x012 0 0)) ∧
    (∀ o : BringUpObs, s.hw.powered = true → s.hw.seqSt = 0 → let e := exec (.bringUpSequence o) s
      let accepted := ∀ c : CoreId, s.hw.goneSite c.val = false → s.hw.boot c.val = 2 ∧ (s.hw.site c.val).awaits = false
      (s.hw.seqStep = 1 → e = s.leaves { s.hw.setStep 2 with pins := { s.hw.pins with pwrgd := true } }) ∧
      (s.hw.seqStep = 2 → let b := s.hw.k0.slotB
        let v := fun x => (s.hw.verifyKinds [1, 2, 3] (slotBase x) []).2
        let uses := fun (t : Hw) x (is : List Image) => t.seqStep = 3 ∧ t.bootStat.getLsbD 8 = x ∧
          ∀ i, is[2]? = some i → t.k0.image = i.body
        ∃ t, e = s.leaves t ∧ t.k0.owner = s.hw.k0.ownerRecord ∧ (∀ is, v b = .ok is → uses t b is) ∧
          (∀ a is, v b = .error a → v (!b) = .ok is → uses t (!b) is) ∧
          ∀ a a', v b = .error a → v (!b) = .error a' → t.seqSt = 3) ∧
      (s.hw.seqStep = 3 → let h := ({ s.hw with links := [] } : Hw).qualify o.lanes 12
        e = s.leaves ((if h.anyLinkDead then h.updK fun k => if k.failStep = 0 then { k with failStep := 3 } else k
          else h).setStep 4)) ∧
      (s.hw.seqStep = 6 → accepted → e = s.leaves (s.hw.setStep 7)) ∧
      (s.hw.seqStep = 5 → s.hw.heat = 19 → ∃ h, e = s.leaves h ∧ h.seqStep = 6 ∧ ∀ c : CoreId, s.hw.goneSite c.val = false →
        (h.site c.val).sendings = (s.hw.site c.val).sendings + 1) ∧
      (s.hw.seqStep = 7 → o.deadSites = [] → o.deadEngines = [] → o.deadPorts = [] → e = s.leaves (s.hw.setStep 8)) ∧
      (∀ c : CoreId, s.hw.seqStep = 7 → o.deadSites = [c] → o.deadEngines = [] → o.deadPorts = [] →
        e = s.leaves ((s.hw.killSite c.val 1).setStep 8)) ∧
      (s.hw.seqStep = 8 → o.rows = [] → o.mscRows = [] → s.hw.k0.srt.length ≤ 512 → accepted → e = s.leaves (s.hw.assign.setStep 9)) ∧
      (s.hw.seqStep = 9 → ∃ h, e = s.leaves h ∧ h.seqSt = if s.hw.k0.failStep = 0 then 1 else 2)) ∧
    (∀ n : Fin 20, s.hw.heating = true → s.hw.heat = (if n.val = 0 then 31 else n.val - 1) → ∃ h,
      exec (.heatPower n) s = s.leaves h ∧ h.heat = n.val ∧ ∀ c : CoreId, siteIx c.val % 20 = n.val →
        s.hw.goneSite c.val = false → (h.site c.val).powered = true ∧ (h.site c.val).sendings = 0 ∧ h.boot c.val = 0 ∧
          h.pwr c.val = 0 ∧ ∀ a < 64, (h.core c.val).lmem.read a = 0) ∧
    (∀ c : CoreId,
      (s.hw.heating = true → siteIx c.val % 20 = s.hw.heat → (s.hw.site c.val).powered = true →
        s.hw.goneSite c.val = false → exec (.islandPowerGoodTimeout c) s = s.leaves (s.hw.setSite c.val fun x =>
          { x with st := .dead, cause := 3, powered := false, awaits := false })) ∧
      (s.hw.boot c.val = 0 → s.hw.pwr c.val ≠ 5 → s.hw.goneSite c.val = false →
        ((s.hw.site c.val).awaits = false → exec (.bootRecordTimeout c) s = s.leaves s.hw) ∧
        ((s.hw.core c.val).record.1 = false → (s.hw.site c.val).awaits = true →
          let h := (s.hw.updCpg c.val 0x28C fun v => setFld v 2 0 3).setSite c.val fun x => { x with awaits := false }
          (s.hw.seqSt = 0 → exec (.bootRecordTimeout c) s = s.leaves h) ∧
          (s.hw.seqSt ≠ 0 → (s.hw.site c.val).sendings < 2 →
            exec (.bootRecordTimeout c) s = s.leaves (h.sendDie (dieOf c.val))) ∧
          (s.hw.seqSt ≠ 0 → 2 ≤ (s.hw.site c.val).sendings →
            exec (.bootRecordTimeout c) s = s.leaves (h.killSite c.val 4).publish)) ∧
        (∀ n crc, (s.hw.core c.val).record = (true, some (n, crc)) → ∃ h, exec (.bootImageCheck c) s = s.leaves h ∧
          ((s.hw.core c.val).imageOk n crc = true → h.boot c.val = 2 ∧ h.cpg c.val 0x294 = BitVec.ofNat 32 n ∧
            h.cpg c.val 0x298 = crc) ∧
          ((s.hw.core c.val).imageOk n crc = false → h.cpg c.val 0x294 = s.hw.cpg c.val 0x294 ∧
            h.boot c.val = if (s.hw.site c.val).awaits = true then 3 else 4))) ∧
      (s.pageOpen (dieOf c.val) (siteIx c.val) →
        (s.hw.boot c.val = 4 → (s.hw.core c.val).record.1 = false → s.hw.cpg c.val 0x294 ≠ 0 →
          exec (.bootRecheck c) s = s.leaves (s.hw.updCpg c.val 0x28C fun v => setFld v 2 0 1)) ∧
        (s.hw.boot c.val ≠ 4 →
          exec (.bootRecheck c) s = s.leaves (s.hw.accErr (dieOf c.val) (siteIx c.val) 0x290 4)))) ∧
    ∀ (d : DieId) (b : BitVec 12) (v : W32) (k : Kind), s.pageOpen d.val b.toNat → s.hw.fused d.val b.toNat = false → kindOf d.val b.toNat = some k →
      let st := s.hw.svc d.val b.toNat
      let nxt := fld v 6 4
      let put := fun p => s.leaves (s.hw.updPg d.val b.toNat 0x024 fun v => setFld (setBit v 8 p) 6 4 nxt)
      let bad := fun r => s.leaves (s.hw.accErr d.val b.toNat 0x024 r)
      (4 ≤ nxt → exec (.blkSvcWrite d b v) s = bad 3) ∧
      (nxt < 4 → (k.can = false ∨ s.hw.dead d.val b.toNat = true) → exec (.blkSvcWrite d b v) s = bad 4) ∧
      (nxt < 4 → k.can = true → s.hw.dead d.val b.toNat = false →
        (nxt = st → exec (.blkSvcWrite d b v) s = put false) ∧ (nxt = (st + 1) % 4 → st < 4 → exec (.blkSvcWrite d b v) s = put true) ∧
        (nxt ≠ st → nxt ≠ (st + 1) % 4 → exec (.blkSvcWrite d b v) s = bad 4))

/-- In a powered module without a trip: RESET_PIN low for less than 2 us does nothing, from 10 us to 100 ms it makes
a WARM and longer a COLD reset, and between 2 and 10 us it does either; RST_CTL_COLD, RST_CTL_WARM and K0_WATCHDOG
make the resets of R404 with their causes. WARM and COLD keep local memory, fuses and flash, drop threads, packets,
the session and the measurements, and begin again at step 2; WARM keeps the memory tiers, with no store under way and
no dirty line as they are; COLD renews the memory key. A COLD pin reset within 10 s of a trip is held, and
TRIP_RESET_HOLD_END makes it. POWER_LOSS and INPUT_OVERVOLTAGE, with no flash command in progress, keep fuses and
flash and draw a new key. RST_CTL_DIE strikes a compute die's cores and no other's, empties a memory-side die's
cache, and of K0 drops partial requests and keeps the session and the root; it does nothing to a FUSED die, in
RECOVERY and in STANDBY. CORE_RESET clears the island; with nothing under way in it local memory stays and a valid
record is checked again; a core that is OUT is held. -/
def Obligations.Resets : Prop :=
  ∀ (s : State),
    (s.hw.powered = true → s.hw.k0.trip = none →
      (∀ ns, (ns < 2000 → exec (.resetPin ns) s = s.leaves s.hw) ∧
        (2000 ≤ ns → ns < 10000 → let h := (s.hw.choose 2).2
          exec (.resetPin ns) s = s.leaves h ∨ s.restarts (.resetPin ns) false 2) ∧
        (10000 ≤ ns → ns < 100000000 → s.restarts (.resetPin ns) false 2) ∧
        (100000000 ≤ ns → s.restarts (.resetPin ns) true 1)) ∧
      s.restarts .k0Watchdog true 5 ∧
      (s.pageOpen 39 0x012 → s.restarts .rstCtlCold true (if s.hw.seqSt = 3 then 6 else 3) ∧ s.restarts .rstCtlWarm false 4)) ∧
    (∀ ns t, s.hw.powered = true → s.hw.k0.trip = some t → 100000000 ≤ ns →
      (s.hw.now < t + 120000000000 → exec (.resetPin ns) s = s.leaves (s.hw.updK fun k => { k with heldReset := true })) ∧
      (t + 120000000000 ≤ s.hw.now → s.restarts (.resetPin ns) true 1)) ∧
    (s.hw.k0.heldReset = true → s.restarts .tripResetHoldEnd true 1) ∧
    (s.hw.k0.heldReset = false → exec .tripResetHoldEnd s = s.leaves s.hw) ∧
    (s.hw.k0.flashOp = none → ∃ h : Hw,
      exec .powerLoss s = s.leaves h ∧ exec .inputOvervoltage s = s.leaves h ∧
      h = { variant := s.hw.variant, free := h.free, nextId := s.hw.nextId, flitMark := s.hw.nextId, out := s.hw.out, cores := h.cores
            k0 := { flash := s.hw.k0.flash, svnFuses := s.hw.k0.svnFuses, keyGen := s.hw.k0.keyGen + 1 } } ∧
      ∀ c : CoreId, (h.core c.val).threads = [] ∧ (h.core c.val).dcache = [] ∧ (h.core c.val).credits = []) ∧
    (∀ d : DieId, s.pageOpen 39 0x012 →
      ((s.hw.fused d.val 0x112 = true ∨ s.hw.seqSt = 3 ∨ s.hw.seqSt = 4) → exec (.rstCtlDie d) s = s.leaves s.hw) ∧
      (d.val < 20 → s.hw.seqSt ≠ 3 → s.hw.seqSt ≠ 4 → s.hw.fused d.val 0x112 = false → ∃ h,
        exec (.rstCtlDie d) s = s.leaves h ∧ (h.die d.val).sleep = .waking ∧ h.k0.hold.contains d = true ∧
        ∀ c : CoreId, (dieOf c.val = d.val → s.hw.goneSite c.val = false → (h.core c.val).threads = [] ∧
            (h.core c.val).dcache = []) ∧
          (dieOf c.val ≠ d.val → h.core c.val = s.hw.core c.val)) ∧
      (∀ m : Fin 16, d.val = 20 + m.val → s.hw.seqSt ≠ 3 → s.hw.seqSt ≠ 4 → s.hw.fused d.val 0x112 = false → ∃ h,
        exec (.rstCtlDie d) s = s.leaves h ∧ (h.die d.val).sleep = .waking ∧ (h.mem m.val).lines = [] ∧
          (h.mem m.val).combines = [] ∧ (h.mem m.val).poison = []) ∧
      (d.val = 39 → s.hw.seqSt ≠ 3 → s.hw.seqSt ≠ 4 → s.hw.k0.flashOp = none → ∃ h, exec (.rstCtlDie d) s = s.leaves h ∧
        h.k0.partials = [] ∧ h.k0.session = s.hw.k0.session ∧ h.k0.rootCount = s.hw.k0.rootCount ∧ h.cores = s.hw.cores)) ∧
    ∀ c : CoreId, s.pageOpen (dieOf c.val) (siteIx c.val) → s.hw.goneSite c.val = false → ∃ h,
      exec (.coreReset c) s = s.leaves h ∧ (h.core c.val).threads = [] ∧ (h.core c.val).dcache = [] ∧
      (s.coreOut c → h.pwr c.val = 5 ∧ h.boot c.val = 0) ∧ (¬s.coreOut c → h.pwr c.val = 0) ∧
      (s.hw.quietSlots c.val = true → (∀ i is, (s.hw.core c.val).back = i :: is → i.kind ≠ .rowred2 ∨ i.started = none) →
        (h.core c.val).lmem = (s.hw.core c.val).lmem ∧
        (¬s.coreOut c → (s.hw.core c.val).record.1 = true → (s.hw.core c.val).record.2 ≠ none → h.boot c.val = 1)) ∧
      ∀ e : CoreId, e ≠ c → h.core e.val = s.hw.core e.val

/-- Through an open page, PARK_REQUEST sets its bit; RETAIN_REQUEST sets its bit and begins the entry of a running or
parked core, waits on one that does not run yet, and does nothing in RETAIN; WAKE runs a parked core and takes one in
RETAIN to WAKING; on a core that is OUT all three are refused with reason 4. PARK_ENTRY parks a running core without
a wake condition, by a request that finds no thread in RUN or WAIT_REQ, no active slot and no request outstanding, or
by park_en once STALL_CNT reaches PARK_IDLE, and clears STALL_CNT. PARK_EXIT runs the core again when there is a wake
condition. RETAIN_ENTRY, with no thread in WAIT_REQ and no active slot: with nothing outstanding and no dirty line it
clears the island and reads RETAIN, local memory staying where no ROWRED2 was under way; one dirty line is written
back first. RETAIN_WAKE takes the core to WAKING with its wake source, when there is one. -/
def Obligations.CorePowerStates : Prop :=
  ∀ (c : CoreId) (s : State),
    let refused := s.leaves (s.hw.accErr (dieOf c.val) (siteIx c.val) 0x280 4)
    let bit := fun n b => s.hw.updCpg c.val 0x280 fun v => setBit v n b
    (s.pageOpen (dieOf c.val) (siteIx c.val) →
      (s.coreOut c → exec (.parkRequest c) s = refused ∧ exec (.retainRequest c) s = refused ∧ exec (.wake c) s = refused) ∧
      (¬s.coreOut c →
        exec (.parkRequest c) s = s.leaves (bit 29 true) ∧
        (s.hw.boot c.val = 5 → s.hw.pwr c.val ≤ 1 → exec (.retainRequest c) s =
          s.leaves ((bit 30 true).updCpg c.val 0x284 fun v => setFld v 2 0 3)) ∧
        (s.hw.pwr c.val = 2 → exec (.retainRequest c) s = s.leaves s.hw) ∧
        (s.hw.pwr c.val ≠ 2 → ¬(s.hw.boot c.val = 5 ∧ s.hw.pwr c.val ≤ 1) →
          exec (.retainRequest c) s = s.leaves (bit 30 true)) ∧
        (s.hw.pwr c.val = 1 → exec (.wake c) s = s.leaves (s.hw.wakes c 1 0)) ∧
        (s.hw.pwr c.val = 2 → exec (.wake c) s = s.leaves (s.hw.wakes c 1 4)) ∧
        (s.hw.pwr c.val ≠ 1 → s.hw.pwr c.val ≠ 2 → exec (.wake c) s = s.leaves s.hw))) ∧
    (s.hw.coreRuns c.val = true → s.hw.parkWake c = 0 →
      (((s.hw.cpg c.val 0x280).getLsbD 29 = true ∧ (∀ t : Tid, (s.hw.thr c t).state ≠ .run ∧ (s.hw.thr c t).state ≠ .waitReq) ∧
          s.hw.quietSlots c.val = true ∧ (s.hw.core c.val).outs = []) ∨
        ((s.hw.cpg c.val 0x280).getLsbD 0 = true ∧ s.hw.stalled c = true ∧ s.hw.cpg c.val 0x064 = 0 ∧
          (s.hw.cpg c.val 0x288).toNat ≤ (s.hw.core c.val).stallCnt.toNat)) →
      exec (.parkEntry c) s = s.leaves (((s.hw.updCpg c.val 0x284 fun v => setFld v 2 0 1).updCpg c.val 0x280 fun v =>
        setBit v 29 false).updC c.val fun k => { k with stallCnt := 0 })) ∧
    (s.hw.pwr c.val = 1 →
      (s.hw.parkWake c ≠ 0 → exec (.parkExit c) s = s.leaves (s.hw.wakes c (s.hw.parkWake c) 0)) ∧
      (s.hw.parkWake c = 0 → exec (.parkExit c) s = s.leaves s.hw)) ∧
    (s.hw.pwr c.val = 3 → (∀ t : Tid, (s.hw.thr c t).state ≠ .waitReq) → s.hw.quietSlots c.val = true →
      s.hw.k0.standbyReq = false →
      ((∀ l ∈ (s.hw.core c.val).dcache, l.dirty = 0) → (s.hw.core c.val).outs = [] → ∃ h,
        exec (.retainEntry c) s = s.leaves h ∧ h.pwr c.val = 2 ∧ (h.cpg c.val 0x280).getLsbD 30 = false ∧
        (h.core c.val).threads = [] ∧ (h.core c.val).dcache = [] ∧
        ((∀ i is, (s.hw.core c.val).back = i :: is → i.kind ≠ .rowred2 ∨ i.started = none) →
          (h.core c.val).lmem = (s.hw.core c.val).lmem) ∧
        ∀ e : CoreId, e ≠ c → h.core e.val = s.hw.core e.val) ∧
      (∀ l, (s.hw.core c.val).dcache.filter (fun l => l.dirty != 0) = [l] → (s.hw.core c.val).wbacks < 8 →
        exec (.retainEntry c) s = s.leaves ((s.hw.writeBack c 0 l (decide (2 ≤ l.bad.toNat))).updC c.val fun k =>
          k.dcPut { l with dirty := 0 }))) ∧
    (s.hw.pwr c.val = 2 →
      ((s.hw.core c.val).wakeSrc ≠ 0 → exec (.retainWake c) s = s.leaves (s.hw.wakes c (s.hw.core c.val).wakeSrc 4)) ∧
      ((s.hw.core c.val).wakeSrc = 0 → exec (.retainWake c) s = s.leaves s.hw))

/-- Through an open page, DIE_SLEEP puts an idle compute or memory-side die to SLEEP, its leaf off, and is refused
with reason 4 otherwise. DIE_WAKE_WRITE and DIE_WAKE bring a sleeping die to waking with their cause, and the root
holds for its leaf. STANDBY_REQUEST with a session open, when no core runs, enters STANDBY: every die sleeps, the
session goes on, and the contexts of its QPs and windows are saved; without a session it is refused.
STANDBY_ENTRY_TIMEOUT withdraws a request and shows it refused. In STANDBY, STANDBY_WAKE with a valid secured frame
and STANDBY_WAKE_TIMER, when enabled, begin the waking, and a frame that fails its check does not. -/
def Obligations.DieSleepAndStandby : Prop :=
  ∀ (s : State),
    (∀ d : DieId, s.pageOpen d.val 0x112 →
      (s.hw.mayDieSleep d.val = true → ∃ h, exec (.dieSleep d) s = s.leaves h ∧ (h.die d.val).sleep = .sleep ∧
        (h.die d.val).sync = false ∧ fld (h.pg d.val 0x112 0x044) 1 0 = 1 ∧ h.cores = s.hw.cores ∧
        (20 ≤ d.val → (h.mem (d.val - 20)).selfRefresh = true) ∧ ∀ e : DieId, e ≠ d → h.die e.val = s.hw.die e.val) ∧
      (s.hw.mayDieSleep d.val = false → exec (.dieSleep d) s = s.leaves (s.hw.accErr d.val 0x112 0x040 4))) ∧
    (∀ (d : DieId) (i : Instr) (n : Nat), (i = .dieWakeWrite d ∧ n = 3 ∨ i = .dieWake d true ∧ n = 2 ∨ i = .dieWake d false ∧ n = 1) →
      ((s.hw.die d.val).sleep = .sleep → s.hw.seqSt ≠ 4 → ∃ h, exec i s = s.leaves h ∧ (h.die d.val).sleep = .waking ∧
        (h.die d.val).sync = false ∧ h.k0.hold.contains d = true ∧ fld (h.pg d.val 0x112 0x044) 10 8 = n ∧
        fld (h.pg d.val 0x112 0x044) 1 0 = 3 ∧ h.cores = s.hw.cores) ∧
      ((s.hw.die d.val).sleep ≠ .sleep → exec i s = s.leaves s.hw)) ∧
    (s.pageOpen 39 0x012 →
      (s.hw.sesOpen = false ∨ s.hw.seqSt = 4 →
        exec .standbyRequest s = s.leaves (s.hw.updPg 39 0x012 0x050 fun v => setBit v 1 true)) ∧
      (s.hw.sesOpen = true → s.hw.seqSt ≠ 4 → (∀ c : CoreId, s.hw.stillRuns c.val = false) → ∃ h a b,
        exec .standbyRequest s = s.leaves h ∧ h.seqSt = 4 ∧ h.k0.standbyReq = false ∧ h.k0.saved = some a ∧ a.qp0 = s.hw.qp 0 0 ∧
        a.qp2048 = s.hw.qp 1 0 ∧ a.win0 = s.hw.win 0 0 ∧ a.win1 = s.hw.win 1 0 ∧ h.k0.session = some b ∧
        s.hw.k0.session = some b ∧ ∀ d : DieId, s.hw.fusedDie d.val = false → (h.die d.val).sleep = .sleep)) ∧
    (s.hw.k0.standbyReq = true → (∀ c : CoreId, s.hw.pwr c.val = 0) → exec .standbyEntryTimeout s = s.leaves
      (((s.hw.updK fun k => { k with standbyReq := false }).setPg 39 0x012 0x04C 0).updPg 39 0x012 0x050 fun v =>
        setBit v 1 true)) ∧
    (s.hw.seqSt = 4 → s.hw.k0.wakeStep = 0 →
      let u := s.leaves (((s.hw.updK fun k => { k with wakeStep := 1 }).updPg 39 0x012 0x040 fun v => setFld v 4 0 31).updPg
        39 0x012 0x050 fun v => setBit v 0 true)
      (∀ t, (s.hw.macsec 0 t).isSome = true → exec (.standbyWake t) s = u) ∧
      (∀ t, s.hw.macsec 0 t = none → exec (.standbyWake t) s = s.leaves s.hw) ∧
      (s.hw.pg 39 0x012 0x054 ≠ 0 → exec .standbyWakeTimer s = u) ∧
      (s.hw.pg 39 0x012 0x054 = 0 → exec .standbyWakeTimer s = s.leaves s.hw))

/-- Through an open page, BLK_INJ_ARM arms a kind that its target takes, cancels with target 0, and refuses others,
and every write on a block without targets, with reason 3. AUDIT_REQUEST stores a request; AUDIT_SNAPSHOT of an
identity sets done, ok and the residual, and the audit event. ISLAND_ERROR resets the core of a live site, local
memory staying where nothing was under way, and a second one makes the site DEAD, cause 5, and without power.
LINK_CRC_FAILURE of a live link adds a replay and counts its lanes; LANE_RETIRE retires a lane whose count has
reached a threshold, not 0, of one end, and no other. MESH_HEADER_PARITY counts the error and drops the packet it
names, if any. PF_CLEAR leaves one CLEARED entry of sequence 0. -/
def Obligations.IntegrityAndRecords : Prop :=
  ∀ (s : State),
    (∀ (d : DieId) (b : BitVec 12) (v : W32) (k : Kind), s.pageOpen d.val b.toNat → kindOf d.val b.toNat = some k →
      let t := fld v 7 0
      let e := exec (.blkInjArm d b v) s
      (k.targets = false → e = s.leaves (s.hw.accErr d.val b.toNat 0x020 3)) ∧
      (k.targets = true →
        (t = 0 → e = s.leaves (s.hw.setPg d.val b.toNat 0x020 (setBit (v &&& 0x00FF0F00) 31 false))) ∧
        (t ≠ 0 → (injKinds k t).contains (fld v 11 8) = true → v.getLsbD 31 = true →
          ∃ h, e = s.leaves h ∧ (h.pg d.val b.toNat 0x020).getLsbD 31 = true ∧ fld (h.pg d.val b.toNat 0x020) 7 0 = t ∧
            fld (h.pg d.val b.toNat 0x020) 11 8 = fld v 11 8 ∧ fld (h.pg d.val b.toNat 0x020) 23 16 = fld v 23 16 ∧
            h.cores = s.hw.cores) ∧
        (t ≠ 0 → (injKinds k t).contains (fld v 11 8) = false → e = s.leaves (s.hw.accErr d.val b.toNat 0x020 3))) ∧
      exec (.auditRequest d b v) s = s.leaves
        { s.hw.updPg d.val b.toNat 0x02C fun old => (old &&& 0x7FF00000) ||| (v &&& 0x000FFFFF) with
          audits := auditKey d.val b.toNat :: s.hw.audits.filter fun x => x != auditKey d.val b.toNat }) ∧
    (∀ (d : DieId) (b : BitVec 12) (l r : Int), s.hw.audits.contains (auditKey d.val b.toNat) = true →
      let v := s.hw.pg d.val b.toNat 0x02C
      s.hw.identity d.val b.toNat (fld v 7 0) (fld v 19 8) = some (l, r) → ∃ h, exec (.auditSnapshot d b) s = s.leaves h ∧
        h.audits = s.hw.audits.filter (fun x => x != auditKey d.val b.toNat) ∧ let w := h.pg d.val b.toNat 0x02C
          (h.pg d.val b.toNat 0x010).getLsbD 1 = true ∧ w.getLsbD 31 = true ∧ fld w 19 0 = fld v 19 0 ∧ (fld v 7 0 ≠ 8 → (w.getLsbD 30 = true ↔ l = r)) ∧
          (fld v 7 0 = 8 → (w.getLsbD 30 = true ↔ l = r ∨ l - r = 1)) ∧
          ((-511 ≤ l - r ∧ l - r ≤ 511) → ((fld w 29 20 : Int) - (if 512 ≤ fld w 29 20 then 1024 else 0)) = l - r)) ∧
    (∀ (c : CoreId) (code : BitVec 8), s.hw.goneSite c.val = false → (s.hw.site c.val).powered = true → ∃ h,
      exec (.islandError c code) s = s.leaves h ∧ (h.core c.val).threads = [] ∧ (h.core c.val).islandErr = true ∧
      (s.hw.quietSlots c.val = true → (∀ i is, (s.hw.core c.val).back = i :: is → i.kind ≠ .rowred2 ∨ i.started = none) →
        (h.core c.val).lmem = (s.hw.core c.val).lmem) ∧
      ((s.hw.core c.val).islandErr = false → h.site c.val = s.hw.site c.val) ∧
      ((s.hw.core c.val).islandErr = true → (h.site c.val).st = .dead ∧ (h.site c.val).cause = 5 ∧
        (h.site c.val).powered = false) ∧
      ∀ e : CoreId, e ≠ c → h.core e.val = s.hw.core e.val) ∧
    (∀ (n : Fin 320) (lanes : List (Fin 68)), (linkPeer n.val).isSome = true → s.hw.linkFused n.val = false →
      (s.hw.link n.val).dead = false → exec (.linkCrcFailure n lanes) s = s.leaves (s.hw.updLink n.val fun l =>
        { l with replays := satAdd 32 l.replays 1
                 laneErrs := (lanes.map fun x => x.val).foldl (fun t i => upd t i 0 fun v => v + 1) l.laneErrs })) ∧
    (∀ (n : Fin 320) (lane : Fin 68) (p : Nat × Nat × Nat), linkPeer n.val = some p → s.hw.linkFused n.val = false →
      let l := s.hw.link n.val
      let reached := fun d => 0 < s.hw.linkThr d ∧ s.hw.linkThr d ≤ lookD l.laneErrs lane.val 0
      l.dead = false → l.retired.getLsbD lane.val = false →
      (reached (n.val / 16) ∨ reached p.1 → ∃ h, exec (.laneRetire n lane) s = s.leaves h ∧
        (h.link n.val).retired = l.retired ||| BitVec.ofNat 68 (2 ^ lane.val) ∧ look (h.link n.val).laneErrs lane.val = none ∧
        h.cores = s.hw.cores) ∧
      (¬reached (n.val / 16) → ¬reached p.1 →
        exec (.laneRetire n lane) s = s.leaves s.hw)) ∧
    (∀ (d : Fin 20) (x : MeshErr), let e := exec (.meshHeaderParity d x) s
      let note := fun h : Hw => (h.errCount d.val 0x100 4).pf 0x12 d.val 0x100 (pack 32 [(8, x.site.val), (0, x.inPort.val)])
        (BitVec.ofNat 32 x.queue.val)
      (x.lost = none → e = s.leaves (note s.hw)) ∧ ∀ i : Nat, x.lost = some i →
      (x.queue = 0 → e = s.leaves (note { s.hw with reqs := s.hw.reqs.filter fun r => r.id != i })) ∧
      (x.queue = 1 → e = s.leaves (note { s.hw with rsps := s.hw.rsps.filter fun r => r.id != i })) ∧
      (∀ p : Pkt, x.queue ≠ 0 → x.queue ≠ 1 → s.hw.flight[i]? = some p → let h := note { s.hw with flight := s.hw.flight.eraseIdx i }
        e = s.leaves (match p.body.structure with
          | some (code, j) => h.creditFault d.val 0x100 code j
          | none => h))) ∧
    (s.pageOpen 39 0x032 → ∃ h, exec .pfClear s = s.leaves h ∧ h.k0.pfTotal = 1 ∧ ∃ e, h.k0.pf = [(0, e)] ∧ e.seq = 0 ∧
      e.code = 0x3F)

/-- Through an open page, FLASH_READ at a legal address, and FLASH_PROGRAM and FLASH_ERASE at one outside the guarded
bytes, start and set busy when no command runs; they are refused with reason 3 for the address and with reason 4
otherwise. FLASH_COMPLETE of a READ fills the buffer, of a verified PROGRAM stores it, of an ERASE sets 0xFF.
CAP_COMPARISON shows what it measured and steps the cap level up above a cap, down after ten comparisons at 95 per
cent. THERMAL_SAMPLE of one reading at or above hi raises a fresh island level; a second reading in a row of 115 C,
or by GDDR_TEMP_READ a device at 100 C, trips. I2C_READ answers; I2C_WRITE is acknowledged and ignored. BYPASS,
IDCODE and SAMPLE_PRELOAD select their register; EXTEST, CLAMP and HIGHZ act only while rst_n is low. REGISTER_WRITE
by K0 at an open page: the header event words clear, RO is refused with reason 1, unassigned pages and reserved
offsets ignore it, a link register takes its bits; one to a sleeping die changes nothing. -/
def Obligations.FlashPowerSidebandAndPages : Prop :=
  ∀ (s : State),
    (s.pageOpen 39 0x014 → let a := fld (s.hw.pg 39 0x014 0x040) 25 0
      let free := s.hw.flashBusy = false ∧ s.hw.seqSt ≠ 0 ∧ s.hw.k0.wakeStep = 0
      let go := fun op => s.leaves ((s.hw.updK fun k => { k with flashOp := some op }).updPg 39 0x014 0x048 fun v => setBit v 31 true)
      let no := fun r => s.leaves (s.hw.accErr 39 0x014 0x044 r)
      (a + 256 ≤ 0x4000000 → free → exec .flashRead s = go .read) ∧ (0x4000000 < a + 256 → exec .flashRead s = no 3) ∧
      (a + 256 ≤ 0x4000000 → ¬free → exec .flashRead s = no 4) ∧
      (a % 256 = 0 → free → flashGuarded a = false → exec .flashProgram s = go .program) ∧
      (a % 256 ≠ 0 → exec .flashProgram s = no 3) ∧ (a % 4096 = 0 → free → flashGuarded a = false → exec .flashErase s = go .erase) ∧
      (a % 4096 ≠ 0 → exec .flashErase s = no 3) ∧
      (a % 4096 = 0 → (¬free ∨ flashGuarded a = true) → exec .flashErase s = no 4 ∧ exec .flashProgram s = no 4)) ∧
    (∀ ok, let a := s.hw.flashAddr
      let fin := fun (t : Tab Byte) => s.leaves ((s.hw.updK fun k => { k with flash := t, flashOp := none }).setPg 39 0x014 0x048 1)
      (s.hw.k0.flashOp = none → exec (.flashComplete ok) s = s.leaves s.hw) ∧
      (s.hw.k0.flashOp = some .read → ∃ h, exec (.flashComplete ok) s = s.leaves h ∧ h.k0.flash = s.hw.k0.flash ∧
        h.k0.flashOp = none ∧ h.pg 39 0x014 0x048 = 1 ∧
        ∀ i < 64, h.pg 39 0x014 (0x100 + 4 * i) = BitVec.ofNat 32 (leNat (s.hw.k0.flashRead (a + 4 * i) 4))) ∧
      (s.hw.k0.flashOp = some .program → ok = true →
        exec (.flashComplete ok) s = fin (flashSetN s.hw.k0.flash a s.hw.flashBuf)) ∧
      (s.hw.k0.flashOp = some .erase →
        exec (.flashComplete ok) s = fin (flashSetN s.hw.k0.flash a (List.replicate 4096 0xFF)))) ∧
    (∀ vin iin pin : BitVec 16, s.hw.powered = true → ∃ h, exec (.capComparison vin iin pin) s = s.leaves h ∧
      h.pg 39 0x112 0x0C0 = vin.setWidth 32 ∧ h.pg 39 0x112 0x0C4 = iin.setWidth 32 ∧ h.pg 39 0x112 0x0C8 = pin.setWidth 32 ∧
      let pc := min (s.hw.pg 39 0x112 0x0CC).toNat (pCapMax s.hw.variant)
      let ic := iCap s.hw.variant
      let old := s.hw.k0.capLevel.val
      (pc < pin.toNat ∨ ic < iin.toNat → h.k0.capLevel.val = min 7 (old + 1) ∧ h.k0.belowCap = 0) ∧
      (pin.toNat * 100 ≤ pc * 95 → iin.toNat * 100 ≤ ic * 95 →
        (s.hw.k0.belowCap < 9 → h.k0.capLevel.val = old ∧ h.k0.belowCap = s.hw.k0.belowCap + 1) ∧
        (9 ≤ s.hw.k0.belowCap → h.k0.capLevel.val = old - 1 ∧ h.k0.belowCap = 0))) ∧
    (∀ r : TempReading, s.hw.powered = true → s.hw.k0.trip = none → let n := 256 * r.die.val + r.unit.toNat
      let was := (lookD s.hw.sensors n { val := 0 }).hot
      ∃ h, exec (.thermalSample [r]) s = s.leaves h ∧
        (r.val < 1840 ∨ was = false → h.k0.trip = none ∧ lookD h.sensors n { val := 0 } = { val := r.val, hot := decide (1840 ≤ r.val) } ∧
          (r.die.val < 20 → (s.hw.throttle n).hold ≤ 1 → s.hw.thermHi r.die.val ≤ r.val →
            (h.throttle n).level.val = min 7 ((s.hw.throttle n).level.val + 1))) ∧
        (1840 ≤ r.val → was = true → h.k0.trip = some s.hw.now ∧ h.pins.pwrgd = false ∧ h.seqSt = 2)) ∧
    (∀ (m : Fin 16) (ts : List Int), s.hw.powered = true → s.hw.fused (20 + m.val) 0x112 = false → s.hw.k0.trip = none →
      ∃ h, exec (.gddrTempRead m ts) s = s.leaves h ∧ (h.mem m.val).gddrTemps = ts ∧
        (h.k0.trip = if ts.any (fun t => decide (1600 ≤ t)) then some s.hw.now else none)) ∧
    (s.hw.powered = true → ∀ a v, exec (.i2cRead a) s = s.leaves { s.hw with out := s.hw.out ++ [.i2c (s.hw.i2c a.toNat)] } ∧
      exec (.i2cWrite a v) s = s.leaves { s.hw with out := s.hw.out ++ [.i2cAck] }) ∧
    (let scan := fun (x y : Scan) (o : List Out) => s.leaves { s.hw with pins := { s.hw.pins with scan := x, acting := y }, out := s.hw.out ++ o };
      exec .bypass s = scan .bypass .bypass [.tdo [false]] ∧
      exec .idcode s = scan .idcode .idcode [.tdo ((List.range 32).map fun i => idcode.getLsbD i)] ∧
      exec .samplePreload s = scan .sample .sample [] ∧
      (s.hw.pins.rstLow = true → exec .extest s = scan .extest .extest [] ∧ exec .clamp s = scan .clamp .clamp [.tdo [false]] ∧
        exec .highz s = scan .highz .highz [.tdo [false]]) ∧
      (s.hw.pins.rstLow = false → exec .extest s = scan .extest .bypass [.tdo [false]] ∧
        exec .clamp s = scan .clamp .bypass [.tdo [false]] ∧ exec .highz s = scan .highz .bypass [.tdo [false]])) ∧
    ∀ (a : BitVec 48) (v : W32) (d b o : Nat), d < 40 → b < 4096 → o < 4096 → o % 4 = 0 →
      a.toNat = regBase + d * 2 ^ 24 + b * 2 ^ 12 + o → let e := exec (.registerWrite .k0 a v) s
      let g := { s.hw with nextId := s.hw.nextId + 1 }
      (s.hw.awake d = false → e = s.leaves s.hw) ∧
      (s.hw.awake d = true → kindOf d b = none ∨ s.hw.fused d b = true → e = s.leaves g) ∧
      (∀ k, s.hw.awake d = true → kindOf d b = some k → s.hw.noPage d b = false →
        (o = 0x010 ∨ o = 0x018 → e = s.leaves (g.updPg d b o fun x => x &&& ~~~v)) ∧
        (0x040 ≤ o → regAt s.hw.variant d b o = none → e = s.leaves g) ∧
        (∀ r, 0x040 ≤ o → regAt s.hw.variant d b o = some r → k ≠ .core →
          (r.acc = .ro → e = s.leaves (g.accErr d b o 1)) ∧
          (r.acc ≠ .ro → k = .link → e = s.leaves (g.updPg d b o fun x => (x &&& ~~~r.mask) ||| (v &&& r.mask)))))
end

