-- ==== Sys2Proof/Laws/Tab.lean ====
section
/-! SUPPORT. The laws of the sparse tables and of the byte memories: reads after writes, and the canonical form. -/

namespace Sys2Proof.Machine

variable {α : Type}

/-! ### Tables -/

@[simp] theorem look_nil (n : Nat) : look ([] : Tab α) n = none := rfl

theorem look_none {t : Tab α} {n : Nat} (h : ∀ p ∈ t, p.1 ≠ n) : look t n = none := by
  induction t with
  | nil => rfl
  | cons x r ih =>
    have hx := h x (by simp)
    have hr := ih fun p hp => h p (by simp [hp])
    obtain ⟨k, w⟩ := x
    simp only [look]
    split
    · rename_i e; exact absurd e.symm hx
    · exact hr

@[simp] theorem look_put_self (t : Tab α) (n : Nat) (v : α) : look (put t n v) n = some v := by
  induction t with
  | nil => simp [put, look]
  | cons x r ih =>
    obtain ⟨k, w⟩ := x
    simp only [put]
    split
    · simp [look]
    · split
      · simp [look]
      · simp_all [look]

@[simp] theorem look_put_of_ne (t : Tab α) (n m : Nat) (v : α) (h : m ≠ n) : look (put t n v) m = look t m := by
  induction t with
  | nil => simp [put, look, h]
  | cons x r ih =>
    obtain ⟨k, w⟩ := x
    simp only [put]
    split
    · simp [look, h]
    · split
      · subst_vars; simp [look, h]
      · simp [look, ih]

@[simp] theorem look_del_self (t : Tab α) (n : Nat) : look (del t n) n = none := by
  induction t with
  | nil => rfl
  | cons x r ih =>
    obtain ⟨k, w⟩ := x
    simp only [del]
    split
    · exact ih
    · simp_all [look]

@[simp] theorem look_del_of_ne (t : Tab α) (n m : Nat) (h : m ≠ n) : look (del t n) m = look t m := by
  induction t with
  | nil => rfl
  | cons x r ih =>
    obtain ⟨k, w⟩ := x
    simp only [del]
    split
    · subst_vars; simp [look, h, ih]
    · simp [look, ih]

@[simp] theorem lookD_nil (n : Nat) (d : α) : lookD [] n d = d := rfl
@[simp] theorem lookD_put_self (t : Tab α) (n : Nat) (v d : α) : lookD (put t n v) n d = v := by simp [lookD]
@[simp] theorem lookD_put_of_ne (t : Tab α) (n m : Nat) (v d : α) (h : m ≠ n) : lookD (put t n v) m d = lookD t m d := by
  simp [lookD, h]
@[simp] theorem lookD_del_self (t : Tab α) (n : Nat) (d : α) : lookD (del t n) n d = d := by simp [lookD]
@[simp] theorem lookD_del_of_ne (t : Tab α) (n m : Nat) (d : α) (h : m ≠ n) : lookD (del t n) m d = lookD t m d := by
  simp [lookD, h]
@[simp] theorem lookD_upd_self (t : Tab α) (n : Nat) (d : α) (f : α → α) : lookD (upd t n d f) n d = f (lookD t n d) := by
  simp [upd]
@[simp] theorem lookD_upd_of_ne (t : Tab α) (n m : Nat) (d e : α) (f : α → α) (h : m ≠ n) :
    lookD (upd t n d f) m e = lookD t m e := by
  simp [upd, h]

/-- A read after a write: the value written at its key, the old value at every other. -/
theorem lookD_put (t : Tab α) (n m : Nat) (v d : α) : lookD (put t n v) m d = if m = n then v else lookD t m d := by
  by_cases h : m = n <;> simp [h]

/-- The later of two writes at one key stands. -/
@[simp] theorem put_put (t : Tab α) (n : Nat) (v w : α) : put (put t n v) n w = put t n w := by
  induction t with
  | nil => simp [put]
  | cons x r ih =>
    obtain ⟨k, u⟩ := x
    simp only [put]
    split
    · simp [put]
    · split
      · simp [put]
      · rename_i h1 h2
        simp [put, h1, h2, ih]

/-! ### The order of keys -/

/-- Every key of the table is above `n`. -/
def above (n : Nat) (t : Tab α) : Prop := ∀ x ∈ t, n < x.1

/-- A sorted table: its first key is below every other, and the rest is sorted. -/
theorem sorted_cons (k : Nat) (v : α) (t : Tab α) : sorted ((k, v) :: t) = true ↔ above k t ∧ sorted t = true := by
  induction t generalizing k v with
  | nil => simp [sorted, above]
  | cons x r ih =>
    obtain ⟨l, w⟩ := x
    simp only [sorted, Bool.and_eq_true, decide_eq_true_eq]
    constructor
    · rintro ⟨h, hs⟩
      refine ⟨fun y hy => ?_, hs⟩
      rcases List.mem_cons.mp hy with rfl | hy
      · exact h
      · exact Nat.lt_trans h (((ih l w).mp hs).1 y hy)
    · rintro ⟨h, hs⟩
      exact ⟨h (l, w) (List.mem_cons_self ..), hs⟩

theorem above_put {t : Tab α} {k n : Nat} {v : α} (h : above k t) (hk : k < n) : above k (put t n v) := by
  induction t with
  | nil => intro x hx; simp [put] at hx; simpa [hx] using hk
  | cons x r ih =>
    obtain ⟨l, w⟩ := x
    have hr : above k r := fun y hy => h y (List.mem_cons_of_mem _ hy)
    have hl : k < l := h (l, w) (List.mem_cons_self ..)
    simp only [put]
    split
    · intro y hy
      rcases List.mem_cons.mp hy with rfl | hy
      · exact hk
      · exact h y hy
    · split
      · intro y hy
        rcases List.mem_cons.mp hy with rfl | hy
        · exact hk
        · exact hr y hy
      · intro y hy
        rcases List.mem_cons.mp hy with rfl | hy
        · exact hl
        · exact ih hr y hy

theorem above_del {t : Tab α} {k n : Nat} (h : above k t) : above k (del t n) := by
  induction t with
  | nil => exact h
  | cons x r ih =>
    obtain ⟨l, w⟩ := x
    have hr : above k r := fun y hy => h y (List.mem_cons_of_mem _ hy)
    simp only [del]
    split
    · exact ih hr
    · intro y hy
      rcases List.mem_cons.mp hy with rfl | hy
      · exact h _ (List.mem_cons_self ..)
      · exact ih hr y hy

/-- A write keeps the keys rising. -/
theorem sorted_put {t : Tab α} {n : Nat} {v : α} (h : sorted t = true) : sorted (put t n v) = true := by
  induction t with
  | nil => rfl
  | cons x r ih =>
    obtain ⟨k, w⟩ := x
    obtain ⟨ha, hs⟩ := (sorted_cons k w r).mp h
    simp only [put]
    split
    · rename_i hk
      refine (sorted_cons _ _ _).mpr ⟨fun y hy => ?_, h⟩
      rcases List.mem_cons.mp hy with rfl | hy
      · exact hk
      · exact Nat.lt_trans hk (ha y hy)
    · split
      · subst_vars
        exact (sorted_cons _ _ _).mpr ⟨ha, hs⟩
      · exact (sorted_cons _ _ _).mpr ⟨above_put ha (by omega), ih hs⟩

/-- A removal keeps the keys rising. -/
theorem sorted_del {t : Tab α} {n : Nat} (h : sorted t = true) : sorted (del t n) = true := by
  induction t with
  | nil => rfl
  | cons x r ih =>
    obtain ⟨k, w⟩ := x
    obtain ⟨ha, hs⟩ := (sorted_cons k w r).mp h
    simp only [del]
    split
    · exact ih hs
    · exact (sorted_cons _ _ _).mpr ⟨above_del ha, ih hs⟩

theorem mem_put {t : Tab α} {n : Nat} {v : α} {x : Nat × α} (h : x ∈ put t n v) : x = (n, v) ∨ x ∈ t := by
  induction t with
  | nil => simpa [put] using h
  | cons y r ih =>
    obtain ⟨k, w⟩ := y
    simp only [put] at h
    split at h
    · simpa using h
    · split at h
      · rcases List.mem_cons.mp h with h | h
        · exact .inl h
        · exact .inr (List.mem_cons_of_mem _ h)
      · rcases List.mem_cons.mp h with h | h
        · exact .inr (h ▸ List.mem_cons_self ..)
        · exact (ih h).imp_right (List.mem_cons_of_mem _)

theorem mem_del {t : Tab α} {n : Nat} {x : Nat × α} (h : x ∈ del t n) : x ∈ t := by
  induction t with
  | nil => exact h
  | cons y r ih =>
    obtain ⟨k, w⟩ := y
    simp only [del] at h
    split at h
    · exact List.mem_cons_of_mem _ (ih h)
    · rcases List.mem_cons.mp h with h | h
      · exact h ▸ List.mem_cons_self ..
      · exact List.mem_cons_of_mem _ (ih h)

/-! ### Memories -/

theorem Memory.wf_iff (m : Memory) : m.wf = true ↔ sorted m = true ∧ ∀ x ∈ m, x.2 ≠ 0 := by
  simp [Memory.wf]

@[simp] theorem Memory.wf_nil : Memory.wf [] = true := rfl

/-- A write of one byte keeps the canonical form. -/
theorem Memory.wf_write {m : Memory} (h : m.wf = true) (a : Nat) (b : Byte) : (m.write a b).wf = true := by
  obtain ⟨hs, hz⟩ := (Memory.wf_iff m).mp h
  rw [Memory.wf_iff]
  unfold Memory.write
  split
  · exact ⟨sorted_del hs, fun x hx => hz x (mem_del hx)⟩
  · rename_i hb
    refine ⟨sorted_put hs, fun x hx => ?_⟩
    rcases mem_put hx with rfl | hx
    · exact hb
    · exact hz x hx

/-- A write of bytes keeps the canonical form. -/
theorem Memory.wf_writeN {m : Memory} (h : m.wf = true) (a : Nat) (bs : List Byte) : (m.writeN a bs).wf = true := by
  induction bs generalizing m a with
  | nil => exact h
  | cons b bs ih => exact ih (Memory.wf_write h a b) (a + 1)

/-- A filtered memory keeps rising addresses. -/
theorem above_filter {t : Tab α} {k : Nat} (p : Nat × α → Bool) (h : above k t) : above k (t.filter p) :=
  fun x hx => h x (List.mem_filter.mp hx).1

theorem sorted_filter {t : Tab α} (p : Nat × α → Bool) (h : sorted t = true) : sorted (t.filter p) = true := by
  induction t with
  | nil => rfl
  | cons x r ih =>
    obtain ⟨k, w⟩ := x
    obtain ⟨ha, hs⟩ := (sorted_cons k w r).mp h
    by_cases hp : p (k, w) = true
    · rw [List.filter_cons_of_pos hp]
      exact (sorted_cons _ _ _).mpr ⟨above_filter p ha, ih hs⟩
    · rw [List.filter_cons_of_neg hp]
      exact ih hs

/-- New values at the same addresses keep them rising. -/
theorem sorted_map {t : Tab α} {β : Type} (f : Nat → α → β) (h : sorted t = true) :
    sorted (t.map fun x => (x.1, f x.1 x.2)) = true := by
  induction t with
  | nil => rfl
  | cons x r ih =>
    obtain ⟨k, w⟩ := x
    obtain ⟨ha, hs⟩ := (sorted_cons k w r).mp h
    refine (sorted_cons _ _ _).mpr ⟨fun y hy => ?_, ih hs⟩
    obtain ⟨z, hz, rfl⟩ := List.mem_map.mp hy
    exact ha z hz

/-- Bytes replaced, and those that became 0 unlisted, keep the canonical form: power loss and a new key (R236, R480). -/
theorem Memory.wf_remap {m : Memory} (h : m.wf = true) (f : Nat → Byte → Byte) :
    Memory.wf ((m.map fun x => (x.1, f x.1 x.2)).filter fun x => x.2 != 0) = true := by
  rw [Memory.wf_iff]
  refine ⟨sorted_filter _ (sorted_map f ((Memory.wf_iff m).mp h).1), fun x hx => ?_⟩
  simpa using (List.mem_filter.mp hx).2

@[simp] theorem Memory.read_write_self (m : Memory) (a : Nat) (b : Byte) : (m.write a b).read a = b := by
  unfold Memory.write Memory.read
  split <;> simp_all

@[simp] theorem Memory.read_write_of_ne (m : Memory) (a c : Nat) (b : Byte) (h : c ≠ a) : (m.write a b).read c = m.read c := by
  unfold Memory.write Memory.read
  split <;> simp_all

/-- Bytes outside those written read as before. -/
theorem Memory.read_writeN_outside (m : Memory) (a c : Nat) (bs : List Byte) (h : c < a ∨ a + bs.length ≤ c) :
    (m.writeN a bs).read c = m.read c := by
  induction bs generalizing m a with
  | nil => rfl
  | cons b bs ih =>
    simp only [List.length_cons] at h
    rw [Memory.writeN, ih _ _ (by omega), Memory.read_write_of_ne _ _ _ _ (by omega)]

/-- The bytes written are read back. -/
theorem Memory.read_writeN_inside (m : Memory) (a : Nat) (bs : List Byte) (i : Nat) (h : i < bs.length) :
    (m.writeN a bs).read (a + i) = bs[i] := by
  induction bs generalizing m a i with
  | nil => exact absurd h (Nat.not_lt_zero i)
  | cons b bs ih =>
    cases i with
    | zero =>
      rw [Memory.writeN, Nat.add_zero, Memory.read_writeN_outside _ _ _ _ (by omega)]
      simp
    | succ i =>
      rw [Memory.writeN, show a + (i + 1) = (a + 1) + i by omega, ih _ _ i (by simpa using h)]
      simp

@[simp] theorem Memory.length_readN (m : Memory) (a n : Nat) : (m.readN a n).length = n := by
  induction n generalizing a with
  | zero => rfl
  | succ n ih => simp [Memory.readN, ih]

theorem Memory.getElem_readN (m : Memory) (a n i : Nat) (h : i < (m.readN a n).length) :
    (m.readN a n)[i] = m.read (a + i) := by
  induction n generalizing a i with
  | zero => simp [Memory.readN] at h
  | succ n ih =>
    cases i with
    | zero => simp [Memory.readN]
    | succ i => simp only [Memory.readN, List.getElem_cons_succ, ih]; congr 1; omega

/-- What is written is read back. -/
theorem Memory.readN_writeN (m : Memory) (a : Nat) (bs : List Byte) : (m.writeN a bs).readN a bs.length = bs := by
  apply List.ext_getElem (by simp)
  intro i h1 h2
  rw [Memory.getElem_readN, Memory.read_writeN_inside _ _ _ _ h2]

end Sys2Proof.Machine
end

