-- ==== Sys2Proof/Laws/State.lean ====
section
/-! SUPPORT. One lemma per field per update: an update of one part of the hardware, a core or a thread leaves every other
field as it was, and what it writes is read back. -/

namespace Sys2Proof.Machine

/-! ### setCore -/

@[simp] theorem Hw.setCore_variant (h : Hw) (c : Nat) (k : Core) : (h.setCore c k).variant = h.variant := rfl
@[simp] theorem Hw.setCore_now (h : Hw) (c : Nat) (k : Core) : (h.setCore c k).now = h.now := rfl
@[simp] theorem Hw.setCore_free (h : Hw) (c : Nat) (k : Core) : (h.setCore c k).free = h.free := rfl
@[simp] theorem Hw.setCore_nextId (h : Hw) (c : Nat) (k : Core) : (h.setCore c k).nextId = h.nextId := rfl
@[simp] theorem Hw.setCore_flitMark (h : Hw) (c : Nat) (k : Core) : (h.setCore c k).flitMark = h.flitMark := rfl
@[simp] theorem Hw.setCore_powered (h : Hw) (c : Nat) (k : Core) : (h.setCore c k).powered = h.powered := rfl
@[simp] theorem Hw.setCore_regs (h : Hw) (c : Nat) (k : Core) : (h.setCore c k).regs = h.regs := rfl
@[simp] theorem Hw.setCore_sites (h : Hw) (c : Nat) (k : Core) : (h.setCore c k).sites = h.sites := rfl
@[simp] theorem Hw.setCore_rings (h : Hw) (c : Nat) (k : Core) : (h.setCore c k).rings = h.rings := rfl
@[simp] theorem Hw.setCore_chans (h : Hw) (c : Nat) (k : Core) : (h.setCore c k).chans = h.chans := rfl
@[simp] theorem Hw.setCore_dies (h : Hw) (c : Nat) (k : Core) : (h.setCore c k).dies = h.dies := rfl
@[simp] theorem Hw.setCore_mems (h : Hw) (c : Nat) (k : Core) : (h.setCore c k).mems = h.mems := rfl
@[simp] theorem Hw.setCore_engines (h : Hw) (c : Nat) (k : Core) : (h.setCore c k).engines = h.engines := rfl
@[simp] theorem Hw.setCore_units (h : Hw) (c : Nat) (k : Core) : (h.setCore c k).units = h.units := rfl
@[simp] theorem Hw.setCore_gddr (h : Hw) (c : Nat) (k : Core) : (h.setCore c k).gddr = h.gddr := rfl
@[simp] theorem Hw.setCore_cxlMem (h : Hw) (c : Nat) (k : Core) : (h.setCore c k).cxlMem = h.cxlMem := rfl
@[simp] theorem Hw.setCore_cxlPoison (h : Hw) (c : Nat) (k : Core) : (h.setCore c k).cxlPoison = h.cxlPoison := rfl
@[simp] theorem Hw.setCore_cxlPorts (h : Hw) (c : Nat) (k : Core) : (h.setCore c k).cxlPorts = h.cxlPorts := rfl
@[simp] theorem Hw.setCore_nets (h : Hw) (c : Nat) (k : Core) : (h.setCore c k).nets = h.nets := rfl
@[simp] theorem Hw.setCore_ports (h : Hw) (c : Nat) (k : Core) : (h.setCore c k).ports = h.ports := rfl
@[simp] theorem Hw.setCore_links (h : Hw) (c : Nat) (k : Core) : (h.setCore c k).links = h.links := rfl
@[simp] theorem Hw.setCore_audits (h : Hw) (c : Nat) (k : Core) : (h.setCore c k).audits = h.audits := rfl
@[simp] theorem Hw.setCore_flight (h : Hw) (c : Nat) (k : Core) : (h.setCore c k).flight = h.flight := rfl
@[simp] theorem Hw.setCore_reqs (h : Hw) (c : Nat) (k : Core) : (h.setCore c k).reqs = h.reqs := rfl
@[simp] theorem Hw.setCore_rsps (h : Hw) (c : Nat) (k : Core) : (h.setCore c k).rsps = h.rsps := rfl
@[simp] theorem Hw.setCore_out (h : Hw) (c : Nat) (k : Core) : (h.setCore c k).out = h.out := rfl
@[simp] theorem Hw.setCore_sensors (h : Hw) (c : Nat) (k : Core) : (h.setCore c k).sensors = h.sensors := rfl
@[simp] theorem Hw.setCore_levels (h : Hw) (c : Nat) (k : Core) : (h.setCore c k).levels = h.levels := rfl
@[simp] theorem Hw.setCore_k0 (h : Hw) (c : Nat) (k : Core) : (h.setCore c k).k0 = h.k0 := rfl
@[simp] theorem Hw.setCore_pins (h : Hw) (c : Nat) (k : Core) : (h.setCore c k).pins = h.pins := rfl

/-! ### updC -/

@[simp] theorem Hw.updC_variant (h : Hw) (c : Nat) (f : Core → Core) : (h.updC c f).variant = h.variant := rfl
@[simp] theorem Hw.updC_now (h : Hw) (c : Nat) (f : Core → Core) : (h.updC c f).now = h.now := rfl
@[simp] theorem Hw.updC_free (h : Hw) (c : Nat) (f : Core → Core) : (h.updC c f).free = h.free := rfl
@[simp] theorem Hw.updC_nextId (h : Hw) (c : Nat) (f : Core → Core) : (h.updC c f).nextId = h.nextId := rfl
@[simp] theorem Hw.updC_flitMark (h : Hw) (c : Nat) (f : Core → Core) : (h.updC c f).flitMark = h.flitMark := rfl
@[simp] theorem Hw.updC_powered (h : Hw) (c : Nat) (f : Core → Core) : (h.updC c f).powered = h.powered := rfl
@[simp] theorem Hw.updC_regs (h : Hw) (c : Nat) (f : Core → Core) : (h.updC c f).regs = h.regs := rfl
@[simp] theorem Hw.updC_sites (h : Hw) (c : Nat) (f : Core → Core) : (h.updC c f).sites = h.sites := rfl
@[simp] theorem Hw.updC_rings (h : Hw) (c : Nat) (f : Core → Core) : (h.updC c f).rings = h.rings := rfl
@[simp] theorem Hw.updC_chans (h : Hw) (c : Nat) (f : Core → Core) : (h.updC c f).chans = h.chans := rfl
@[simp] theorem Hw.updC_dies (h : Hw) (c : Nat) (f : Core → Core) : (h.updC c f).dies = h.dies := rfl
@[simp] theorem Hw.updC_mems (h : Hw) (c : Nat) (f : Core → Core) : (h.updC c f).mems = h.mems := rfl
@[simp] theorem Hw.updC_engines (h : Hw) (c : Nat) (f : Core → Core) : (h.updC c f).engines = h.engines := rfl
@[simp] theorem Hw.updC_units (h : Hw) (c : Nat) (f : Core → Core) : (h.updC c f).units = h.units := rfl
@[simp] theorem Hw.updC_gddr (h : Hw) (c : Nat) (f : Core → Core) : (h.updC c f).gddr = h.gddr := rfl
@[simp] theorem Hw.updC_cxlMem (h : Hw) (c : Nat) (f : Core → Core) : (h.updC c f).cxlMem = h.cxlMem := rfl
@[simp] theorem Hw.updC_cxlPoison (h : Hw) (c : Nat) (f : Core → Core) : (h.updC c f).cxlPoison = h.cxlPoison := rfl
@[simp] theorem Hw.updC_cxlPorts (h : Hw) (c : Nat) (f : Core → Core) : (h.updC c f).cxlPorts = h.cxlPorts := rfl
@[simp] theorem Hw.updC_nets (h : Hw) (c : Nat) (f : Core → Core) : (h.updC c f).nets = h.nets := rfl
@[simp] theorem Hw.updC_ports (h : Hw) (c : Nat) (f : Core → Core) : (h.updC c f).ports = h.ports := rfl
@[simp] theorem Hw.updC_links (h : Hw) (c : Nat) (f : Core → Core) : (h.updC c f).links = h.links := rfl
@[simp] theorem Hw.updC_audits (h : Hw) (c : Nat) (f : Core → Core) : (h.updC c f).audits = h.audits := rfl
@[simp] theorem Hw.updC_flight (h : Hw) (c : Nat) (f : Core → Core) : (h.updC c f).flight = h.flight := rfl
@[simp] theorem Hw.updC_reqs (h : Hw) (c : Nat) (f : Core → Core) : (h.updC c f).reqs = h.reqs := rfl
@[simp] theorem Hw.updC_rsps (h : Hw) (c : Nat) (f : Core → Core) : (h.updC c f).rsps = h.rsps := rfl
@[simp] theorem Hw.updC_out (h : Hw) (c : Nat) (f : Core → Core) : (h.updC c f).out = h.out := rfl
@[simp] theorem Hw.updC_sensors (h : Hw) (c : Nat) (f : Core → Core) : (h.updC c f).sensors = h.sensors := rfl
@[simp] theorem Hw.updC_levels (h : Hw) (c : Nat) (f : Core → Core) : (h.updC c f).levels = h.levels := rfl
@[simp] theorem Hw.updC_k0 (h : Hw) (c : Nat) (f : Core → Core) : (h.updC c f).k0 = h.k0 := rfl
@[simp] theorem Hw.updC_pins (h : Hw) (c : Nat) (f : Core → Core) : (h.updC c f).pins = h.pins := rfl

/-! ### updT -/

@[simp] theorem Hw.updT_variant (h : Hw) (c : CoreId) (t : Tid) (f : Thread → Thread) : (h.updT c t f).variant = h.variant := rfl
@[simp] theorem Hw.updT_now (h : Hw) (c : CoreId) (t : Tid) (f : Thread → Thread) : (h.updT c t f).now = h.now := rfl
@[simp] theorem Hw.updT_free (h : Hw) (c : CoreId) (t : Tid) (f : Thread → Thread) : (h.updT c t f).free = h.free := rfl
@[simp] theorem Hw.updT_nextId (h : Hw) (c : CoreId) (t : Tid) (f : Thread → Thread) : (h.updT c t f).nextId = h.nextId := rfl
@[simp] theorem Hw.updT_flitMark (h : Hw) (c : CoreId) (t : Tid) (f : Thread → Thread) : (h.updT c t f).flitMark = h.flitMark := rfl
@[simp] theorem Hw.updT_powered (h : Hw) (c : CoreId) (t : Tid) (f : Thread → Thread) : (h.updT c t f).powered = h.powered := rfl
@[simp] theorem Hw.updT_regs (h : Hw) (c : CoreId) (t : Tid) (f : Thread → Thread) : (h.updT c t f).regs = h.regs := rfl
@[simp] theorem Hw.updT_sites (h : Hw) (c : CoreId) (t : Tid) (f : Thread → Thread) : (h.updT c t f).sites = h.sites := rfl
@[simp] theorem Hw.updT_rings (h : Hw) (c : CoreId) (t : Tid) (f : Thread → Thread) : (h.updT c t f).rings = h.rings := rfl
@[simp] theorem Hw.updT_chans (h : Hw) (c : CoreId) (t : Tid) (f : Thread → Thread) : (h.updT c t f).chans = h.chans := rfl
@[simp] theorem Hw.updT_dies (h : Hw) (c : CoreId) (t : Tid) (f : Thread → Thread) : (h.updT c t f).dies = h.dies := rfl
@[simp] theorem Hw.updT_mems (h : Hw) (c : CoreId) (t : Tid) (f : Thread → Thread) : (h.updT c t f).mems = h.mems := rfl
@[simp] theorem Hw.updT_engines (h : Hw) (c : CoreId) (t : Tid) (f : Thread → Thread) : (h.updT c t f).engines = h.engines := rfl
@[simp] theorem Hw.updT_units (h : Hw) (c : CoreId) (t : Tid) (f : Thread → Thread) : (h.updT c t f).units = h.units := rfl
@[simp] theorem Hw.updT_gddr (h : Hw) (c : CoreId) (t : Tid) (f : Thread → Thread) : (h.updT c t f).gddr = h.gddr := rfl
@[simp] theorem Hw.updT_cxlMem (h : Hw) (c : CoreId) (t : Tid) (f : Thread → Thread) : (h.updT c t f).cxlMem = h.cxlMem := rfl
@[simp] theorem Hw.updT_cxlPoison (h : Hw) (c : CoreId) (t : Tid) (f : Thread → Thread) : (h.updT c t f).cxlPoison = h.cxlPoison := rfl
@[simp] theorem Hw.updT_cxlPorts (h : Hw) (c : CoreId) (t : Tid) (f : Thread → Thread) : (h.updT c t f).cxlPorts = h.cxlPorts := rfl
@[simp] theorem Hw.updT_nets (h : Hw) (c : CoreId) (t : Tid) (f : Thread → Thread) : (h.updT c t f).nets = h.nets := rfl
@[simp] theorem Hw.updT_ports (h : Hw) (c : CoreId) (t : Tid) (f : Thread → Thread) : (h.updT c t f).ports = h.ports := rfl
@[simp] theorem Hw.updT_links (h : Hw) (c : CoreId) (t : Tid) (f : Thread → Thread) : (h.updT c t f).links = h.links := rfl
@[simp] theorem Hw.updT_audits (h : Hw) (c : CoreId) (t : Tid) (f : Thread → Thread) : (h.updT c t f).audits = h.audits := rfl
@[simp] theorem Hw.updT_flight (h : Hw) (c : CoreId) (t : Tid) (f : Thread → Thread) : (h.updT c t f).flight = h.flight := rfl
@[simp] theorem Hw.updT_reqs (h : Hw) (c : CoreId) (t : Tid) (f : Thread → Thread) : (h.updT c t f).reqs = h.reqs := rfl
@[simp] theorem Hw.updT_rsps (h : Hw) (c : CoreId) (t : Tid) (f : Thread → Thread) : (h.updT c t f).rsps = h.rsps := rfl
@[simp] theorem Hw.updT_out (h : Hw) (c : CoreId) (t : Tid) (f : Thread → Thread) : (h.updT c t f).out = h.out := rfl
@[simp] theorem Hw.updT_sensors (h : Hw) (c : CoreId) (t : Tid) (f : Thread → Thread) : (h.updT c t f).sensors = h.sensors := rfl
@[simp] theorem Hw.updT_levels (h : Hw) (c : CoreId) (t : Tid) (f : Thread → Thread) : (h.updT c t f).levels = h.levels := rfl
@[simp] theorem Hw.updT_k0 (h : Hw) (c : CoreId) (t : Tid) (f : Thread → Thread) : (h.updT c t f).k0 = h.k0 := rfl
@[simp] theorem Hw.updT_pins (h : Hw) (c : CoreId) (t : Tid) (f : Thread → Thread) : (h.updT c t f).pins = h.pins := rfl

/-! ### setPg -/

@[simp] theorem Hw.setPg_variant (h : Hw) (d b o : Nat) (v : W32) : (h.setPg d b o v).variant = h.variant := rfl
@[simp] theorem Hw.setPg_now (h : Hw) (d b o : Nat) (v : W32) : (h.setPg d b o v).now = h.now := rfl
@[simp] theorem Hw.setPg_free (h : Hw) (d b o : Nat) (v : W32) : (h.setPg d b o v).free = h.free := rfl
@[simp] theorem Hw.setPg_nextId (h : Hw) (d b o : Nat) (v : W32) : (h.setPg d b o v).nextId = h.nextId := rfl
@[simp] theorem Hw.setPg_flitMark (h : Hw) (d b o : Nat) (v : W32) : (h.setPg d b o v).flitMark = h.flitMark := rfl
@[simp] theorem Hw.setPg_powered (h : Hw) (d b o : Nat) (v : W32) : (h.setPg d b o v).powered = h.powered := rfl
@[simp] theorem Hw.setPg_cores (h : Hw) (d b o : Nat) (v : W32) : (h.setPg d b o v).cores = h.cores := rfl
@[simp] theorem Hw.setPg_sites (h : Hw) (d b o : Nat) (v : W32) : (h.setPg d b o v).sites = h.sites := rfl
@[simp] theorem Hw.setPg_rings (h : Hw) (d b o : Nat) (v : W32) : (h.setPg d b o v).rings = h.rings := rfl
@[simp] theorem Hw.setPg_chans (h : Hw) (d b o : Nat) (v : W32) : (h.setPg d b o v).chans = h.chans := rfl
@[simp] theorem Hw.setPg_dies (h : Hw) (d b o : Nat) (v : W32) : (h.setPg d b o v).dies = h.dies := rfl
@[simp] theorem Hw.setPg_mems (h : Hw) (d b o : Nat) (v : W32) : (h.setPg d b o v).mems = h.mems := rfl
@[simp] theorem Hw.setPg_engines (h : Hw) (d b o : Nat) (v : W32) : (h.setPg d b o v).engines = h.engines := rfl
@[simp] theorem Hw.setPg_units (h : Hw) (d b o : Nat) (v : W32) : (h.setPg d b o v).units = h.units := rfl
@[simp] theorem Hw.setPg_gddr (h : Hw) (d b o : Nat) (v : W32) : (h.setPg d b o v).gddr = h.gddr := rfl
@[simp] theorem Hw.setPg_cxlMem (h : Hw) (d b o : Nat) (v : W32) : (h.setPg d b o v).cxlMem = h.cxlMem := rfl
@[simp] theorem Hw.setPg_cxlPoison (h : Hw) (d b o : Nat) (v : W32) : (h.setPg d b o v).cxlPoison = h.cxlPoison := rfl
@[simp] theorem Hw.setPg_cxlPorts (h : Hw) (d b o : Nat) (v : W32) : (h.setPg d b o v).cxlPorts = h.cxlPorts := rfl
@[simp] theorem Hw.setPg_nets (h : Hw) (d b o : Nat) (v : W32) : (h.setPg d b o v).nets = h.nets := rfl
@[simp] theorem Hw.setPg_ports (h : Hw) (d b o : Nat) (v : W32) : (h.setPg d b o v).ports = h.ports := rfl
@[simp] theorem Hw.setPg_links (h : Hw) (d b o : Nat) (v : W32) : (h.setPg d b o v).links = h.links := rfl
@[simp] theorem Hw.setPg_audits (h : Hw) (d b o : Nat) (v : W32) : (h.setPg d b o v).audits = h.audits := rfl
@[simp] theorem Hw.setPg_flight (h : Hw) (d b o : Nat) (v : W32) : (h.setPg d b o v).flight = h.flight := rfl
@[simp] theorem Hw.setPg_reqs (h : Hw) (d b o : Nat) (v : W32) : (h.setPg d b o v).reqs = h.reqs := rfl
@[simp] theorem Hw.setPg_rsps (h : Hw) (d b o : Nat) (v : W32) : (h.setPg d b o v).rsps = h.rsps := rfl
@[simp] theorem Hw.setPg_out (h : Hw) (d b o : Nat) (v : W32) : (h.setPg d b o v).out = h.out := rfl
@[simp] theorem Hw.setPg_sensors (h : Hw) (d b o : Nat) (v : W32) : (h.setPg d b o v).sensors = h.sensors := rfl
@[simp] theorem Hw.setPg_levels (h : Hw) (d b o : Nat) (v : W32) : (h.setPg d b o v).levels = h.levels := rfl
@[simp] theorem Hw.setPg_k0 (h : Hw) (d b o : Nat) (v : W32) : (h.setPg d b o v).k0 = h.k0 := rfl
@[simp] theorem Hw.setPg_pins (h : Hw) (d b o : Nat) (v : W32) : (h.setPg d b o v).pins = h.pins := rfl

/-! ### updPg -/

@[simp] theorem Hw.updPg_variant (h : Hw) (d b o : Nat) (f : W32 → W32) : (h.updPg d b o f).variant = h.variant := rfl
@[simp] theorem Hw.updPg_now (h : Hw) (d b o : Nat) (f : W32 → W32) : (h.updPg d b o f).now = h.now := rfl
@[simp] theorem Hw.updPg_free (h : Hw) (d b o : Nat) (f : W32 → W32) : (h.updPg d b o f).free = h.free := rfl
@[simp] theorem Hw.updPg_nextId (h : Hw) (d b o : Nat) (f : W32 → W32) : (h.updPg d b o f).nextId = h.nextId := rfl
@[simp] theorem Hw.updPg_flitMark (h : Hw) (d b o : Nat) (f : W32 → W32) : (h.updPg d b o f).flitMark = h.flitMark := rfl
@[simp] theorem Hw.updPg_powered (h : Hw) (d b o : Nat) (f : W32 → W32) : (h.updPg d b o f).powered = h.powered := rfl
@[simp] theorem Hw.updPg_cores (h : Hw) (d b o : Nat) (f : W32 → W32) : (h.updPg d b o f).cores = h.cores := rfl
@[simp] theorem Hw.updPg_sites (h : Hw) (d b o : Nat) (f : W32 → W32) : (h.updPg d b o f).sites = h.sites := rfl
@[simp] theorem Hw.updPg_rings (h : Hw) (d b o : Nat) (f : W32 → W32) : (h.updPg d b o f).rings = h.rings := rfl
@[simp] theorem Hw.updPg_chans (h : Hw) (d b o : Nat) (f : W32 → W32) : (h.updPg d b o f).chans = h.chans := rfl
@[simp] theorem Hw.updPg_dies (h : Hw) (d b o : Nat) (f : W32 → W32) : (h.updPg d b o f).dies = h.dies := rfl
@[simp] theorem Hw.updPg_mems (h : Hw) (d b o : Nat) (f : W32 → W32) : (h.updPg d b o f).mems = h.mems := rfl
@[simp] theorem Hw.updPg_engines (h : Hw) (d b o : Nat) (f : W32 → W32) : (h.updPg d b o f).engines = h.engines := rfl
@[simp] theorem Hw.updPg_units (h : Hw) (d b o : Nat) (f : W32 → W32) : (h.updPg d b o f).units = h.units := rfl
@[simp] theorem Hw.updPg_gddr (h : Hw) (d b o : Nat) (f : W32 → W32) : (h.updPg d b o f).gddr = h.gddr := rfl
@[simp] theorem Hw.updPg_cxlMem (h : Hw) (d b o : Nat) (f : W32 → W32) : (h.updPg d b o f).cxlMem = h.cxlMem := rfl
@[simp] theorem Hw.updPg_cxlPoison (h : Hw) (d b o : Nat) (f : W32 → W32) : (h.updPg d b o f).cxlPoison = h.cxlPoison := rfl
@[simp] theorem Hw.updPg_cxlPorts (h : Hw) (d b o : Nat) (f : W32 → W32) : (h.updPg d b o f).cxlPorts = h.cxlPorts := rfl
@[simp] theorem Hw.updPg_nets (h : Hw) (d b o : Nat) (f : W32 → W32) : (h.updPg d b o f).nets = h.nets := rfl
@[simp] theorem Hw.updPg_ports (h : Hw) (d b o : Nat) (f : W32 → W32) : (h.updPg d b o f).ports = h.ports := rfl
@[simp] theorem Hw.updPg_links (h : Hw) (d b o : Nat) (f : W32 → W32) : (h.updPg d b o f).links = h.links := rfl
@[simp] theorem Hw.updPg_audits (h : Hw) (d b o : Nat) (f : W32 → W32) : (h.updPg d b o f).audits = h.audits := rfl
@[simp] theorem Hw.updPg_flight (h : Hw) (d b o : Nat) (f : W32 → W32) : (h.updPg d b o f).flight = h.flight := rfl
@[simp] theorem Hw.updPg_reqs (h : Hw) (d b o : Nat) (f : W32 → W32) : (h.updPg d b o f).reqs = h.reqs := rfl
@[simp] theorem Hw.updPg_rsps (h : Hw) (d b o : Nat) (f : W32 → W32) : (h.updPg d b o f).rsps = h.rsps := rfl
@[simp] theorem Hw.updPg_out (h : Hw) (d b o : Nat) (f : W32 → W32) : (h.updPg d b o f).out = h.out := rfl
@[simp] theorem Hw.updPg_sensors (h : Hw) (d b o : Nat) (f : W32 → W32) : (h.updPg d b o f).sensors = h.sensors := rfl
@[simp] theorem Hw.updPg_levels (h : Hw) (d b o : Nat) (f : W32 → W32) : (h.updPg d b o f).levels = h.levels := rfl
@[simp] theorem Hw.updPg_k0 (h : Hw) (d b o : Nat) (f : W32 → W32) : (h.updPg d b o f).k0 = h.k0 := rfl
@[simp] theorem Hw.updPg_pins (h : Hw) (d b o : Nat) (f : W32 → W32) : (h.updPg d b o f).pins = h.pins := rfl

/-! ### setCpg -/

@[simp] theorem Hw.setCpg_variant (h : Hw) (c o : Nat) (v : W32) : (h.setCpg c o v).variant = h.variant := rfl
@[simp] theorem Hw.setCpg_now (h : Hw) (c o : Nat) (v : W32) : (h.setCpg c o v).now = h.now := rfl
@[simp] theorem Hw.setCpg_free (h : Hw) (c o : Nat) (v : W32) : (h.setCpg c o v).free = h.free := rfl
@[simp] theorem Hw.setCpg_nextId (h : Hw) (c o : Nat) (v : W32) : (h.setCpg c o v).nextId = h.nextId := rfl
@[simp] theorem Hw.setCpg_flitMark (h : Hw) (c o : Nat) (v : W32) : (h.setCpg c o v).flitMark = h.flitMark := rfl
@[simp] theorem Hw.setCpg_powered (h : Hw) (c o : Nat) (v : W32) : (h.setCpg c o v).powered = h.powered := rfl
@[simp] theorem Hw.setCpg_cores (h : Hw) (c o : Nat) (v : W32) : (h.setCpg c o v).cores = h.cores := rfl
@[simp] theorem Hw.setCpg_sites (h : Hw) (c o : Nat) (v : W32) : (h.setCpg c o v).sites = h.sites := rfl
@[simp] theorem Hw.setCpg_rings (h : Hw) (c o : Nat) (v : W32) : (h.setCpg c o v).rings = h.rings := rfl
@[simp] theorem Hw.setCpg_chans (h : Hw) (c o : Nat) (v : W32) : (h.setCpg c o v).chans = h.chans := rfl
@[simp] theorem Hw.setCpg_dies (h : Hw) (c o : Nat) (v : W32) : (h.setCpg c o v).dies = h.dies := rfl
@[simp] theorem Hw.setCpg_mems (h : Hw) (c o : Nat) (v : W32) : (h.setCpg c o v).mems = h.mems := rfl
@[simp] theorem Hw.setCpg_engines (h : Hw) (c o : Nat) (v : W32) : (h.setCpg c o v).engines = h.engines := rfl
@[simp] theorem Hw.setCpg_units (h : Hw) (c o : Nat) (v : W32) : (h.setCpg c o v).units = h.units := rfl
@[simp] theorem Hw.setCpg_gddr (h : Hw) (c o : Nat) (v : W32) : (h.setCpg c o v).gddr = h.gddr := rfl
@[simp] theorem Hw.setCpg_cxlMem (h : Hw) (c o : Nat) (v : W32) : (h.setCpg c o v).cxlMem = h.cxlMem := rfl
@[simp] theorem Hw.setCpg_cxlPoison (h : Hw) (c o : Nat) (v : W32) : (h.setCpg c o v).cxlPoison = h.cxlPoison := rfl
@[simp] theorem Hw.setCpg_cxlPorts (h : Hw) (c o : Nat) (v : W32) : (h.setCpg c o v).cxlPorts = h.cxlPorts := rfl
@[simp] theorem Hw.setCpg_nets (h : Hw) (c o : Nat) (v : W32) : (h.setCpg c o v).nets = h.nets := rfl
@[simp] theorem Hw.setCpg_ports (h : Hw) (c o : Nat) (v : W32) : (h.setCpg c o v).ports = h.ports := rfl
@[simp] theorem Hw.setCpg_links (h : Hw) (c o : Nat) (v : W32) : (h.setCpg c o v).links = h.links := rfl
@[simp] theorem Hw.setCpg_audits (h : Hw) (c o : Nat) (v : W32) : (h.setCpg c o v).audits = h.audits := rfl
@[simp] theorem Hw.setCpg_flight (h : Hw) (c o : Nat) (v : W32) : (h.setCpg c o v).flight = h.flight := rfl
@[simp] theorem Hw.setCpg_reqs (h : Hw) (c o : Nat) (v : W32) : (h.setCpg c o v).reqs = h.reqs := rfl
@[simp] theorem Hw.setCpg_rsps (h : Hw) (c o : Nat) (v : W32) : (h.setCpg c o v).rsps = h.rsps := rfl
@[simp] theorem Hw.setCpg_out (h : Hw) (c o : Nat) (v : W32) : (h.setCpg c o v).out = h.out := rfl
@[simp] theorem Hw.setCpg_sensors (h : Hw) (c o : Nat) (v : W32) : (h.setCpg c o v).sensors = h.sensors := rfl
@[simp] theorem Hw.setCpg_levels (h : Hw) (c o : Nat) (v : W32) : (h.setCpg c o v).levels = h.levels := rfl
@[simp] theorem Hw.setCpg_k0 (h : Hw) (c o : Nat) (v : W32) : (h.setCpg c o v).k0 = h.k0 := rfl
@[simp] theorem Hw.setCpg_pins (h : Hw) (c o : Nat) (v : W32) : (h.setCpg c o v).pins = h.pins := rfl

/-! ### updCpg -/

@[simp] theorem Hw.updCpg_variant (h : Hw) (c o : Nat) (f : W32 → W32) : (h.updCpg c o f).variant = h.variant := rfl
@[simp] theorem Hw.updCpg_now (h : Hw) (c o : Nat) (f : W32 → W32) : (h.updCpg c o f).now = h.now := rfl
@[simp] theorem Hw.updCpg_free (h : Hw) (c o : Nat) (f : W32 → W32) : (h.updCpg c o f).free = h.free := rfl
@[simp] theorem Hw.updCpg_nextId (h : Hw) (c o : Nat) (f : W32 → W32) : (h.updCpg c o f).nextId = h.nextId := rfl
@[simp] theorem Hw.updCpg_flitMark (h : Hw) (c o : Nat) (f : W32 → W32) : (h.updCpg c o f).flitMark = h.flitMark := rfl
@[simp] theorem Hw.updCpg_powered (h : Hw) (c o : Nat) (f : W32 → W32) : (h.updCpg c o f).powered = h.powered := rfl
@[simp] theorem Hw.updCpg_cores (h : Hw) (c o : Nat) (f : W32 → W32) : (h.updCpg c o f).cores = h.cores := rfl
@[simp] theorem Hw.updCpg_sites (h : Hw) (c o : Nat) (f : W32 → W32) : (h.updCpg c o f).sites = h.sites := rfl
@[simp] theorem Hw.updCpg_rings (h : Hw) (c o : Nat) (f : W32 → W32) : (h.updCpg c o f).rings = h.rings := rfl
@[simp] theorem Hw.updCpg_chans (h : Hw) (c o : Nat) (f : W32 → W32) : (h.updCpg c o f).chans = h.chans := rfl
@[simp] theorem Hw.updCpg_dies (h : Hw) (c o : Nat) (f : W32 → W32) : (h.updCpg c o f).dies = h.dies := rfl
@[simp] theorem Hw.updCpg_mems (h : Hw) (c o : Nat) (f : W32 → W32) : (h.updCpg c o f).mems = h.mems := rfl
@[simp] theorem Hw.updCpg_engines (h : Hw) (c o : Nat) (f : W32 → W32) : (h.updCpg c o f).engines = h.engines := rfl
@[simp] theorem Hw.updCpg_units (h : Hw) (c o : Nat) (f : W32 → W32) : (h.updCpg c o f).units = h.units := rfl
@[simp] theorem Hw.updCpg_gddr (h : Hw) (c o : Nat) (f : W32 → W32) : (h.updCpg c o f).gddr = h.gddr := rfl
@[simp] theorem Hw.updCpg_cxlMem (h : Hw) (c o : Nat) (f : W32 → W32) : (h.updCpg c o f).cxlMem = h.cxlMem := rfl
@[simp] theorem Hw.updCpg_cxlPoison (h : Hw) (c o : Nat) (f : W32 → W32) : (h.updCpg c o f).cxlPoison = h.cxlPoison := rfl
@[simp] theorem Hw.updCpg_cxlPorts (h : Hw) (c o : Nat) (f : W32 → W32) : (h.updCpg c o f).cxlPorts = h.cxlPorts := rfl
@[simp] theorem Hw.updCpg_nets (h : Hw) (c o : Nat) (f : W32 → W32) : (h.updCpg c o f).nets = h.nets := rfl
@[simp] theorem Hw.updCpg_ports (h : Hw) (c o : Nat) (f : W32 → W32) : (h.updCpg c o f).ports = h.ports := rfl
@[simp] theorem Hw.updCpg_links (h : Hw) (c o : Nat) (f : W32 → W32) : (h.updCpg c o f).links = h.links := rfl
@[simp] theorem Hw.updCpg_audits (h : Hw) (c o : Nat) (f : W32 → W32) : (h.updCpg c o f).audits = h.audits := rfl
@[simp] theorem Hw.updCpg_flight (h : Hw) (c o : Nat) (f : W32 → W32) : (h.updCpg c o f).flight = h.flight := rfl
@[simp] theorem Hw.updCpg_reqs (h : Hw) (c o : Nat) (f : W32 → W32) : (h.updCpg c o f).reqs = h.reqs := rfl
@[simp] theorem Hw.updCpg_rsps (h : Hw) (c o : Nat) (f : W32 → W32) : (h.updCpg c o f).rsps = h.rsps := rfl
@[simp] theorem Hw.updCpg_out (h : Hw) (c o : Nat) (f : W32 → W32) : (h.updCpg c o f).out = h.out := rfl
@[simp] theorem Hw.updCpg_sensors (h : Hw) (c o : Nat) (f : W32 → W32) : (h.updCpg c o f).sensors = h.sensors := rfl
@[simp] theorem Hw.updCpg_levels (h : Hw) (c o : Nat) (f : W32 → W32) : (h.updCpg c o f).levels = h.levels := rfl
@[simp] theorem Hw.updCpg_k0 (h : Hw) (c o : Nat) (f : W32 → W32) : (h.updCpg c o f).k0 = h.k0 := rfl
@[simp] theorem Hw.updCpg_pins (h : Hw) (c o : Nat) (f : W32 → W32) : (h.updCpg c o f).pins = h.pins := rfl

/-! ### updDie -/

@[simp] theorem Hw.updDie_variant (h : Hw) (d : Nat) (f : Die → Die) : (h.updDie d f).variant = h.variant := rfl
@[simp] theorem Hw.updDie_now (h : Hw) (d : Nat) (f : Die → Die) : (h.updDie d f).now = h.now := rfl
@[simp] theorem Hw.updDie_free (h : Hw) (d : Nat) (f : Die → Die) : (h.updDie d f).free = h.free := rfl
@[simp] theorem Hw.updDie_nextId (h : Hw) (d : Nat) (f : Die → Die) : (h.updDie d f).nextId = h.nextId := rfl
@[simp] theorem Hw.updDie_flitMark (h : Hw) (d : Nat) (f : Die → Die) : (h.updDie d f).flitMark = h.flitMark := rfl
@[simp] theorem Hw.updDie_powered (h : Hw) (d : Nat) (f : Die → Die) : (h.updDie d f).powered = h.powered := rfl
@[simp] theorem Hw.updDie_regs (h : Hw) (d : Nat) (f : Die → Die) : (h.updDie d f).regs = h.regs := rfl
@[simp] theorem Hw.updDie_cores (h : Hw) (d : Nat) (f : Die → Die) : (h.updDie d f).cores = h.cores := rfl
@[simp] theorem Hw.updDie_sites (h : Hw) (d : Nat) (f : Die → Die) : (h.updDie d f).sites = h.sites := rfl
@[simp] theorem Hw.updDie_rings (h : Hw) (d : Nat) (f : Die → Die) : (h.updDie d f).rings = h.rings := rfl
@[simp] theorem Hw.updDie_chans (h : Hw) (d : Nat) (f : Die → Die) : (h.updDie d f).chans = h.chans := rfl
@[simp] theorem Hw.updDie_mems (h : Hw) (d : Nat) (f : Die → Die) : (h.updDie d f).mems = h.mems := rfl
@[simp] theorem Hw.updDie_engines (h : Hw) (d : Nat) (f : Die → Die) : (h.updDie d f).engines = h.engines := rfl
@[simp] theorem Hw.updDie_units (h : Hw) (d : Nat) (f : Die → Die) : (h.updDie d f).units = h.units := rfl
@[simp] theorem Hw.updDie_gddr (h : Hw) (d : Nat) (f : Die → Die) : (h.updDie d f).gddr = h.gddr := rfl
@[simp] theorem Hw.updDie_cxlMem (h : Hw) (d : Nat) (f : Die → Die) : (h.updDie d f).cxlMem = h.cxlMem := rfl
@[simp] theorem Hw.updDie_cxlPoison (h : Hw) (d : Nat) (f : Die → Die) : (h.updDie d f).cxlPoison = h.cxlPoison := rfl
@[simp] theorem Hw.updDie_cxlPorts (h : Hw) (d : Nat) (f : Die → Die) : (h.updDie d f).cxlPorts = h.cxlPorts := rfl
@[simp] theorem Hw.updDie_nets (h : Hw) (d : Nat) (f : Die → Die) : (h.updDie d f).nets = h.nets := rfl
@[simp] theorem Hw.updDie_ports (h : Hw) (d : Nat) (f : Die → Die) : (h.updDie d f).ports = h.ports := rfl
@[simp] theorem Hw.updDie_links (h : Hw) (d : Nat) (f : Die → Die) : (h.updDie d f).links = h.links := rfl
@[simp] theorem Hw.updDie_audits (h : Hw) (d : Nat) (f : Die → Die) : (h.updDie d f).audits = h.audits := rfl
@[simp] theorem Hw.updDie_flight (h : Hw) (d : Nat) (f : Die → Die) : (h.updDie d f).flight = h.flight := rfl
@[simp] theorem Hw.updDie_reqs (h : Hw) (d : Nat) (f : Die → Die) : (h.updDie d f).reqs = h.reqs := rfl
@[simp] theorem Hw.updDie_rsps (h : Hw) (d : Nat) (f : Die → Die) : (h.updDie d f).rsps = h.rsps := rfl
@[simp] theorem Hw.updDie_out (h : Hw) (d : Nat) (f : Die → Die) : (h.updDie d f).out = h.out := rfl
@[simp] theorem Hw.updDie_sensors (h : Hw) (d : Nat) (f : Die → Die) : (h.updDie d f).sensors = h.sensors := rfl
@[simp] theorem Hw.updDie_levels (h : Hw) (d : Nat) (f : Die → Die) : (h.updDie d f).levels = h.levels := rfl
@[simp] theorem Hw.updDie_k0 (h : Hw) (d : Nat) (f : Die → Die) : (h.updDie d f).k0 = h.k0 := rfl
@[simp] theorem Hw.updDie_pins (h : Hw) (d : Nat) (f : Die → Die) : (h.updDie d f).pins = h.pins := rfl

/-! ### updMem -/

@[simp] theorem Hw.updMem_variant (h : Hw) (m : Nat) (f : MemDie → MemDie) : (h.updMem m f).variant = h.variant := rfl
@[simp] theorem Hw.updMem_now (h : Hw) (m : Nat) (f : MemDie → MemDie) : (h.updMem m f).now = h.now := rfl
@[simp] theorem Hw.updMem_free (h : Hw) (m : Nat) (f : MemDie → MemDie) : (h.updMem m f).free = h.free := rfl
@[simp] theorem Hw.updMem_nextId (h : Hw) (m : Nat) (f : MemDie → MemDie) : (h.updMem m f).nextId = h.nextId := rfl
@[simp] theorem Hw.updMem_flitMark (h : Hw) (m : Nat) (f : MemDie → MemDie) : (h.updMem m f).flitMark = h.flitMark := rfl
@[simp] theorem Hw.updMem_powered (h : Hw) (m : Nat) (f : MemDie → MemDie) : (h.updMem m f).powered = h.powered := rfl
@[simp] theorem Hw.updMem_regs (h : Hw) (m : Nat) (f : MemDie → MemDie) : (h.updMem m f).regs = h.regs := rfl
@[simp] theorem Hw.updMem_cores (h : Hw) (m : Nat) (f : MemDie → MemDie) : (h.updMem m f).cores = h.cores := rfl
@[simp] theorem Hw.updMem_sites (h : Hw) (m : Nat) (f : MemDie → MemDie) : (h.updMem m f).sites = h.sites := rfl
@[simp] theorem Hw.updMem_rings (h : Hw) (m : Nat) (f : MemDie → MemDie) : (h.updMem m f).rings = h.rings := rfl
@[simp] theorem Hw.updMem_chans (h : Hw) (m : Nat) (f : MemDie → MemDie) : (h.updMem m f).chans = h.chans := rfl
@[simp] theorem Hw.updMem_dies (h : Hw) (m : Nat) (f : MemDie → MemDie) : (h.updMem m f).dies = h.dies := rfl
@[simp] theorem Hw.updMem_engines (h : Hw) (m : Nat) (f : MemDie → MemDie) : (h.updMem m f).engines = h.engines := rfl
@[simp] theorem Hw.updMem_units (h : Hw) (m : Nat) (f : MemDie → MemDie) : (h.updMem m f).units = h.units := rfl
@[simp] theorem Hw.updMem_gddr (h : Hw) (m : Nat) (f : MemDie → MemDie) : (h.updMem m f).gddr = h.gddr := rfl
@[simp] theorem Hw.updMem_cxlMem (h : Hw) (m : Nat) (f : MemDie → MemDie) : (h.updMem m f).cxlMem = h.cxlMem := rfl
@[simp] theorem Hw.updMem_cxlPoison (h : Hw) (m : Nat) (f : MemDie → MemDie) : (h.updMem m f).cxlPoison = h.cxlPoison := rfl
@[simp] theorem Hw.updMem_cxlPorts (h : Hw) (m : Nat) (f : MemDie → MemDie) : (h.updMem m f).cxlPorts = h.cxlPorts := rfl
@[simp] theorem Hw.updMem_nets (h : Hw) (m : Nat) (f : MemDie → MemDie) : (h.updMem m f).nets = h.nets := rfl
@[simp] theorem Hw.updMem_ports (h : Hw) (m : Nat) (f : MemDie → MemDie) : (h.updMem m f).ports = h.ports := rfl
@[simp] theorem Hw.updMem_links (h : Hw) (m : Nat) (f : MemDie → MemDie) : (h.updMem m f).links = h.links := rfl
@[simp] theorem Hw.updMem_audits (h : Hw) (m : Nat) (f : MemDie → MemDie) : (h.updMem m f).audits = h.audits := rfl
@[simp] theorem Hw.updMem_flight (h : Hw) (m : Nat) (f : MemDie → MemDie) : (h.updMem m f).flight = h.flight := rfl
@[simp] theorem Hw.updMem_reqs (h : Hw) (m : Nat) (f : MemDie → MemDie) : (h.updMem m f).reqs = h.reqs := rfl
@[simp] theorem Hw.updMem_rsps (h : Hw) (m : Nat) (f : MemDie → MemDie) : (h.updMem m f).rsps = h.rsps := rfl
@[simp] theorem Hw.updMem_out (h : Hw) (m : Nat) (f : MemDie → MemDie) : (h.updMem m f).out = h.out := rfl
@[simp] theorem Hw.updMem_sensors (h : Hw) (m : Nat) (f : MemDie → MemDie) : (h.updMem m f).sensors = h.sensors := rfl
@[simp] theorem Hw.updMem_levels (h : Hw) (m : Nat) (f : MemDie → MemDie) : (h.updMem m f).levels = h.levels := rfl
@[simp] theorem Hw.updMem_k0 (h : Hw) (m : Nat) (f : MemDie → MemDie) : (h.updMem m f).k0 = h.k0 := rfl
@[simp] theorem Hw.updMem_pins (h : Hw) (m : Nat) (f : MemDie → MemDie) : (h.updMem m f).pins = h.pins := rfl

/-! ### updNet -/

@[simp] theorem Hw.updNet_variant (h : Hw) (d : Nat) (f : NetDie → NetDie) : (h.updNet d f).variant = h.variant := rfl
@[simp] theorem Hw.updNet_now (h : Hw) (d : Nat) (f : NetDie → NetDie) : (h.updNet d f).now = h.now := rfl
@[simp] theorem Hw.updNet_free (h : Hw) (d : Nat) (f : NetDie → NetDie) : (h.updNet d f).free = h.free := rfl
@[simp] theorem Hw.updNet_nextId (h : Hw) (d : Nat) (f : NetDie → NetDie) : (h.updNet d f).nextId = h.nextId := rfl
@[simp] theorem Hw.updNet_flitMark (h : Hw) (d : Nat) (f : NetDie → NetDie) : (h.updNet d f).flitMark = h.flitMark := rfl
@[simp] theorem Hw.updNet_powered (h : Hw) (d : Nat) (f : NetDie → NetDie) : (h.updNet d f).powered = h.powered := rfl
@[simp] theorem Hw.updNet_regs (h : Hw) (d : Nat) (f : NetDie → NetDie) : (h.updNet d f).regs = h.regs := rfl
@[simp] theorem Hw.updNet_cores (h : Hw) (d : Nat) (f : NetDie → NetDie) : (h.updNet d f).cores = h.cores := rfl
@[simp] theorem Hw.updNet_sites (h : Hw) (d : Nat) (f : NetDie → NetDie) : (h.updNet d f).sites = h.sites := rfl
@[simp] theorem Hw.updNet_rings (h : Hw) (d : Nat) (f : NetDie → NetDie) : (h.updNet d f).rings = h.rings := rfl
@[simp] theorem Hw.updNet_chans (h : Hw) (d : Nat) (f : NetDie → NetDie) : (h.updNet d f).chans = h.chans := rfl
@[simp] theorem Hw.updNet_dies (h : Hw) (d : Nat) (f : NetDie → NetDie) : (h.updNet d f).dies = h.dies := rfl
@[simp] theorem Hw.updNet_mems (h : Hw) (d : Nat) (f : NetDie → NetDie) : (h.updNet d f).mems = h.mems := rfl
@[simp] theorem Hw.updNet_engines (h : Hw) (d : Nat) (f : NetDie → NetDie) : (h.updNet d f).engines = h.engines := rfl
@[simp] theorem Hw.updNet_units (h : Hw) (d : Nat) (f : NetDie → NetDie) : (h.updNet d f).units = h.units := rfl
@[simp] theorem Hw.updNet_gddr (h : Hw) (d : Nat) (f : NetDie → NetDie) : (h.updNet d f).gddr = h.gddr := rfl
@[simp] theorem Hw.updNet_cxlMem (h : Hw) (d : Nat) (f : NetDie → NetDie) : (h.updNet d f).cxlMem = h.cxlMem := rfl
@[simp] theorem Hw.updNet_cxlPoison (h : Hw) (d : Nat) (f : NetDie → NetDie) : (h.updNet d f).cxlPoison = h.cxlPoison := rfl
@[simp] theorem Hw.updNet_cxlPorts (h : Hw) (d : Nat) (f : NetDie → NetDie) : (h.updNet d f).cxlPorts = h.cxlPorts := rfl
@[simp] theorem Hw.updNet_ports (h : Hw) (d : Nat) (f : NetDie → NetDie) : (h.updNet d f).ports = h.ports := rfl
@[simp] theorem Hw.updNet_links (h : Hw) (d : Nat) (f : NetDie → NetDie) : (h.updNet d f).links = h.links := rfl
@[simp] theorem Hw.updNet_audits (h : Hw) (d : Nat) (f : NetDie → NetDie) : (h.updNet d f).audits = h.audits := rfl
@[simp] theorem Hw.updNet_flight (h : Hw) (d : Nat) (f : NetDie → NetDie) : (h.updNet d f).flight = h.flight := rfl
@[simp] theorem Hw.updNet_reqs (h : Hw) (d : Nat) (f : NetDie → NetDie) : (h.updNet d f).reqs = h.reqs := rfl
@[simp] theorem Hw.updNet_rsps (h : Hw) (d : Nat) (f : NetDie → NetDie) : (h.updNet d f).rsps = h.rsps := rfl
@[simp] theorem Hw.updNet_out (h : Hw) (d : Nat) (f : NetDie → NetDie) : (h.updNet d f).out = h.out := rfl
@[simp] theorem Hw.updNet_sensors (h : Hw) (d : Nat) (f : NetDie → NetDie) : (h.updNet d f).sensors = h.sensors := rfl
@[simp] theorem Hw.updNet_levels (h : Hw) (d : Nat) (f : NetDie → NetDie) : (h.updNet d f).levels = h.levels := rfl
@[simp] theorem Hw.updNet_k0 (h : Hw) (d : Nat) (f : NetDie → NetDie) : (h.updNet d f).k0 = h.k0 := rfl
@[simp] theorem Hw.updNet_pins (h : Hw) (d : Nat) (f : NetDie → NetDie) : (h.updNet d f).pins = h.pins := rfl

/-! ### updK -/

@[simp] theorem Hw.updK_variant (h : Hw) (f : K0 → K0) : (h.updK f).variant = h.variant := rfl
@[simp] theorem Hw.updK_now (h : Hw) (f : K0 → K0) : (h.updK f).now = h.now := rfl
@[simp] theorem Hw.updK_free (h : Hw) (f : K0 → K0) : (h.updK f).free = h.free := rfl
@[simp] theorem Hw.updK_nextId (h : Hw) (f : K0 → K0) : (h.updK f).nextId = h.nextId := rfl
@[simp] theorem Hw.updK_flitMark (h : Hw) (f : K0 → K0) : (h.updK f).flitMark = h.flitMark := rfl
@[simp] theorem Hw.updK_powered (h : Hw) (f : K0 → K0) : (h.updK f).powered = h.powered := rfl
@[simp] theorem Hw.updK_regs (h : Hw) (f : K0 → K0) : (h.updK f).regs = h.regs := rfl
@[simp] theorem Hw.updK_cores (h : Hw) (f : K0 → K0) : (h.updK f).cores = h.cores := rfl
@[simp] theorem Hw.updK_sites (h : Hw) (f : K0 → K0) : (h.updK f).sites = h.sites := rfl
@[simp] theorem Hw.updK_rings (h : Hw) (f : K0 → K0) : (h.updK f).rings = h.rings := rfl
@[simp] theorem Hw.updK_chans (h : Hw) (f : K0 → K0) : (h.updK f).chans = h.chans := rfl
@[simp] theorem Hw.updK_dies (h : Hw) (f : K0 → K0) : (h.updK f).dies = h.dies := rfl
@[simp] theorem Hw.updK_mems (h : Hw) (f : K0 → K0) : (h.updK f).mems = h.mems := rfl
@[simp] theorem Hw.updK_engines (h : Hw) (f : K0 → K0) : (h.updK f).engines = h.engines := rfl
@[simp] theorem Hw.updK_units (h : Hw) (f : K0 → K0) : (h.updK f).units = h.units := rfl
@[simp] theorem Hw.updK_gddr (h : Hw) (f : K0 → K0) : (h.updK f).gddr = h.gddr := rfl
@[simp] theorem Hw.updK_cxlMem (h : Hw) (f : K0 → K0) : (h.updK f).cxlMem = h.cxlMem := rfl
@[simp] theorem Hw.updK_cxlPoison (h : Hw) (f : K0 → K0) : (h.updK f).cxlPoison = h.cxlPoison := rfl
@[simp] theorem Hw.updK_cxlPorts (h : Hw) (f : K0 → K0) : (h.updK f).cxlPorts = h.cxlPorts := rfl
@[simp] theorem Hw.updK_nets (h : Hw) (f : K0 → K0) : (h.updK f).nets = h.nets := rfl
@[simp] theorem Hw.updK_ports (h : Hw) (f : K0 → K0) : (h.updK f).ports = h.ports := rfl
@[simp] theorem Hw.updK_links (h : Hw) (f : K0 → K0) : (h.updK f).links = h.links := rfl
@[simp] theorem Hw.updK_audits (h : Hw) (f : K0 → K0) : (h.updK f).audits = h.audits := rfl
@[simp] theorem Hw.updK_flight (h : Hw) (f : K0 → K0) : (h.updK f).flight = h.flight := rfl
@[simp] theorem Hw.updK_reqs (h : Hw) (f : K0 → K0) : (h.updK f).reqs = h.reqs := rfl
@[simp] theorem Hw.updK_rsps (h : Hw) (f : K0 → K0) : (h.updK f).rsps = h.rsps := rfl
@[simp] theorem Hw.updK_out (h : Hw) (f : K0 → K0) : (h.updK f).out = h.out := rfl
@[simp] theorem Hw.updK_sensors (h : Hw) (f : K0 → K0) : (h.updK f).sensors = h.sensors := rfl
@[simp] theorem Hw.updK_levels (h : Hw) (f : K0 → K0) : (h.updK f).levels = h.levels := rfl
@[simp] theorem Hw.updK_pins (h : Hw) (f : K0 → K0) : (h.updK f).pins = h.pins := rfl

/-! ### updChan -/

@[simp] theorem Hw.updChan_variant (h : Hw) (k : Nat) (f : Chan → Chan) : (h.updChan k f).variant = h.variant := rfl
@[simp] theorem Hw.updChan_now (h : Hw) (k : Nat) (f : Chan → Chan) : (h.updChan k f).now = h.now := rfl
@[simp] theorem Hw.updChan_free (h : Hw) (k : Nat) (f : Chan → Chan) : (h.updChan k f).free = h.free := rfl
@[simp] theorem Hw.updChan_nextId (h : Hw) (k : Nat) (f : Chan → Chan) : (h.updChan k f).nextId = h.nextId := rfl
@[simp] theorem Hw.updChan_flitMark (h : Hw) (k : Nat) (f : Chan → Chan) : (h.updChan k f).flitMark = h.flitMark := rfl
@[simp] theorem Hw.updChan_powered (h : Hw) (k : Nat) (f : Chan → Chan) : (h.updChan k f).powered = h.powered := rfl
@[simp] theorem Hw.updChan_regs (h : Hw) (k : Nat) (f : Chan → Chan) : (h.updChan k f).regs = h.regs := rfl
@[simp] theorem Hw.updChan_cores (h : Hw) (k : Nat) (f : Chan → Chan) : (h.updChan k f).cores = h.cores := rfl
@[simp] theorem Hw.updChan_sites (h : Hw) (k : Nat) (f : Chan → Chan) : (h.updChan k f).sites = h.sites := rfl
@[simp] theorem Hw.updChan_rings (h : Hw) (k : Nat) (f : Chan → Chan) : (h.updChan k f).rings = h.rings := rfl
@[simp] theorem Hw.updChan_dies (h : Hw) (k : Nat) (f : Chan → Chan) : (h.updChan k f).dies = h.dies := rfl
@[simp] theorem Hw.updChan_mems (h : Hw) (k : Nat) (f : Chan → Chan) : (h.updChan k f).mems = h.mems := rfl
@[simp] theorem Hw.updChan_engines (h : Hw) (k : Nat) (f : Chan → Chan) : (h.updChan k f).engines = h.engines := rfl
@[simp] theorem Hw.updChan_units (h : Hw) (k : Nat) (f : Chan → Chan) : (h.updChan k f).units = h.units := rfl
@[simp] theorem Hw.updChan_gddr (h : Hw) (k : Nat) (f : Chan → Chan) : (h.updChan k f).gddr = h.gddr := rfl
@[simp] theorem Hw.updChan_cxlMem (h : Hw) (k : Nat) (f : Chan → Chan) : (h.updChan k f).cxlMem = h.cxlMem := rfl
@[simp] theorem Hw.updChan_cxlPoison (h : Hw) (k : Nat) (f : Chan → Chan) : (h.updChan k f).cxlPoison = h.cxlPoison := rfl
@[simp] theorem Hw.updChan_cxlPorts (h : Hw) (k : Nat) (f : Chan → Chan) : (h.updChan k f).cxlPorts = h.cxlPorts := rfl
@[simp] theorem Hw.updChan_nets (h : Hw) (k : Nat) (f : Chan → Chan) : (h.updChan k f).nets = h.nets := rfl
@[simp] theorem Hw.updChan_ports (h : Hw) (k : Nat) (f : Chan → Chan) : (h.updChan k f).ports = h.ports := rfl
@[simp] theorem Hw.updChan_links (h : Hw) (k : Nat) (f : Chan → Chan) : (h.updChan k f).links = h.links := rfl
@[simp] theorem Hw.updChan_audits (h : Hw) (k : Nat) (f : Chan → Chan) : (h.updChan k f).audits = h.audits := rfl
@[simp] theorem Hw.updChan_flight (h : Hw) (k : Nat) (f : Chan → Chan) : (h.updChan k f).flight = h.flight := rfl
@[simp] theorem Hw.updChan_reqs (h : Hw) (k : Nat) (f : Chan → Chan) : (h.updChan k f).reqs = h.reqs := rfl
@[simp] theorem Hw.updChan_rsps (h : Hw) (k : Nat) (f : Chan → Chan) : (h.updChan k f).rsps = h.rsps := rfl
@[simp] theorem Hw.updChan_out (h : Hw) (k : Nat) (f : Chan → Chan) : (h.updChan k f).out = h.out := rfl
@[simp] theorem Hw.updChan_sensors (h : Hw) (k : Nat) (f : Chan → Chan) : (h.updChan k f).sensors = h.sensors := rfl
@[simp] theorem Hw.updChan_levels (h : Hw) (k : Nat) (f : Chan → Chan) : (h.updChan k f).levels = h.levels := rfl
@[simp] theorem Hw.updChan_k0 (h : Hw) (k : Nat) (f : Chan → Chan) : (h.updChan k f).k0 = h.k0 := rfl
@[simp] theorem Hw.updChan_pins (h : Hw) (k : Nat) (f : Chan → Chan) : (h.updChan k f).pins = h.pins := rfl

/-! ### updCh -/

@[simp] theorem Hw.updCh_variant (h : Hw) (ch : ChanId) (f : Chan → Chan) : (h.updCh ch f).variant = h.variant := rfl
@[simp] theorem Hw.updCh_now (h : Hw) (ch : ChanId) (f : Chan → Chan) : (h.updCh ch f).now = h.now := rfl
@[simp] theorem Hw.updCh_free (h : Hw) (ch : ChanId) (f : Chan → Chan) : (h.updCh ch f).free = h.free := rfl
@[simp] theorem Hw.updCh_nextId (h : Hw) (ch : ChanId) (f : Chan → Chan) : (h.updCh ch f).nextId = h.nextId := rfl
@[simp] theorem Hw.updCh_flitMark (h : Hw) (ch : ChanId) (f : Chan → Chan) : (h.updCh ch f).flitMark = h.flitMark := rfl
@[simp] theorem Hw.updCh_powered (h : Hw) (ch : ChanId) (f : Chan → Chan) : (h.updCh ch f).powered = h.powered := rfl
@[simp] theorem Hw.updCh_regs (h : Hw) (ch : ChanId) (f : Chan → Chan) : (h.updCh ch f).regs = h.regs := rfl
@[simp] theorem Hw.updCh_cores (h : Hw) (ch : ChanId) (f : Chan → Chan) : (h.updCh ch f).cores = h.cores := rfl
@[simp] theorem Hw.updCh_sites (h : Hw) (ch : ChanId) (f : Chan → Chan) : (h.updCh ch f).sites = h.sites := rfl
@[simp] theorem Hw.updCh_rings (h : Hw) (ch : ChanId) (f : Chan → Chan) : (h.updCh ch f).rings = h.rings := rfl
@[simp] theorem Hw.updCh_dies (h : Hw) (ch : ChanId) (f : Chan → Chan) : (h.updCh ch f).dies = h.dies := rfl
@[simp] theorem Hw.updCh_mems (h : Hw) (ch : ChanId) (f : Chan → Chan) : (h.updCh ch f).mems = h.mems := rfl
@[simp] theorem Hw.updCh_engines (h : Hw) (ch : ChanId) (f : Chan → Chan) : (h.updCh ch f).engines = h.engines := rfl
@[simp] theorem Hw.updCh_units (h : Hw) (ch : ChanId) (f : Chan → Chan) : (h.updCh ch f).units = h.units := rfl
@[simp] theorem Hw.updCh_gddr (h : Hw) (ch : ChanId) (f : Chan → Chan) : (h.updCh ch f).gddr = h.gddr := rfl
@[simp] theorem Hw.updCh_cxlMem (h : Hw) (ch : ChanId) (f : Chan → Chan) : (h.updCh ch f).cxlMem = h.cxlMem := rfl
@[simp] theorem Hw.updCh_cxlPoison (h : Hw) (ch : ChanId) (f : Chan → Chan) : (h.updCh ch f).cxlPoison = h.cxlPoison := rfl
@[simp] theorem Hw.updCh_cxlPorts (h : Hw) (ch : ChanId) (f : Chan → Chan) : (h.updCh ch f).cxlPorts = h.cxlPorts := rfl
@[simp] theorem Hw.updCh_nets (h : Hw) (ch : ChanId) (f : Chan → Chan) : (h.updCh ch f).nets = h.nets := rfl
@[simp] theorem Hw.updCh_ports (h : Hw) (ch : ChanId) (f : Chan → Chan) : (h.updCh ch f).ports = h.ports := rfl
@[simp] theorem Hw.updCh_links (h : Hw) (ch : ChanId) (f : Chan → Chan) : (h.updCh ch f).links = h.links := rfl
@[simp] theorem Hw.updCh_audits (h : Hw) (ch : ChanId) (f : Chan → Chan) : (h.updCh ch f).audits = h.audits := rfl
@[simp] theorem Hw.updCh_flight (h : Hw) (ch : ChanId) (f : Chan → Chan) : (h.updCh ch f).flight = h.flight := rfl
@[simp] theorem Hw.updCh_reqs (h : Hw) (ch : ChanId) (f : Chan → Chan) : (h.updCh ch f).reqs = h.reqs := rfl
@[simp] theorem Hw.updCh_rsps (h : Hw) (ch : ChanId) (f : Chan → Chan) : (h.updCh ch f).rsps = h.rsps := rfl
@[simp] theorem Hw.updCh_out (h : Hw) (ch : ChanId) (f : Chan → Chan) : (h.updCh ch f).out = h.out := rfl
@[simp] theorem Hw.updCh_sensors (h : Hw) (ch : ChanId) (f : Chan → Chan) : (h.updCh ch f).sensors = h.sensors := rfl
@[simp] theorem Hw.updCh_levels (h : Hw) (ch : ChanId) (f : Chan → Chan) : (h.updCh ch f).levels = h.levels := rfl
@[simp] theorem Hw.updCh_k0 (h : Hw) (ch : ChanId) (f : Chan → Chan) : (h.updCh ch f).k0 = h.k0 := rfl
@[simp] theorem Hw.updCh_pins (h : Hw) (ch : ChanId) (f : Chan → Chan) : (h.updCh ch f).pins = h.pins := rfl

/-! ### updLink -/

@[simp] theorem Hw.updLink_variant (h : Hw) (n : Nat) (f : Link → Link) : (h.updLink n f).variant = h.variant := rfl
@[simp] theorem Hw.updLink_now (h : Hw) (n : Nat) (f : Link → Link) : (h.updLink n f).now = h.now := rfl
@[simp] theorem Hw.updLink_free (h : Hw) (n : Nat) (f : Link → Link) : (h.updLink n f).free = h.free := rfl
@[simp] theorem Hw.updLink_nextId (h : Hw) (n : Nat) (f : Link → Link) : (h.updLink n f).nextId = h.nextId := rfl
@[simp] theorem Hw.updLink_flitMark (h : Hw) (n : Nat) (f : Link → Link) : (h.updLink n f).flitMark = h.flitMark := rfl
@[simp] theorem Hw.updLink_powered (h : Hw) (n : Nat) (f : Link → Link) : (h.updLink n f).powered = h.powered := rfl
@[simp] theorem Hw.updLink_regs (h : Hw) (n : Nat) (f : Link → Link) : (h.updLink n f).regs = h.regs := rfl
@[simp] theorem Hw.updLink_cores (h : Hw) (n : Nat) (f : Link → Link) : (h.updLink n f).cores = h.cores := rfl
@[simp] theorem Hw.updLink_sites (h : Hw) (n : Nat) (f : Link → Link) : (h.updLink n f).sites = h.sites := rfl
@[simp] theorem Hw.updLink_rings (h : Hw) (n : Nat) (f : Link → Link) : (h.updLink n f).rings = h.rings := rfl
@[simp] theorem Hw.updLink_chans (h : Hw) (n : Nat) (f : Link → Link) : (h.updLink n f).chans = h.chans := rfl
@[simp] theorem Hw.updLink_dies (h : Hw) (n : Nat) (f : Link → Link) : (h.updLink n f).dies = h.dies := rfl
@[simp] theorem Hw.updLink_mems (h : Hw) (n : Nat) (f : Link → Link) : (h.updLink n f).mems = h.mems := rfl
@[simp] theorem Hw.updLink_engines (h : Hw) (n : Nat) (f : Link → Link) : (h.updLink n f).engines = h.engines := rfl
@[simp] theorem Hw.updLink_units (h : Hw) (n : Nat) (f : Link → Link) : (h.updLink n f).units = h.units := rfl
@[simp] theorem Hw.updLink_gddr (h : Hw) (n : Nat) (f : Link → Link) : (h.updLink n f).gddr = h.gddr := rfl
@[simp] theorem Hw.updLink_cxlMem (h : Hw) (n : Nat) (f : Link → Link) : (h.updLink n f).cxlMem = h.cxlMem := rfl
@[simp] theorem Hw.updLink_cxlPoison (h : Hw) (n : Nat) (f : Link → Link) : (h.updLink n f).cxlPoison = h.cxlPoison := rfl
@[simp] theorem Hw.updLink_cxlPorts (h : Hw) (n : Nat) (f : Link → Link) : (h.updLink n f).cxlPorts = h.cxlPorts := rfl
@[simp] theorem Hw.updLink_nets (h : Hw) (n : Nat) (f : Link → Link) : (h.updLink n f).nets = h.nets := rfl
@[simp] theorem Hw.updLink_ports (h : Hw) (n : Nat) (f : Link → Link) : (h.updLink n f).ports = h.ports := rfl
@[simp] theorem Hw.updLink_audits (h : Hw) (n : Nat) (f : Link → Link) : (h.updLink n f).audits = h.audits := rfl
@[simp] theorem Hw.updLink_flight (h : Hw) (n : Nat) (f : Link → Link) : (h.updLink n f).flight = h.flight := rfl
@[simp] theorem Hw.updLink_reqs (h : Hw) (n : Nat) (f : Link → Link) : (h.updLink n f).reqs = h.reqs := rfl
@[simp] theorem Hw.updLink_rsps (h : Hw) (n : Nat) (f : Link → Link) : (h.updLink n f).rsps = h.rsps := rfl
@[simp] theorem Hw.updLink_out (h : Hw) (n : Nat) (f : Link → Link) : (h.updLink n f).out = h.out := rfl
@[simp] theorem Hw.updLink_sensors (h : Hw) (n : Nat) (f : Link → Link) : (h.updLink n f).sensors = h.sensors := rfl
@[simp] theorem Hw.updLink_levels (h : Hw) (n : Nat) (f : Link → Link) : (h.updLink n f).levels = h.levels := rfl
@[simp] theorem Hw.updLink_k0 (h : Hw) (n : Nat) (f : Link → Link) : (h.updLink n f).k0 = h.k0 := rfl
@[simp] theorem Hw.updLink_pins (h : Hw) (n : Nat) (f : Link → Link) : (h.updLink n f).pins = h.pins := rfl

/-! ### updPort -/

@[simp] theorem Hw.updPort_variant (h : Hw) (p : Nat) (f : Port → Port) : (h.updPort p f).variant = h.variant := rfl
@[simp] theorem Hw.updPort_now (h : Hw) (p : Nat) (f : Port → Port) : (h.updPort p f).now = h.now := rfl
@[simp] theorem Hw.updPort_free (h : Hw) (p : Nat) (f : Port → Port) : (h.updPort p f).free = h.free := rfl
@[simp] theorem Hw.updPort_nextId (h : Hw) (p : Nat) (f : Port → Port) : (h.updPort p f).nextId = h.nextId := rfl
@[simp] theorem Hw.updPort_flitMark (h : Hw) (p : Nat) (f : Port → Port) : (h.updPort p f).flitMark = h.flitMark := rfl
@[simp] theorem Hw.updPort_powered (h : Hw) (p : Nat) (f : Port → Port) : (h.updPort p f).powered = h.powered := rfl
@[simp] theorem Hw.updPort_regs (h : Hw) (p : Nat) (f : Port → Port) : (h.updPort p f).regs = h.regs := rfl
@[simp] theorem Hw.updPort_cores (h : Hw) (p : Nat) (f : Port → Port) : (h.updPort p f).cores = h.cores := rfl
@[simp] theorem Hw.updPort_sites (h : Hw) (p : Nat) (f : Port → Port) : (h.updPort p f).sites = h.sites := rfl
@[simp] theorem Hw.updPort_rings (h : Hw) (p : Nat) (f : Port → Port) : (h.updPort p f).rings = h.rings := rfl
@[simp] theorem Hw.updPort_chans (h : Hw) (p : Nat) (f : Port → Port) : (h.updPort p f).chans = h.chans := rfl
@[simp] theorem Hw.updPort_dies (h : Hw) (p : Nat) (f : Port → Port) : (h.updPort p f).dies = h.dies := rfl
@[simp] theorem Hw.updPort_mems (h : Hw) (p : Nat) (f : Port → Port) : (h.updPort p f).mems = h.mems := rfl
@[simp] theorem Hw.updPort_engines (h : Hw) (p : Nat) (f : Port → Port) : (h.updPort p f).engines = h.engines := rfl
@[simp] theorem Hw.updPort_units (h : Hw) (p : Nat) (f : Port → Port) : (h.updPort p f).units = h.units := rfl
@[simp] theorem Hw.updPort_gddr (h : Hw) (p : Nat) (f : Port → Port) : (h.updPort p f).gddr = h.gddr := rfl
@[simp] theorem Hw.updPort_cxlMem (h : Hw) (p : Nat) (f : Port → Port) : (h.updPort p f).cxlMem = h.cxlMem := rfl
@[simp] theorem Hw.updPort_cxlPoison (h : Hw) (p : Nat) (f : Port → Port) : (h.updPort p f).cxlPoison = h.cxlPoison := rfl
@[simp] theorem Hw.updPort_cxlPorts (h : Hw) (p : Nat) (f : Port → Port) : (h.updPort p f).cxlPorts = h.cxlPorts := rfl
@[simp] theorem Hw.updPort_nets (h : Hw) (p : Nat) (f : Port → Port) : (h.updPort p f).nets = h.nets := rfl
@[simp] theorem Hw.updPort_links (h : Hw) (p : Nat) (f : Port → Port) : (h.updPort p f).links = h.links := rfl
@[simp] theorem Hw.updPort_audits (h : Hw) (p : Nat) (f : Port → Port) : (h.updPort p f).audits = h.audits := rfl
@[simp] theorem Hw.updPort_flight (h : Hw) (p : Nat) (f : Port → Port) : (h.updPort p f).flight = h.flight := rfl
@[simp] theorem Hw.updPort_reqs (h : Hw) (p : Nat) (f : Port → Port) : (h.updPort p f).reqs = h.reqs := rfl
@[simp] theorem Hw.updPort_rsps (h : Hw) (p : Nat) (f : Port → Port) : (h.updPort p f).rsps = h.rsps := rfl
@[simp] theorem Hw.updPort_out (h : Hw) (p : Nat) (f : Port → Port) : (h.updPort p f).out = h.out := rfl
@[simp] theorem Hw.updPort_sensors (h : Hw) (p : Nat) (f : Port → Port) : (h.updPort p f).sensors = h.sensors := rfl
@[simp] theorem Hw.updPort_levels (h : Hw) (p : Nat) (f : Port → Port) : (h.updPort p f).levels = h.levels := rfl
@[simp] theorem Hw.updPort_k0 (h : Hw) (p : Nat) (f : Port → Port) : (h.updPort p f).k0 = h.k0 := rfl
@[simp] theorem Hw.updPort_pins (h : Hw) (p : Nat) (f : Port → Port) : (h.updPort p f).pins = h.pins := rfl

/-! ### updQp -/

@[simp] theorem Hw.updQp_variant (h : Hw) (d q : Nat) (f : Qp → Qp) : (h.updQp d q f).variant = h.variant := rfl
@[simp] theorem Hw.updQp_now (h : Hw) (d q : Nat) (f : Qp → Qp) : (h.updQp d q f).now = h.now := rfl
@[simp] theorem Hw.updQp_free (h : Hw) (d q : Nat) (f : Qp → Qp) : (h.updQp d q f).free = h.free := rfl
@[simp] theorem Hw.updQp_nextId (h : Hw) (d q : Nat) (f : Qp → Qp) : (h.updQp d q f).nextId = h.nextId := rfl
@[simp] theorem Hw.updQp_flitMark (h : Hw) (d q : Nat) (f : Qp → Qp) : (h.updQp d q f).flitMark = h.flitMark := rfl
@[simp] theorem Hw.updQp_powered (h : Hw) (d q : Nat) (f : Qp → Qp) : (h.updQp d q f).powered = h.powered := rfl
@[simp] theorem Hw.updQp_regs (h : Hw) (d q : Nat) (f : Qp → Qp) : (h.updQp d q f).regs = h.regs := rfl
@[simp] theorem Hw.updQp_cores (h : Hw) (d q : Nat) (f : Qp → Qp) : (h.updQp d q f).cores = h.cores := rfl
@[simp] theorem Hw.updQp_sites (h : Hw) (d q : Nat) (f : Qp → Qp) : (h.updQp d q f).sites = h.sites := rfl
@[simp] theorem Hw.updQp_rings (h : Hw) (d q : Nat) (f : Qp → Qp) : (h.updQp d q f).rings = h.rings := rfl
@[simp] theorem Hw.updQp_chans (h : Hw) (d q : Nat) (f : Qp → Qp) : (h.updQp d q f).chans = h.chans := rfl
@[simp] theorem Hw.updQp_dies (h : Hw) (d q : Nat) (f : Qp → Qp) : (h.updQp d q f).dies = h.dies := rfl
@[simp] theorem Hw.updQp_mems (h : Hw) (d q : Nat) (f : Qp → Qp) : (h.updQp d q f).mems = h.mems := rfl
@[simp] theorem Hw.updQp_engines (h : Hw) (d q : Nat) (f : Qp → Qp) : (h.updQp d q f).engines = h.engines := rfl
@[simp] theorem Hw.updQp_units (h : Hw) (d q : Nat) (f : Qp → Qp) : (h.updQp d q f).units = h.units := rfl
@[simp] theorem Hw.updQp_gddr (h : Hw) (d q : Nat) (f : Qp → Qp) : (h.updQp d q f).gddr = h.gddr := rfl
@[simp] theorem Hw.updQp_cxlMem (h : Hw) (d q : Nat) (f : Qp → Qp) : (h.updQp d q f).cxlMem = h.cxlMem := rfl
@[simp] theorem Hw.updQp_cxlPoison (h : Hw) (d q : Nat) (f : Qp → Qp) : (h.updQp d q f).cxlPoison = h.cxlPoison := rfl
@[simp] theorem Hw.updQp_cxlPorts (h : Hw) (d q : Nat) (f : Qp → Qp) : (h.updQp d q f).cxlPorts = h.cxlPorts := rfl
@[simp] theorem Hw.updQp_ports (h : Hw) (d q : Nat) (f : Qp → Qp) : (h.updQp d q f).ports = h.ports := rfl
@[simp] theorem Hw.updQp_links (h : Hw) (d q : Nat) (f : Qp → Qp) : (h.updQp d q f).links = h.links := rfl
@[simp] theorem Hw.updQp_audits (h : Hw) (d q : Nat) (f : Qp → Qp) : (h.updQp d q f).audits = h.audits := rfl
@[simp] theorem Hw.updQp_flight (h : Hw) (d q : Nat) (f : Qp → Qp) : (h.updQp d q f).flight = h.flight := rfl
@[simp] theorem Hw.updQp_reqs (h : Hw) (d q : Nat) (f : Qp → Qp) : (h.updQp d q f).reqs = h.reqs := rfl
@[simp] theorem Hw.updQp_rsps (h : Hw) (d q : Nat) (f : Qp → Qp) : (h.updQp d q f).rsps = h.rsps := rfl
@[simp] theorem Hw.updQp_out (h : Hw) (d q : Nat) (f : Qp → Qp) : (h.updQp d q f).out = h.out := rfl
@[simp] theorem Hw.updQp_sensors (h : Hw) (d q : Nat) (f : Qp → Qp) : (h.updQp d q f).sensors = h.sensors := rfl
@[simp] theorem Hw.updQp_levels (h : Hw) (d q : Nat) (f : Qp → Qp) : (h.updQp d q f).levels = h.levels := rfl
@[simp] theorem Hw.updQp_k0 (h : Hw) (d q : Nat) (f : Qp → Qp) : (h.updQp d q f).k0 = h.k0 := rfl
@[simp] theorem Hw.updQp_pins (h : Hw) (d q : Nat) (f : Qp → Qp) : (h.updQp d q f).pins = h.pins := rfl

/-! ### updWin -/

@[simp] theorem Hw.updWin_variant (h : Hw) (d w : Nat) (f : Win → Win) : (h.updWin d w f).variant = h.variant := rfl
@[simp] theorem Hw.updWin_now (h : Hw) (d w : Nat) (f : Win → Win) : (h.updWin d w f).now = h.now := rfl
@[simp] theorem Hw.updWin_free (h : Hw) (d w : Nat) (f : Win → Win) : (h.updWin d w f).free = h.free := rfl
@[simp] theorem Hw.updWin_nextId (h : Hw) (d w : Nat) (f : Win → Win) : (h.updWin d w f).nextId = h.nextId := rfl
@[simp] theorem Hw.updWin_flitMark (h : Hw) (d w : Nat) (f : Win → Win) : (h.updWin d w f).flitMark = h.flitMark := rfl
@[simp] theorem Hw.updWin_powered (h : Hw) (d w : Nat) (f : Win → Win) : (h.updWin d w f).powered = h.powered := rfl
@[simp] theorem Hw.updWin_regs (h : Hw) (d w : Nat) (f : Win → Win) : (h.updWin d w f).regs = h.regs := rfl
@[simp] theorem Hw.updWin_cores (h : Hw) (d w : Nat) (f : Win → Win) : (h.updWin d w f).cores = h.cores := rfl
@[simp] theorem Hw.updWin_sites (h : Hw) (d w : Nat) (f : Win → Win) : (h.updWin d w f).sites = h.sites := rfl
@[simp] theorem Hw.updWin_rings (h : Hw) (d w : Nat) (f : Win → Win) : (h.updWin d w f).rings = h.rings := rfl
@[simp] theorem Hw.updWin_chans (h : Hw) (d w : Nat) (f : Win → Win) : (h.updWin d w f).chans = h.chans := rfl
@[simp] theorem Hw.updWin_dies (h : Hw) (d w : Nat) (f : Win → Win) : (h.updWin d w f).dies = h.dies := rfl
@[simp] theorem Hw.updWin_mems (h : Hw) (d w : Nat) (f : Win → Win) : (h.updWin d w f).mems = h.mems := rfl
@[simp] theorem Hw.updWin_engines (h : Hw) (d w : Nat) (f : Win → Win) : (h.updWin d w f).engines = h.engines := rfl
@[simp] theorem Hw.updWin_units (h : Hw) (d w : Nat) (f : Win → Win) : (h.updWin d w f).units = h.units := rfl
@[simp] theorem Hw.updWin_gddr (h : Hw) (d w : Nat) (f : Win → Win) : (h.updWin d w f).gddr = h.gddr := rfl
@[simp] theorem Hw.updWin_cxlMem (h : Hw) (d w : Nat) (f : Win → Win) : (h.updWin d w f).cxlMem = h.cxlMem := rfl
@[simp] theorem Hw.updWin_cxlPoison (h : Hw) (d w : Nat) (f : Win → Win) : (h.updWin d w f).cxlPoison = h.cxlPoison := rfl
@[simp] theorem Hw.updWin_cxlPorts (h : Hw) (d w : Nat) (f : Win → Win) : (h.updWin d w f).cxlPorts = h.cxlPorts := rfl
@[simp] theorem Hw.updWin_ports (h : Hw) (d w : Nat) (f : Win → Win) : (h.updWin d w f).ports = h.ports := rfl
@[simp] theorem Hw.updWin_links (h : Hw) (d w : Nat) (f : Win → Win) : (h.updWin d w f).links = h.links := rfl
@[simp] theorem Hw.updWin_audits (h : Hw) (d w : Nat) (f : Win → Win) : (h.updWin d w f).audits = h.audits := rfl
@[simp] theorem Hw.updWin_flight (h : Hw) (d w : Nat) (f : Win → Win) : (h.updWin d w f).flight = h.flight := rfl
@[simp] theorem Hw.updWin_reqs (h : Hw) (d w : Nat) (f : Win → Win) : (h.updWin d w f).reqs = h.reqs := rfl
@[simp] theorem Hw.updWin_rsps (h : Hw) (d w : Nat) (f : Win → Win) : (h.updWin d w f).rsps = h.rsps := rfl
@[simp] theorem Hw.updWin_out (h : Hw) (d w : Nat) (f : Win → Win) : (h.updWin d w f).out = h.out := rfl
@[simp] theorem Hw.updWin_sensors (h : Hw) (d w : Nat) (f : Win → Win) : (h.updWin d w f).sensors = h.sensors := rfl
@[simp] theorem Hw.updWin_levels (h : Hw) (d w : Nat) (f : Win → Win) : (h.updWin d w f).levels = h.levels := rfl
@[simp] theorem Hw.updWin_k0 (h : Hw) (d w : Nat) (f : Win → Win) : (h.updWin d w f).k0 = h.k0 := rfl
@[simp] theorem Hw.updWin_pins (h : Hw) (d w : Nat) (f : Win → Win) : (h.updWin d w f).pins = h.pins := rfl

/-! ### setSite -/

@[simp] theorem Hw.setSite_variant (h : Hw) (c : Nat) (f : Site → Site) : (h.setSite c f).variant = h.variant := rfl
@[simp] theorem Hw.setSite_now (h : Hw) (c : Nat) (f : Site → Site) : (h.setSite c f).now = h.now := rfl
@[simp] theorem Hw.setSite_free (h : Hw) (c : Nat) (f : Site → Site) : (h.setSite c f).free = h.free := rfl
@[simp] theorem Hw.setSite_nextId (h : Hw) (c : Nat) (f : Site → Site) : (h.setSite c f).nextId = h.nextId := rfl
@[simp] theorem Hw.setSite_flitMark (h : Hw) (c : Nat) (f : Site → Site) : (h.setSite c f).flitMark = h.flitMark := rfl
@[simp] theorem Hw.setSite_powered (h : Hw) (c : Nat) (f : Site → Site) : (h.setSite c f).powered = h.powered := rfl
@[simp] theorem Hw.setSite_regs (h : Hw) (c : Nat) (f : Site → Site) : (h.setSite c f).regs = h.regs := rfl
@[simp] theorem Hw.setSite_cores (h : Hw) (c : Nat) (f : Site → Site) : (h.setSite c f).cores = h.cores := rfl
@[simp] theorem Hw.setSite_rings (h : Hw) (c : Nat) (f : Site → Site) : (h.setSite c f).rings = h.rings := rfl
@[simp] theorem Hw.setSite_chans (h : Hw) (c : Nat) (f : Site → Site) : (h.setSite c f).chans = h.chans := rfl
@[simp] theorem Hw.setSite_dies (h : Hw) (c : Nat) (f : Site → Site) : (h.setSite c f).dies = h.dies := rfl
@[simp] theorem Hw.setSite_mems (h : Hw) (c : Nat) (f : Site → Site) : (h.setSite c f).mems = h.mems := rfl
@[simp] theorem Hw.setSite_engines (h : Hw) (c : Nat) (f : Site → Site) : (h.setSite c f).engines = h.engines := rfl
@[simp] theorem Hw.setSite_units (h : Hw) (c : Nat) (f : Site → Site) : (h.setSite c f).units = h.units := rfl
@[simp] theorem Hw.setSite_gddr (h : Hw) (c : Nat) (f : Site → Site) : (h.setSite c f).gddr = h.gddr := rfl
@[simp] theorem Hw.setSite_cxlMem (h : Hw) (c : Nat) (f : Site → Site) : (h.setSite c f).cxlMem = h.cxlMem := rfl
@[simp] theorem Hw.setSite_cxlPoison (h : Hw) (c : Nat) (f : Site → Site) : (h.setSite c f).cxlPoison = h.cxlPoison := rfl
@[simp] theorem Hw.setSite_cxlPorts (h : Hw) (c : Nat) (f : Site → Site) : (h.setSite c f).cxlPorts = h.cxlPorts := rfl
@[simp] theorem Hw.setSite_nets (h : Hw) (c : Nat) (f : Site → Site) : (h.setSite c f).nets = h.nets := rfl
@[simp] theorem Hw.setSite_ports (h : Hw) (c : Nat) (f : Site → Site) : (h.setSite c f).ports = h.ports := rfl
@[simp] theorem Hw.setSite_links (h : Hw) (c : Nat) (f : Site → Site) : (h.setSite c f).links = h.links := rfl
@[simp] theorem Hw.setSite_audits (h : Hw) (c : Nat) (f : Site → Site) : (h.setSite c f).audits = h.audits := rfl
@[simp] theorem Hw.setSite_flight (h : Hw) (c : Nat) (f : Site → Site) : (h.setSite c f).flight = h.flight := rfl
@[simp] theorem Hw.setSite_reqs (h : Hw) (c : Nat) (f : Site → Site) : (h.setSite c f).reqs = h.reqs := rfl
@[simp] theorem Hw.setSite_rsps (h : Hw) (c : Nat) (f : Site → Site) : (h.setSite c f).rsps = h.rsps := rfl
@[simp] theorem Hw.setSite_out (h : Hw) (c : Nat) (f : Site → Site) : (h.setSite c f).out = h.out := rfl
@[simp] theorem Hw.setSite_sensors (h : Hw) (c : Nat) (f : Site → Site) : (h.setSite c f).sensors = h.sensors := rfl
@[simp] theorem Hw.setSite_levels (h : Hw) (c : Nat) (f : Site → Site) : (h.setSite c f).levels = h.levels := rfl
@[simp] theorem Hw.setSite_k0 (h : Hw) (c : Nat) (f : Site → Site) : (h.setSite c f).k0 = h.k0 := rfl
@[simp] theorem Hw.setSite_pins (h : Hw) (c : Nat) (f : Site → Site) : (h.setSite c f).pins = h.pins := rfl

/-! ### updTile -/

@[simp] theorem Hw.updTile_variant (h : Hw) (c : CoreId) (n : Fin 8) (f : Tile → Tile) : (h.updTile c n f).variant = h.variant := rfl
@[simp] theorem Hw.updTile_now (h : Hw) (c : CoreId) (n : Fin 8) (f : Tile → Tile) : (h.updTile c n f).now = h.now := rfl
@[simp] theorem Hw.updTile_free (h : Hw) (c : CoreId) (n : Fin 8) (f : Tile → Tile) : (h.updTile c n f).free = h.free := rfl
@[simp] theorem Hw.updTile_nextId (h : Hw) (c : CoreId) (n : Fin 8) (f : Tile → Tile) : (h.updTile c n f).nextId = h.nextId := rfl
@[simp] theorem Hw.updTile_flitMark (h : Hw) (c : CoreId) (n : Fin 8) (f : Tile → Tile) : (h.updTile c n f).flitMark = h.flitMark := rfl
@[simp] theorem Hw.updTile_powered (h : Hw) (c : CoreId) (n : Fin 8) (f : Tile → Tile) : (h.updTile c n f).powered = h.powered := rfl
@[simp] theorem Hw.updTile_regs (h : Hw) (c : CoreId) (n : Fin 8) (f : Tile → Tile) : (h.updTile c n f).regs = h.regs := rfl
@[simp] theorem Hw.updTile_sites (h : Hw) (c : CoreId) (n : Fin 8) (f : Tile → Tile) : (h.updTile c n f).sites = h.sites := rfl
@[simp] theorem Hw.updTile_rings (h : Hw) (c : CoreId) (n : Fin 8) (f : Tile → Tile) : (h.updTile c n f).rings = h.rings := rfl
@[simp] theorem Hw.updTile_chans (h : Hw) (c : CoreId) (n : Fin 8) (f : Tile → Tile) : (h.updTile c n f).chans = h.chans := rfl
@[simp] theorem Hw.updTile_dies (h : Hw) (c : CoreId) (n : Fin 8) (f : Tile → Tile) : (h.updTile c n f).dies = h.dies := rfl
@[simp] theorem Hw.updTile_mems (h : Hw) (c : CoreId) (n : Fin 8) (f : Tile → Tile) : (h.updTile c n f).mems = h.mems := rfl
@[simp] theorem Hw.updTile_engines (h : Hw) (c : CoreId) (n : Fin 8) (f : Tile → Tile) : (h.updTile c n f).engines = h.engines := rfl
@[simp] theorem Hw.updTile_units (h : Hw) (c : CoreId) (n : Fin 8) (f : Tile → Tile) : (h.updTile c n f).units = h.units := rfl
@[simp] theorem Hw.updTile_gddr (h : Hw) (c : CoreId) (n : Fin 8) (f : Tile → Tile) : (h.updTile c n f).gddr = h.gddr := rfl
@[simp] theorem Hw.updTile_cxlMem (h : Hw) (c : CoreId) (n : Fin 8) (f : Tile → Tile) : (h.updTile c n f).cxlMem = h.cxlMem := rfl
@[simp] theorem Hw.updTile_cxlPoison (h : Hw) (c : CoreId) (n : Fin 8) (f : Tile → Tile) : (h.updTile c n f).cxlPoison = h.cxlPoison := rfl
@[simp] theorem Hw.updTile_cxlPorts (h : Hw) (c : CoreId) (n : Fin 8) (f : Tile → Tile) : (h.updTile c n f).cxlPorts = h.cxlPorts := rfl
@[simp] theorem Hw.updTile_nets (h : Hw) (c : CoreId) (n : Fin 8) (f : Tile → Tile) : (h.updTile c n f).nets = h.nets := rfl
@[simp] theorem Hw.updTile_ports (h : Hw) (c : CoreId) (n : Fin 8) (f : Tile → Tile) : (h.updTile c n f).ports = h.ports := rfl
@[simp] theorem Hw.updTile_links (h : Hw) (c : CoreId) (n : Fin 8) (f : Tile → Tile) : (h.updTile c n f).links = h.links := rfl
@[simp] theorem Hw.updTile_audits (h : Hw) (c : CoreId) (n : Fin 8) (f : Tile → Tile) : (h.updTile c n f).audits = h.audits := rfl
@[simp] theorem Hw.updTile_flight (h : Hw) (c : CoreId) (n : Fin 8) (f : Tile → Tile) : (h.updTile c n f).flight = h.flight := rfl
@[simp] theorem Hw.updTile_reqs (h : Hw) (c : CoreId) (n : Fin 8) (f : Tile → Tile) : (h.updTile c n f).reqs = h.reqs := rfl
@[simp] theorem Hw.updTile_rsps (h : Hw) (c : CoreId) (n : Fin 8) (f : Tile → Tile) : (h.updTile c n f).rsps = h.rsps := rfl
@[simp] theorem Hw.updTile_out (h : Hw) (c : CoreId) (n : Fin 8) (f : Tile → Tile) : (h.updTile c n f).out = h.out := rfl
@[simp] theorem Hw.updTile_sensors (h : Hw) (c : CoreId) (n : Fin 8) (f : Tile → Tile) : (h.updTile c n f).sensors = h.sensors := rfl
@[simp] theorem Hw.updTile_levels (h : Hw) (c : CoreId) (n : Fin 8) (f : Tile → Tile) : (h.updTile c n f).levels = h.levels := rfl
@[simp] theorem Hw.updTile_k0 (h : Hw) (c : CoreId) (n : Fin 8) (f : Tile → Tile) : (h.updTile c n f).k0 = h.k0 := rfl
@[simp] theorem Hw.updTile_pins (h : Hw) (c : CoreId) (n : Fin 8) (f : Tile → Tile) : (h.updTile c n f).pins = h.pins := rfl

/-! ### updEng -/

@[simp] theorem Hw.updEng_variant (h : Hw) (e : Eng) (f : Jasper → Jasper) : (h.updEng e f).variant = h.variant := rfl
@[simp] theorem Hw.updEng_now (h : Hw) (e : Eng) (f : Jasper → Jasper) : (h.updEng e f).now = h.now := rfl
@[simp] theorem Hw.updEng_free (h : Hw) (e : Eng) (f : Jasper → Jasper) : (h.updEng e f).free = h.free := rfl
@[simp] theorem Hw.updEng_nextId (h : Hw) (e : Eng) (f : Jasper → Jasper) : (h.updEng e f).nextId = h.nextId := rfl
@[simp] theorem Hw.updEng_flitMark (h : Hw) (e : Eng) (f : Jasper → Jasper) : (h.updEng e f).flitMark = h.flitMark := rfl
@[simp] theorem Hw.updEng_powered (h : Hw) (e : Eng) (f : Jasper → Jasper) : (h.updEng e f).powered = h.powered := rfl
@[simp] theorem Hw.updEng_regs (h : Hw) (e : Eng) (f : Jasper → Jasper) : (h.updEng e f).regs = h.regs := rfl
@[simp] theorem Hw.updEng_cores (h : Hw) (e : Eng) (f : Jasper → Jasper) : (h.updEng e f).cores = h.cores := rfl
@[simp] theorem Hw.updEng_sites (h : Hw) (e : Eng) (f : Jasper → Jasper) : (h.updEng e f).sites = h.sites := rfl
@[simp] theorem Hw.updEng_rings (h : Hw) (e : Eng) (f : Jasper → Jasper) : (h.updEng e f).rings = h.rings := rfl
@[simp] theorem Hw.updEng_chans (h : Hw) (e : Eng) (f : Jasper → Jasper) : (h.updEng e f).chans = h.chans := rfl
@[simp] theorem Hw.updEng_dies (h : Hw) (e : Eng) (f : Jasper → Jasper) : (h.updEng e f).dies = h.dies := rfl
@[simp] theorem Hw.updEng_mems (h : Hw) (e : Eng) (f : Jasper → Jasper) : (h.updEng e f).mems = h.mems := rfl
@[simp] theorem Hw.updEng_units (h : Hw) (e : Eng) (f : Jasper → Jasper) : (h.updEng e f).units = h.units := rfl
@[simp] theorem Hw.updEng_gddr (h : Hw) (e : Eng) (f : Jasper → Jasper) : (h.updEng e f).gddr = h.gddr := rfl
@[simp] theorem Hw.updEng_cxlMem (h : Hw) (e : Eng) (f : Jasper → Jasper) : (h.updEng e f).cxlMem = h.cxlMem := rfl
@[simp] theorem Hw.updEng_cxlPoison (h : Hw) (e : Eng) (f : Jasper → Jasper) : (h.updEng e f).cxlPoison = h.cxlPoison := rfl
@[simp] theorem Hw.updEng_cxlPorts (h : Hw) (e : Eng) (f : Jasper → Jasper) : (h.updEng e f).cxlPorts = h.cxlPorts := rfl
@[simp] theorem Hw.updEng_nets (h : Hw) (e : Eng) (f : Jasper → Jasper) : (h.updEng e f).nets = h.nets := rfl
@[simp] theorem Hw.updEng_ports (h : Hw) (e : Eng) (f : Jasper → Jasper) : (h.updEng e f).ports = h.ports := rfl
@[simp] theorem Hw.updEng_links (h : Hw) (e : Eng) (f : Jasper → Jasper) : (h.updEng e f).links = h.links := rfl
@[simp] theorem Hw.updEng_audits (h : Hw) (e : Eng) (f : Jasper → Jasper) : (h.updEng e f).audits = h.audits := rfl
@[simp] theorem Hw.updEng_flight (h : Hw) (e : Eng) (f : Jasper → Jasper) : (h.updEng e f).flight = h.flight := rfl
@[simp] theorem Hw.updEng_reqs (h : Hw) (e : Eng) (f : Jasper → Jasper) : (h.updEng e f).reqs = h.reqs := rfl
@[simp] theorem Hw.updEng_rsps (h : Hw) (e : Eng) (f : Jasper → Jasper) : (h.updEng e f).rsps = h.rsps := rfl
@[simp] theorem Hw.updEng_out (h : Hw) (e : Eng) (f : Jasper → Jasper) : (h.updEng e f).out = h.out := rfl
@[simp] theorem Hw.updEng_sensors (h : Hw) (e : Eng) (f : Jasper → Jasper) : (h.updEng e f).sensors = h.sensors := rfl
@[simp] theorem Hw.updEng_levels (h : Hw) (e : Eng) (f : Jasper → Jasper) : (h.updEng e f).levels = h.levels := rfl
@[simp] theorem Hw.updEng_k0 (h : Hw) (e : Eng) (f : Jasper → Jasper) : (h.updEng e f).k0 = h.k0 := rfl
@[simp] theorem Hw.updEng_pins (h : Hw) (e : Eng) (f : Jasper → Jasper) : (h.updEng e f).pins = h.pins := rfl

/-! ### bump -/

@[simp] theorem Hw.bump_variant (h : Hw) (d b o : Nat) : (h.bump d b o).variant = h.variant := rfl
@[simp] theorem Hw.bump_now (h : Hw) (d b o : Nat) : (h.bump d b o).now = h.now := rfl
@[simp] theorem Hw.bump_free (h : Hw) (d b o : Nat) : (h.bump d b o).free = h.free := rfl
@[simp] theorem Hw.bump_nextId (h : Hw) (d b o : Nat) : (h.bump d b o).nextId = h.nextId := rfl
@[simp] theorem Hw.bump_flitMark (h : Hw) (d b o : Nat) : (h.bump d b o).flitMark = h.flitMark := rfl
@[simp] theorem Hw.bump_powered (h : Hw) (d b o : Nat) : (h.bump d b o).powered = h.powered := rfl
@[simp] theorem Hw.bump_cores (h : Hw) (d b o : Nat) : (h.bump d b o).cores = h.cores := rfl
@[simp] theorem Hw.bump_sites (h : Hw) (d b o : Nat) : (h.bump d b o).sites = h.sites := rfl
@[simp] theorem Hw.bump_rings (h : Hw) (d b o : Nat) : (h.bump d b o).rings = h.rings := rfl
@[simp] theorem Hw.bump_chans (h : Hw) (d b o : Nat) : (h.bump d b o).chans = h.chans := rfl
@[simp] theorem Hw.bump_dies (h : Hw) (d b o : Nat) : (h.bump d b o).dies = h.dies := rfl
@[simp] theorem Hw.bump_mems (h : Hw) (d b o : Nat) : (h.bump d b o).mems = h.mems := rfl
@[simp] theorem Hw.bump_engines (h : Hw) (d b o : Nat) : (h.bump d b o).engines = h.engines := rfl
@[simp] theorem Hw.bump_units (h : Hw) (d b o : Nat) : (h.bump d b o).units = h.units := rfl
@[simp] theorem Hw.bump_gddr (h : Hw) (d b o : Nat) : (h.bump d b o).gddr = h.gddr := rfl
@[simp] theorem Hw.bump_cxlMem (h : Hw) (d b o : Nat) : (h.bump d b o).cxlMem = h.cxlMem := rfl
@[simp] theorem Hw.bump_cxlPoison (h : Hw) (d b o : Nat) : (h.bump d b o).cxlPoison = h.cxlPoison := rfl
@[simp] theorem Hw.bump_cxlPorts (h : Hw) (d b o : Nat) : (h.bump d b o).cxlPorts = h.cxlPorts := rfl
@[simp] theorem Hw.bump_nets (h : Hw) (d b o : Nat) : (h.bump d b o).nets = h.nets := rfl
@[simp] theorem Hw.bump_ports (h : Hw) (d b o : Nat) : (h.bump d b o).ports = h.ports := rfl
@[simp] theorem Hw.bump_links (h : Hw) (d b o : Nat) : (h.bump d b o).links = h.links := rfl
@[simp] theorem Hw.bump_audits (h : Hw) (d b o : Nat) : (h.bump d b o).audits = h.audits := rfl
@[simp] theorem Hw.bump_flight (h : Hw) (d b o : Nat) : (h.bump d b o).flight = h.flight := rfl
@[simp] theorem Hw.bump_reqs (h : Hw) (d b o : Nat) : (h.bump d b o).reqs = h.reqs := rfl
@[simp] theorem Hw.bump_rsps (h : Hw) (d b o : Nat) : (h.bump d b o).rsps = h.rsps := rfl
@[simp] theorem Hw.bump_out (h : Hw) (d b o : Nat) : (h.bump d b o).out = h.out := rfl
@[simp] theorem Hw.bump_sensors (h : Hw) (d b o : Nat) : (h.bump d b o).sensors = h.sensors := rfl
@[simp] theorem Hw.bump_levels (h : Hw) (d b o : Nat) : (h.bump d b o).levels = h.levels := rfl
@[simp] theorem Hw.bump_k0 (h : Hw) (d b o : Nat) : (h.bump d b o).k0 = h.k0 := rfl
@[simp] theorem Hw.bump_pins (h : Hw) (d b o : Nat) : (h.bump d b o).pins = h.pins := rfl

/-! ### bumpSat -/

@[simp] theorem Hw.bumpSat_variant (h : Hw) (d b o : Nat) : (h.bumpSat d b o).variant = h.variant := rfl
@[simp] theorem Hw.bumpSat_now (h : Hw) (d b o : Nat) : (h.bumpSat d b o).now = h.now := rfl
@[simp] theorem Hw.bumpSat_free (h : Hw) (d b o : Nat) : (h.bumpSat d b o).free = h.free := rfl
@[simp] theorem Hw.bumpSat_nextId (h : Hw) (d b o : Nat) : (h.bumpSat d b o).nextId = h.nextId := rfl
@[simp] theorem Hw.bumpSat_flitMark (h : Hw) (d b o : Nat) : (h.bumpSat d b o).flitMark = h.flitMark := rfl
@[simp] theorem Hw.bumpSat_powered (h : Hw) (d b o : Nat) : (h.bumpSat d b o).powered = h.powered := rfl
@[simp] theorem Hw.bumpSat_cores (h : Hw) (d b o : Nat) : (h.bumpSat d b o).cores = h.cores := rfl
@[simp] theorem Hw.bumpSat_sites (h : Hw) (d b o : Nat) : (h.bumpSat d b o).sites = h.sites := rfl
@[simp] theorem Hw.bumpSat_rings (h : Hw) (d b o : Nat) : (h.bumpSat d b o).rings = h.rings := rfl
@[simp] theorem Hw.bumpSat_chans (h : Hw) (d b o : Nat) : (h.bumpSat d b o).chans = h.chans := rfl
@[simp] theorem Hw.bumpSat_dies (h : Hw) (d b o : Nat) : (h.bumpSat d b o).dies = h.dies := rfl
@[simp] theorem Hw.bumpSat_mems (h : Hw) (d b o : Nat) : (h.bumpSat d b o).mems = h.mems := rfl
@[simp] theorem Hw.bumpSat_engines (h : Hw) (d b o : Nat) : (h.bumpSat d b o).engines = h.engines := rfl
@[simp] theorem Hw.bumpSat_units (h : Hw) (d b o : Nat) : (h.bumpSat d b o).units = h.units := rfl
@[simp] theorem Hw.bumpSat_gddr (h : Hw) (d b o : Nat) : (h.bumpSat d b o).gddr = h.gddr := rfl
@[simp] theorem Hw.bumpSat_cxlMem (h : Hw) (d b o : Nat) : (h.bumpSat d b o).cxlMem = h.cxlMem := rfl
@[simp] theorem Hw.bumpSat_cxlPoison (h : Hw) (d b o : Nat) : (h.bumpSat d b o).cxlPoison = h.cxlPoison := rfl
@[simp] theorem Hw.bumpSat_cxlPorts (h : Hw) (d b o : Nat) : (h.bumpSat d b o).cxlPorts = h.cxlPorts := rfl
@[simp] theorem Hw.bumpSat_nets (h : Hw) (d b o : Nat) : (h.bumpSat d b o).nets = h.nets := rfl
@[simp] theorem Hw.bumpSat_ports (h : Hw) (d b o : Nat) : (h.bumpSat d b o).ports = h.ports := rfl
@[simp] theorem Hw.bumpSat_links (h : Hw) (d b o : Nat) : (h.bumpSat d b o).links = h.links := rfl
@[simp] theorem Hw.bumpSat_audits (h : Hw) (d b o : Nat) : (h.bumpSat d b o).audits = h.audits := rfl
@[simp] theorem Hw.bumpSat_flight (h : Hw) (d b o : Nat) : (h.bumpSat d b o).flight = h.flight := rfl
@[simp] theorem Hw.bumpSat_reqs (h : Hw) (d b o : Nat) : (h.bumpSat d b o).reqs = h.reqs := rfl
@[simp] theorem Hw.bumpSat_rsps (h : Hw) (d b o : Nat) : (h.bumpSat d b o).rsps = h.rsps := rfl
@[simp] theorem Hw.bumpSat_out (h : Hw) (d b o : Nat) : (h.bumpSat d b o).out = h.out := rfl
@[simp] theorem Hw.bumpSat_sensors (h : Hw) (d b o : Nat) : (h.bumpSat d b o).sensors = h.sensors := rfl
@[simp] theorem Hw.bumpSat_levels (h : Hw) (d b o : Nat) : (h.bumpSat d b o).levels = h.levels := rfl
@[simp] theorem Hw.bumpSat_k0 (h : Hw) (d b o : Nat) : (h.bumpSat d b o).k0 = h.k0 := rfl
@[simp] theorem Hw.bumpSat_pins (h : Hw) (d b o : Nat) : (h.bumpSat d b o).pins = h.pins := rfl

/-! ### setEv -/

@[simp] theorem Hw.setEv_variant (h : Hw) (c : CoreId) (t : Tid) (b : Nat) : (h.setEv c t b).variant = h.variant := rfl
@[simp] theorem Hw.setEv_now (h : Hw) (c : CoreId) (t : Tid) (b : Nat) : (h.setEv c t b).now = h.now := rfl
@[simp] theorem Hw.setEv_free (h : Hw) (c : CoreId) (t : Tid) (b : Nat) : (h.setEv c t b).free = h.free := rfl
@[simp] theorem Hw.setEv_nextId (h : Hw) (c : CoreId) (t : Tid) (b : Nat) : (h.setEv c t b).nextId = h.nextId := rfl
@[simp] theorem Hw.setEv_flitMark (h : Hw) (c : CoreId) (t : Tid) (b : Nat) : (h.setEv c t b).flitMark = h.flitMark := rfl
@[simp] theorem Hw.setEv_powered (h : Hw) (c : CoreId) (t : Tid) (b : Nat) : (h.setEv c t b).powered = h.powered := rfl
@[simp] theorem Hw.setEv_regs (h : Hw) (c : CoreId) (t : Tid) (b : Nat) : (h.setEv c t b).regs = h.regs := rfl
@[simp] theorem Hw.setEv_sites (h : Hw) (c : CoreId) (t : Tid) (b : Nat) : (h.setEv c t b).sites = h.sites := rfl
@[simp] theorem Hw.setEv_rings (h : Hw) (c : CoreId) (t : Tid) (b : Nat) : (h.setEv c t b).rings = h.rings := rfl
@[simp] theorem Hw.setEv_chans (h : Hw) (c : CoreId) (t : Tid) (b : Nat) : (h.setEv c t b).chans = h.chans := rfl
@[simp] theorem Hw.setEv_dies (h : Hw) (c : CoreId) (t : Tid) (b : Nat) : (h.setEv c t b).dies = h.dies := rfl
@[simp] theorem Hw.setEv_mems (h : Hw) (c : CoreId) (t : Tid) (b : Nat) : (h.setEv c t b).mems = h.mems := rfl
@[simp] theorem Hw.setEv_engines (h : Hw) (c : CoreId) (t : Tid) (b : Nat) : (h.setEv c t b).engines = h.engines := rfl
@[simp] theorem Hw.setEv_units (h : Hw) (c : CoreId) (t : Tid) (b : Nat) : (h.setEv c t b).units = h.units := rfl
@[simp] theorem Hw.setEv_gddr (h : Hw) (c : CoreId) (t : Tid) (b : Nat) : (h.setEv c t b).gddr = h.gddr := rfl
@[simp] theorem Hw.setEv_cxlMem (h : Hw) (c : CoreId) (t : Tid) (b : Nat) : (h.setEv c t b).cxlMem = h.cxlMem := rfl
@[simp] theorem Hw.setEv_cxlPoison (h : Hw) (c : CoreId) (t : Tid) (b : Nat) : (h.setEv c t b).cxlPoison = h.cxlPoison := rfl
@[simp] theorem Hw.setEv_cxlPorts (h : Hw) (c : CoreId) (t : Tid) (b : Nat) : (h.setEv c t b).cxlPorts = h.cxlPorts := rfl
@[simp] theorem Hw.setEv_nets (h : Hw) (c : CoreId) (t : Tid) (b : Nat) : (h.setEv c t b).nets = h.nets := rfl
@[simp] theorem Hw.setEv_ports (h : Hw) (c : CoreId) (t : Tid) (b : Nat) : (h.setEv c t b).ports = h.ports := rfl
@[simp] theorem Hw.setEv_links (h : Hw) (c : CoreId) (t : Tid) (b : Nat) : (h.setEv c t b).links = h.links := rfl
@[simp] theorem Hw.setEv_audits (h : Hw) (c : CoreId) (t : Tid) (b : Nat) : (h.setEv c t b).audits = h.audits := rfl
@[simp] theorem Hw.setEv_flight (h : Hw) (c : CoreId) (t : Tid) (b : Nat) : (h.setEv c t b).flight = h.flight := rfl
@[simp] theorem Hw.setEv_reqs (h : Hw) (c : CoreId) (t : Tid) (b : Nat) : (h.setEv c t b).reqs = h.reqs := rfl
@[simp] theorem Hw.setEv_rsps (h : Hw) (c : CoreId) (t : Tid) (b : Nat) : (h.setEv c t b).rsps = h.rsps := rfl
@[simp] theorem Hw.setEv_out (h : Hw) (c : CoreId) (t : Tid) (b : Nat) : (h.setEv c t b).out = h.out := rfl
@[simp] theorem Hw.setEv_sensors (h : Hw) (c : CoreId) (t : Tid) (b : Nat) : (h.setEv c t b).sensors = h.sensors := rfl
@[simp] theorem Hw.setEv_levels (h : Hw) (c : CoreId) (t : Tid) (b : Nat) : (h.setEv c t b).levels = h.levels := rfl
@[simp] theorem Hw.setEv_k0 (h : Hw) (c : CoreId) (t : Tid) (b : Nat) : (h.setEv c t b).k0 = h.k0 := rfl
@[simp] theorem Hw.setEv_pins (h : Hw) (c : CoreId) (t : Tid) (b : Nat) : (h.setEv c t b).pins = h.pins := rfl

/-! ### A thread of a core -/

@[simp] theorem Core.setT_lmem (k : Core) (t : Tid) (x : Thread) : (k.setT t x).lmem = k.lmem := rfl
@[simp] theorem Core.setT_ltag (k : Core) (t : Tid) (x : Thread) : (k.setT t x).ltag = k.ltag := rfl
@[simp] theorem Core.setT_lbad (k : Core) (t : Tid) (x : Thread) : (k.setT t x).lbad = k.lbad := rfl
@[simp] theorem Core.setT_tiles (k : Core) (t : Tid) (x : Thread) : (k.setT t x).tiles = k.tiles := rfl
@[simp] theorem Core.setT_accs (k : Core) (t : Tid) (x : Thread) : (k.setT t x).accs = k.accs := rfl
@[simp] theorem Core.setT_dcache (k : Core) (t : Tid) (x : Thread) : (k.setT t x).dcache = k.dcache := rfl
@[simp] theorem Core.setT_icache (k : Core) (t : Tid) (x : Thread) : (k.setT t x).icache = k.icache := rfl
@[simp] theorem Core.setT_tb (k : Core) (t : Tid) (x : Thread) : (k.setT t x).tb = k.tb := rfl
@[simp] theorem Core.setT_locks (k : Core) (t : Tid) (x : Thread) : (k.setT t x).locks = k.locks := rfl
@[simp] theorem Core.setT_gens (k : Core) (t : Tid) (x : Thread) : (k.setT t x).gens = k.gens := rfl
@[simp] theorem Core.setT_tfLog (k : Core) (t : Tid) (x : Thread) : (k.setT t x).tfLog = k.tfLog := rfl
@[simp] theorem Core.setT_tfPc (k : Core) (t : Tid) (x : Thread) : (k.setT t x).tfPc = k.tfPc := rfl
@[simp] theorem Core.setT_poolEsp (k : Core) (t : Tid) (x : Thread) : (k.setT t x).poolEsp = k.poolEsp := rfl
@[simp] theorem Core.setT_poolLimit (k : Core) (t : Tid) (x : Thread) : (k.setT t x).poolLimit = k.poolLimit := rfl
@[simp] theorem Core.setT_threadfEn (k : Core) (t : Tid) (x : Thread) : (k.setT t x).threadfEn = k.threadfEn := rfl
@[simp] theorem Core.setT_cycle (k : Core) (t : Tid) (x : Thread) : (k.setT t x).cycle = k.cycle := rfl
@[simp] theorem Core.setT_stallCnt (k : Core) (t : Tid) (x : Thread) : (k.setT t x).stallCnt = k.stallCnt := rfl
@[simp] theorem Core.setT_front (k : Core) (t : Tid) (x : Thread) : (k.setT t x).front = k.front := rfl
@[simp] theorem Core.setT_back (k : Core) (t : Tid) (x : Thread) : (k.setT t x).back = k.back := rfl
@[simp] theorem Core.setT_seq (k : Core) (t : Tid) (x : Thread) : (k.setT t x).seq = k.seq := rfl
@[simp] theorem Core.setT_gwaits (k : Core) (t : Tid) (x : Thread) : (k.setT t x).gwaits = k.gwaits := rfl
@[simp] theorem Core.setT_latches (k : Core) (t : Tid) (x : Thread) : (k.setT t x).latches = k.latches := rfl
@[simp] theorem Core.setT_rr2Rows (k : Core) (t : Tid) (x : Thread) : (k.setT t x).rr2Rows = k.rr2Rows := rfl
@[simp] theorem Core.setT_rr2Ecc (k : Core) (t : Tid) (x : Thread) : (k.setT t x).rr2Ecc = k.rr2Ecc := rfl
@[simp] theorem Core.setT_rr2Mode (k : Core) (t : Tid) (x : Thread) : (k.setT t x).rr2Mode = k.rr2Mode := rfl
@[simp] theorem Core.setT_credits (k : Core) (t : Tid) (x : Thread) : (k.setT t x).credits = k.credits := rfl
@[simp] theorem Core.setT_frStaged (k : Core) (t : Tid) (x : Thread) : (k.setT t x).frStaged = k.frStaged := rfl
@[simp] theorem Core.setT_outs (k : Core) (t : Tid) (x : Thread) : (k.setT t x).outs = k.outs := rfl
@[simp] theorem Core.setT_islandErr (k : Core) (t : Tid) (x : Thread) : (k.setT t x).islandErr = k.islandErr := rfl
@[simp] theorem Core.setT_wakeSrc (k : Core) (t : Tid) (x : Thread) : (k.setT t x).wakeSrc = k.wakeSrc := rfl
@[simp] theorem Core.updT_lmem (k : Core) (t : Tid) (f : Thread → Thread) : (k.updT t f).lmem = k.lmem := rfl
@[simp] theorem Core.updT_ltag (k : Core) (t : Tid) (f : Thread → Thread) : (k.updT t f).ltag = k.ltag := rfl
@[simp] theorem Core.updT_lbad (k : Core) (t : Tid) (f : Thread → Thread) : (k.updT t f).lbad = k.lbad := rfl
@[simp] theorem Core.updT_tiles (k : Core) (t : Tid) (f : Thread → Thread) : (k.updT t f).tiles = k.tiles := rfl
@[simp] theorem Core.updT_accs (k : Core) (t : Tid) (f : Thread → Thread) : (k.updT t f).accs = k.accs := rfl
@[simp] theorem Core.updT_dcache (k : Core) (t : Tid) (f : Thread → Thread) : (k.updT t f).dcache = k.dcache := rfl
@[simp] theorem Core.updT_icache (k : Core) (t : Tid) (f : Thread → Thread) : (k.updT t f).icache = k.icache := rfl
@[simp] theorem Core.updT_tb (k : Core) (t : Tid) (f : Thread → Thread) : (k.updT t f).tb = k.tb := rfl
@[simp] theorem Core.updT_locks (k : Core) (t : Tid) (f : Thread → Thread) : (k.updT t f).locks = k.locks := rfl
@[simp] theorem Core.updT_gens (k : Core) (t : Tid) (f : Thread → Thread) : (k.updT t f).gens = k.gens := rfl
@[simp] theorem Core.updT_tfLog (k : Core) (t : Tid) (f : Thread → Thread) : (k.updT t f).tfLog = k.tfLog := rfl
@[simp] theorem Core.updT_tfPc (k : Core) (t : Tid) (f : Thread → Thread) : (k.updT t f).tfPc = k.tfPc := rfl
@[simp] theorem Core.updT_poolEsp (k : Core) (t : Tid) (f : Thread → Thread) : (k.updT t f).poolEsp = k.poolEsp := rfl
@[simp] theorem Core.updT_poolLimit (k : Core) (t : Tid) (f : Thread → Thread) : (k.updT t f).poolLimit = k.poolLimit := rfl
@[simp] theorem Core.updT_threadfEn (k : Core) (t : Tid) (f : Thread → Thread) : (k.updT t f).threadfEn = k.threadfEn := rfl
@[simp] theorem Core.updT_cycle (k : Core) (t : Tid) (f : Thread → Thread) : (k.updT t f).cycle = k.cycle := rfl
@[simp] theorem Core.updT_stallCnt (k : Core) (t : Tid) (f : Thread → Thread) : (k.updT t f).stallCnt = k.stallCnt := rfl
@[simp] theorem Core.updT_front (k : Core) (t : Tid) (f : Thread → Thread) : (k.updT t f).front = k.front := rfl
@[simp] theorem Core.updT_back (k : Core) (t : Tid) (f : Thread → Thread) : (k.updT t f).back = k.back := rfl
@[simp] theorem Core.updT_seq (k : Core) (t : Tid) (f : Thread → Thread) : (k.updT t f).seq = k.seq := rfl
@[simp] theorem Core.updT_gwaits (k : Core) (t : Tid) (f : Thread → Thread) : (k.updT t f).gwaits = k.gwaits := rfl
@[simp] theorem Core.updT_latches (k : Core) (t : Tid) (f : Thread → Thread) : (k.updT t f).latches = k.latches := rfl
@[simp] theorem Core.updT_rr2Rows (k : Core) (t : Tid) (f : Thread → Thread) : (k.updT t f).rr2Rows = k.rr2Rows := rfl
@[simp] theorem Core.updT_rr2Ecc (k : Core) (t : Tid) (f : Thread → Thread) : (k.updT t f).rr2Ecc = k.rr2Ecc := rfl
@[simp] theorem Core.updT_rr2Mode (k : Core) (t : Tid) (f : Thread → Thread) : (k.updT t f).rr2Mode = k.rr2Mode := rfl
@[simp] theorem Core.updT_credits (k : Core) (t : Tid) (f : Thread → Thread) : (k.updT t f).credits = k.credits := rfl
@[simp] theorem Core.updT_frStaged (k : Core) (t : Tid) (f : Thread → Thread) : (k.updT t f).frStaged = k.frStaged := rfl
@[simp] theorem Core.updT_outs (k : Core) (t : Tid) (f : Thread → Thread) : (k.updT t f).outs = k.outs := rfl
@[simp] theorem Core.updT_islandErr (k : Core) (t : Tid) (f : Thread → Thread) : (k.updT t f).islandErr = k.islandErr := rfl
@[simp] theorem Core.updT_wakeSrc (k : Core) (t : Tid) (f : Thread → Thread) : (k.updT t f).wakeSrc = k.wakeSrc := rfl

/-! ### Registers of a thread -/

@[simp] theorem Thread.setVec_g (x : Thread) (r : Reg) (v : VWord) : (x.setVec r v).g = x.g := rfl
@[simp] theorem Thread.setVec_k (x : Thread) (r : Reg) (v : VWord) : (x.setVec r v).k = x.k := rfl
@[simp] theorem Thread.setVec_pc (x : Thread) (r : Reg) (v : VWord) : (x.setVec r v).pc = x.pc := rfl
@[simp] theorem Thread.setVec_st (x : Thread) (r : Reg) (v : VWord) : (x.setVec r v).st = x.st := rfl
@[simp] theorem Thread.setVec_evPend (x : Thread) (r : Reg) (v : VWord) : (x.setVec r v).evPend = x.evPend := rfl
@[simp] theorem Thread.setVec_rs (x : Thread) (r : Reg) (v : VWord) : (x.setVec r v).rs = x.rs := rfl
@[simp] theorem Thread.setVec_fpcsr (x : Thread) (r : Reg) (v : VWord) : (x.setVec r v).fpcsr = x.fpcsr := rfl
@[simp] theorem Thread.setVec_esp (x : Thread) (r : Reg) (v : VWord) : (x.setVec r v).esp = x.esp := rfl
@[simp] theorem Thread.setVec_espLimit (x : Thread) (r : Reg) (v : VWord) : (x.setVec r v).espLimit = x.espLimit := rfl
@[simp] theorem Thread.setVec_xsRa (x : Thread) (r : Reg) (v : VWord) : (x.setVec r v).xsRa = x.xsRa := rfl
@[simp] theorem Thread.setVec_xsStat (x : Thread) (r : Reg) (v : VWord) : (x.setVec r v).xsStat = x.xsStat := rfl
@[simp] theorem Thread.setVec_scEntry (x : Thread) (r : Reg) (v : VWord) : (x.setVec r v).scEntry = x.scEntry := rfl
@[simp] theorem Thread.setVec_scRa (x : Thread) (r : Reg) (v : VWord) : (x.setVec r v).scRa = x.scRa := rfl
@[simp] theorem Thread.setVec_scStat (x : Thread) (r : Reg) (v : VWord) : (x.setVec r v).scStat = x.scStat := rfl
@[simp] theorem Thread.setVec_nest (x : Thread) (r : Reg) (v : VWord) : (x.setVec r v).nest = x.nest := rfl
@[simp] theorem Thread.setVec_basePriv (x : Thread) (r : Reg) (v : VWord) : (x.setVec r v).basePriv = x.basePriv := rfl
@[simp] theorem Thread.setVec_intEn (x : Thread) (r : Reg) (v : VWord) : (x.setVec r v).intEn = x.intEn := rfl
@[simp] theorem Thread.setVec_xaddr (x : Thread) (r : Reg) (v : VWord) : (x.setVec r v).xaddr = x.xaddr := rfl
@[simp] theorem Thread.setVec_lrLevel (x : Thread) (r : Reg) (v : VWord) : (x.setVec r v).lrLevel = x.lrLevel := rfl
@[simp] theorem Thread.setVec_state (x : Thread) (r : Reg) (v : VWord) : (x.setVec r v).state = x.state := rfl
@[simp] theorem Thread.setVec_wait (x : Thread) (r : Reg) (v : VWord) : (x.setVec r v).wait = x.wait := rfl
@[simp] theorem Thread.setVec_comp (x : Thread) (r : Reg) (v : VWord) : (x.setVec r v).comp = x.comp := rfl
@[simp] theorem Thread.setVec_stopReq (x : Thread) (r : Reg) (v : VWord) : (x.setVec r v).stopReq = x.stopReq := rfl
@[simp] theorem Thread.setVec_stepping (x : Thread) (r : Reg) (v : VWord) : (x.setVec r v).stepping = x.stepping := rfl
@[simp] theorem Thread.setVec_resp (x : Thread) (r : Reg) (v : VWord) : (x.setVec r v).resp = x.resp := rfl
@[simp] theorem Thread.setVec_respErr (x : Thread) (r : Reg) (v : VWord) : (x.setVec r v).respErr = x.respErr := rfl
@[simp] theorem Thread.setVec_arrayEcc (x : Thread) (r : Reg) (v : VWord) : (x.setVec r v).arrayEcc = x.arrayEcc := rfl
@[simp] theorem Thread.setVec_dmaErrs (x : Thread) (r : Reg) (v : VWord) : (x.setVec r v).dmaErrs = x.dmaErrs := rfl
@[simp] theorem Thread.setVec_ssDue (x : Thread) (r : Reg) (v : VWord) : (x.setVec r v).ssDue = x.ssDue := rfl
@[simp] theorem Thread.setVec_bankDue (x : Thread) (r : Reg) (v : VWord) : (x.setVec r v).bankDue = x.bankDue := rfl
@[simp] theorem Thread.setVec_beatEv (x : Thread) (r : Reg) (v : VWord) : (x.setVec r v).beatEv = x.beatEv := rfl
@[simp] theorem Thread.setVec_badReg (x : Thread) (r : Reg) (v : VWord) : (x.setVec r v).badReg = x.badReg := rfl
@[simp] theorem Thread.setMsk_g (x : Thread) (n : Nat) (v : Word) : (x.setMsk n v).g = x.g := rfl
@[simp] theorem Thread.setMsk_v (x : Thread) (n : Nat) (v : Word) : (x.setMsk n v).v = x.v := rfl
@[simp] theorem Thread.setMsk_pc (x : Thread) (n : Nat) (v : Word) : (x.setMsk n v).pc = x.pc := rfl
@[simp] theorem Thread.setMsk_st (x : Thread) (n : Nat) (v : Word) : (x.setMsk n v).st = x.st := rfl
@[simp] theorem Thread.setMsk_evPend (x : Thread) (n : Nat) (v : Word) : (x.setMsk n v).evPend = x.evPend := rfl
@[simp] theorem Thread.setMsk_rs (x : Thread) (n : Nat) (v : Word) : (x.setMsk n v).rs = x.rs := rfl
@[simp] theorem Thread.setMsk_fpcsr (x : Thread) (n : Nat) (v : Word) : (x.setMsk n v).fpcsr = x.fpcsr := rfl
@[simp] theorem Thread.setMsk_esp (x : Thread) (n : Nat) (v : Word) : (x.setMsk n v).esp = x.esp := rfl
@[simp] theorem Thread.setMsk_espLimit (x : Thread) (n : Nat) (v : Word) : (x.setMsk n v).espLimit = x.espLimit := rfl
@[simp] theorem Thread.setMsk_xsRa (x : Thread) (n : Nat) (v : Word) : (x.setMsk n v).xsRa = x.xsRa := rfl
@[simp] theorem Thread.setMsk_xsStat (x : Thread) (n : Nat) (v : Word) : (x.setMsk n v).xsStat = x.xsStat := rfl
@[simp] theorem Thread.setMsk_scEntry (x : Thread) (n : Nat) (v : Word) : (x.setMsk n v).scEntry = x.scEntry := rfl
@[simp] theorem Thread.setMsk_scRa (x : Thread) (n : Nat) (v : Word) : (x.setMsk n v).scRa = x.scRa := rfl
@[simp] theorem Thread.setMsk_scStat (x : Thread) (n : Nat) (v : Word) : (x.setMsk n v).scStat = x.scStat := rfl
@[simp] theorem Thread.setMsk_nest (x : Thread) (n : Nat) (v : Word) : (x.setMsk n v).nest = x.nest := rfl
@[simp] theorem Thread.setMsk_basePriv (x : Thread) (n : Nat) (v : Word) : (x.setMsk n v).basePriv = x.basePriv := rfl
@[simp] theorem Thread.setMsk_intEn (x : Thread) (n : Nat) (v : Word) : (x.setMsk n v).intEn = x.intEn := rfl
@[simp] theorem Thread.setMsk_xaddr (x : Thread) (n : Nat) (v : Word) : (x.setMsk n v).xaddr = x.xaddr := rfl
@[simp] theorem Thread.setMsk_lrLevel (x : Thread) (n : Nat) (v : Word) : (x.setMsk n v).lrLevel = x.lrLevel := rfl
@[simp] theorem Thread.setMsk_state (x : Thread) (n : Nat) (v : Word) : (x.setMsk n v).state = x.state := rfl
@[simp] theorem Thread.setMsk_wait (x : Thread) (n : Nat) (v : Word) : (x.setMsk n v).wait = x.wait := rfl
@[simp] theorem Thread.setMsk_comp (x : Thread) (n : Nat) (v : Word) : (x.setMsk n v).comp = x.comp := rfl
@[simp] theorem Thread.setMsk_stopReq (x : Thread) (n : Nat) (v : Word) : (x.setMsk n v).stopReq = x.stopReq := rfl
@[simp] theorem Thread.setMsk_stepping (x : Thread) (n : Nat) (v : Word) : (x.setMsk n v).stepping = x.stepping := rfl
@[simp] theorem Thread.setMsk_resp (x : Thread) (n : Nat) (v : Word) : (x.setMsk n v).resp = x.resp := rfl
@[simp] theorem Thread.setMsk_respErr (x : Thread) (n : Nat) (v : Word) : (x.setMsk n v).respErr = x.respErr := rfl
@[simp] theorem Thread.setMsk_arrayEcc (x : Thread) (n : Nat) (v : Word) : (x.setMsk n v).arrayEcc = x.arrayEcc := rfl
@[simp] theorem Thread.setMsk_dmaErrs (x : Thread) (n : Nat) (v : Word) : (x.setMsk n v).dmaErrs = x.dmaErrs := rfl
@[simp] theorem Thread.setMsk_ssDue (x : Thread) (n : Nat) (v : Word) : (x.setMsk n v).ssDue = x.ssDue := rfl
@[simp] theorem Thread.setMsk_bankDue (x : Thread) (n : Nat) (v : Word) : (x.setMsk n v).bankDue = x.bankDue := rfl
@[simp] theorem Thread.setMsk_beatEv (x : Thread) (n : Nat) (v : Word) : (x.setMsk n v).beatEv = x.beatEv := rfl
@[simp] theorem Thread.setMsk_badReg (x : Thread) (n : Nat) (v : Word) : (x.setMsk n v).badReg = x.badReg := rfl
@[simp] theorem Thread.setSt_g (x : Thread) (f : Status → Status) : (x.setSt f).g = x.g := rfl
@[simp] theorem Thread.setSt_v (x : Thread) (f : Status → Status) : (x.setSt f).v = x.v := rfl
@[simp] theorem Thread.setSt_k (x : Thread) (f : Status → Status) : (x.setSt f).k = x.k := rfl
@[simp] theorem Thread.setSt_pc (x : Thread) (f : Status → Status) : (x.setSt f).pc = x.pc := rfl
@[simp] theorem Thread.setSt_evPend (x : Thread) (f : Status → Status) : (x.setSt f).evPend = x.evPend := rfl
@[simp] theorem Thread.setSt_rs (x : Thread) (f : Status → Status) : (x.setSt f).rs = x.rs := rfl
@[simp] theorem Thread.setSt_fpcsr (x : Thread) (f : Status → Status) : (x.setSt f).fpcsr = x.fpcsr := rfl
@[simp] theorem Thread.setSt_esp (x : Thread) (f : Status → Status) : (x.setSt f).esp = x.esp := rfl
@[simp] theorem Thread.setSt_espLimit (x : Thread) (f : Status → Status) : (x.setSt f).espLimit = x.espLimit := rfl
@[simp] theorem Thread.setSt_xsRa (x : Thread) (f : Status → Status) : (x.setSt f).xsRa = x.xsRa := rfl
@[simp] theorem Thread.setSt_xsStat (x : Thread) (f : Status → Status) : (x.setSt f).xsStat = x.xsStat := rfl
@[simp] theorem Thread.setSt_scEntry (x : Thread) (f : Status → Status) : (x.setSt f).scEntry = x.scEntry := rfl
@[simp] theorem Thread.setSt_scRa (x : Thread) (f : Status → Status) : (x.setSt f).scRa = x.scRa := rfl
@[simp] theorem Thread.setSt_scStat (x : Thread) (f : Status → Status) : (x.setSt f).scStat = x.scStat := rfl
@[simp] theorem Thread.setSt_nest (x : Thread) (f : Status → Status) : (x.setSt f).nest = x.nest := rfl
@[simp] theorem Thread.setSt_basePriv (x : Thread) (f : Status → Status) : (x.setSt f).basePriv = x.basePriv := rfl
@[simp] theorem Thread.setSt_intEn (x : Thread) (f : Status → Status) : (x.setSt f).intEn = x.intEn := rfl
@[simp] theorem Thread.setSt_xaddr (x : Thread) (f : Status → Status) : (x.setSt f).xaddr = x.xaddr := rfl
@[simp] theorem Thread.setSt_lrLevel (x : Thread) (f : Status → Status) : (x.setSt f).lrLevel = x.lrLevel := rfl
@[simp] theorem Thread.setSt_state (x : Thread) (f : Status → Status) : (x.setSt f).state = x.state := rfl
@[simp] theorem Thread.setSt_wait (x : Thread) (f : Status → Status) : (x.setSt f).wait = x.wait := rfl
@[simp] theorem Thread.setSt_comp (x : Thread) (f : Status → Status) : (x.setSt f).comp = x.comp := rfl
@[simp] theorem Thread.setSt_stopReq (x : Thread) (f : Status → Status) : (x.setSt f).stopReq = x.stopReq := rfl
@[simp] theorem Thread.setSt_stepping (x : Thread) (f : Status → Status) : (x.setSt f).stepping = x.stepping := rfl
@[simp] theorem Thread.setSt_resp (x : Thread) (f : Status → Status) : (x.setSt f).resp = x.resp := rfl
@[simp] theorem Thread.setSt_respErr (x : Thread) (f : Status → Status) : (x.setSt f).respErr = x.respErr := rfl
@[simp] theorem Thread.setSt_arrayEcc (x : Thread) (f : Status → Status) : (x.setSt f).arrayEcc = x.arrayEcc := rfl
@[simp] theorem Thread.setSt_dmaErrs (x : Thread) (f : Status → Status) : (x.setSt f).dmaErrs = x.dmaErrs := rfl
@[simp] theorem Thread.setSt_ssDue (x : Thread) (f : Status → Status) : (x.setSt f).ssDue = x.ssDue := rfl
@[simp] theorem Thread.setSt_bankDue (x : Thread) (f : Status → Status) : (x.setSt f).bankDue = x.bankDue := rfl
@[simp] theorem Thread.setSt_beatEv (x : Thread) (f : Status → Status) : (x.setSt f).beatEv = x.beatEv := rfl
@[simp] theorem Thread.setSt_badReg (x : Thread) (f : Status → Status) : (x.setSt f).badReg = x.badReg := rfl
@[simp] theorem Thread.wr_v (x : Thread) (r : Reg) (w : TWord) : (x.wr r w).v = x.v := by
  unfold Thread.wr; split <;> rfl
@[simp] theorem Thread.wr_k (x : Thread) (r : Reg) (w : TWord) : (x.wr r w).k = x.k := by
  unfold Thread.wr; split <;> rfl
@[simp] theorem Thread.wr_pc (x : Thread) (r : Reg) (w : TWord) : (x.wr r w).pc = x.pc := by
  unfold Thread.wr; split <;> rfl
@[simp] theorem Thread.wr_st (x : Thread) (r : Reg) (w : TWord) : (x.wr r w).st = x.st := by
  unfold Thread.wr; split <;> rfl
@[simp] theorem Thread.wr_evPend (x : Thread) (r : Reg) (w : TWord) : (x.wr r w).evPend = x.evPend := by
  unfold Thread.wr; split <;> rfl
@[simp] theorem Thread.wr_rs (x : Thread) (r : Reg) (w : TWord) : (x.wr r w).rs = x.rs := by
  unfold Thread.wr; split <;> rfl
@[simp] theorem Thread.wr_fpcsr (x : Thread) (r : Reg) (w : TWord) : (x.wr r w).fpcsr = x.fpcsr := by
  unfold Thread.wr; split <;> rfl
@[simp] theorem Thread.wr_esp (x : Thread) (r : Reg) (w : TWord) : (x.wr r w).esp = x.esp := by
  unfold Thread.wr; split <;> rfl
@[simp] theorem Thread.wr_espLimit (x : Thread) (r : Reg) (w : TWord) : (x.wr r w).espLimit = x.espLimit := by
  unfold Thread.wr; split <;> rfl
@[simp] theorem Thread.wr_xsRa (x : Thread) (r : Reg) (w : TWord) : (x.wr r w).xsRa = x.xsRa := by
  unfold Thread.wr; split <;> rfl
@[simp] theorem Thread.wr_xsStat (x : Thread) (r : Reg) (w : TWord) : (x.wr r w).xsStat = x.xsStat := by
  unfold Thread.wr; split <;> rfl
@[simp] theorem Thread.wr_scEntry (x : Thread) (r : Reg) (w : TWord) : (x.wr r w).scEntry = x.scEntry := by
  unfold Thread.wr; split <;> rfl
@[simp] theorem Thread.wr_scRa (x : Thread) (r : Reg) (w : TWord) : (x.wr r w).scRa = x.scRa := by
  unfold Thread.wr; split <;> rfl
@[simp] theorem Thread.wr_scStat (x : Thread) (r : Reg) (w : TWord) : (x.wr r w).scStat = x.scStat := by
  unfold Thread.wr; split <;> rfl
@[simp] theorem Thread.wr_nest (x : Thread) (r : Reg) (w : TWord) : (x.wr r w).nest = x.nest := by
  unfold Thread.wr; split <;> rfl
@[simp] theorem Thread.wr_basePriv (x : Thread) (r : Reg) (w : TWord) : (x.wr r w).basePriv = x.basePriv := by
  unfold Thread.wr; split <;> rfl
@[simp] theorem Thread.wr_intEn (x : Thread) (r : Reg) (w : TWord) : (x.wr r w).intEn = x.intEn := by
  unfold Thread.wr; split <;> rfl
@[simp] theorem Thread.wr_xaddr (x : Thread) (r : Reg) (w : TWord) : (x.wr r w).xaddr = x.xaddr := by
  unfold Thread.wr; split <;> rfl
@[simp] theorem Thread.wr_lrLevel (x : Thread) (r : Reg) (w : TWord) : (x.wr r w).lrLevel = x.lrLevel := by
  unfold Thread.wr; split <;> rfl
@[simp] theorem Thread.wr_state (x : Thread) (r : Reg) (w : TWord) : (x.wr r w).state = x.state := by
  unfold Thread.wr; split <;> rfl
@[simp] theorem Thread.wr_wait (x : Thread) (r : Reg) (w : TWord) : (x.wr r w).wait = x.wait := by
  unfold Thread.wr; split <;> rfl
@[simp] theorem Thread.wr_comp (x : Thread) (r : Reg) (w : TWord) : (x.wr r w).comp = x.comp := by
  unfold Thread.wr; split <;> rfl
@[simp] theorem Thread.wr_stopReq (x : Thread) (r : Reg) (w : TWord) : (x.wr r w).stopReq = x.stopReq := by
  unfold Thread.wr; split <;> rfl
@[simp] theorem Thread.wr_stepping (x : Thread) (r : Reg) (w : TWord) : (x.wr r w).stepping = x.stepping := by
  unfold Thread.wr; split <;> rfl
@[simp] theorem Thread.wr_resp (x : Thread) (r : Reg) (w : TWord) : (x.wr r w).resp = x.resp := by
  unfold Thread.wr; split <;> rfl
@[simp] theorem Thread.wr_respErr (x : Thread) (r : Reg) (w : TWord) : (x.wr r w).respErr = x.respErr := by
  unfold Thread.wr; split <;> rfl
@[simp] theorem Thread.wr_arrayEcc (x : Thread) (r : Reg) (w : TWord) : (x.wr r w).arrayEcc = x.arrayEcc := by
  unfold Thread.wr; split <;> rfl
@[simp] theorem Thread.wr_dmaErrs (x : Thread) (r : Reg) (w : TWord) : (x.wr r w).dmaErrs = x.dmaErrs := by
  unfold Thread.wr; split <;> rfl
@[simp] theorem Thread.wr_ssDue (x : Thread) (r : Reg) (w : TWord) : (x.wr r w).ssDue = x.ssDue := by
  unfold Thread.wr; split <;> rfl
@[simp] theorem Thread.wr_bankDue (x : Thread) (r : Reg) (w : TWord) : (x.wr r w).bankDue = x.bankDue := by
  unfold Thread.wr; split <;> rfl
@[simp] theorem Thread.wr_beatEv (x : Thread) (r : Reg) (w : TWord) : (x.wr r w).beatEv = x.beatEv := by
  unfold Thread.wr; split <;> rfl

@[simp] theorem Thread.setSt_st (x : Thread) (f : Status → Status) : (x.setSt f).st = f x.st := rfl
@[simp] theorem Thread.rd_zero (x : Thread) : x.rd 0 = ⟨.int, 0⟩ := rfl
@[simp] theorem Thread.wr_zero (x : Thread) (w : TWord) : x.wr 0 w = x := rfl

/-- A register written is read back, g0 apart (R50). -/
theorem Thread.rd_wr (x : Thread) (r q : Reg) (w : TWord) :
    (x.wr r w).rd q = if q = r ∧ r ≠ 0 then w else x.rd q := by
  unfold Thread.wr Thread.rd
  by_cases hr : r = 0
  · simp [hr]
  · by_cases hq : q = 0
    · have : q ≠ r := fun e => hr (e ▸ hq)
      simp [hr, hq]
      intro e; exact absurd e.symm hr
    · by_cases hqr : q = r
      · simp [hqr, hr]
      · have : q.val ≠ r.val := fun e => hqr (Fin.ext e)
        simp [hr, hq, hqr, this]

@[simp] theorem Thread.rd_setSt (x : Thread) (f : Status → Status) (r : Reg) : (x.setSt f).rd r = x.rd r := rfl
@[simp] theorem Thread.vec_setVec_self (x : Thread) (r : Reg) (v : VWord) : (x.setVec r v).vec r = v := by
  simp [Thread.vec, Thread.setVec]
@[simp] theorem Thread.msk_setMsk_self (x : Thread) (n : Nat) (v : Word) : (x.setMsk n v).msk n = v := by
  simp [Thread.msk, Thread.setMsk]

/-! ### What an update writes is read back -/

@[simp] theorem Core.thr_setT_self (k : Core) (t : Tid) (x : Thread) : (k.setT t x).thr t = x := by
  simp [Core.thr, Core.setT]
theorem Core.thr_setT_of_ne (k : Core) (t u : Tid) (x : Thread) (h : u ≠ t) : (k.setT t x).thr u = k.thr u := by
  have : u.val ≠ t.val := fun e => h (Fin.ext e)
  simp [Core.thr, Core.setT, this]
@[simp] theorem Core.thr_updT_self (k : Core) (t : Tid) (f : Thread → Thread) : (k.updT t f).thr t = f (k.thr t) := by
  simp [Core.updT]
theorem Core.thr_updT_of_ne (k : Core) (t u : Tid) (f : Thread → Thread) (h : u ≠ t) : (k.updT t f).thr u = k.thr u := by
  simp [Core.updT, Core.thr_setT_of_ne _ _ _ _ h]

@[simp] theorem Hw.core_setCore_self (h : Hw) (c : Nat) (k : Core) : (h.setCore c k).core c = k := by
  simp [Hw.core, Hw.setCore]
@[simp] theorem Hw.core_setCore_of_ne (h : Hw) (c d : Nat) (k : Core) (e : d ≠ c) : (h.setCore c k).core d = h.core d := by
  simp [Hw.core, Hw.setCore, e]
@[simp] theorem Hw.core_updC_self (h : Hw) (c : Nat) (f : Core → Core) : (h.updC c f).core c = f (h.core c) := by
  simp [Hw.updC]
@[simp] theorem Hw.core_updC_of_ne (h : Hw) (c d : Nat) (f : Core → Core) (e : d ≠ c) : (h.updC c f).core d = h.core d := by
  simp [Hw.updC, e]
@[simp] theorem Hw.core_updT_self (h : Hw) (c : CoreId) (t : Tid) (f : Thread → Thread) :
    (h.updT c t f).core c.val = (h.core c.val).updT t f := by
  simp [Hw.updT]
@[simp] theorem Hw.core_updT_of_ne (h : Hw) (c : CoreId) (t : Tid) (f : Thread → Thread) (d : Nat) (e : d ≠ c.val) :
    (h.updT c t f).core d = h.core d := by
  simp [Hw.updT, e]
@[simp] theorem Hw.thr_updT_self (h : Hw) (c : CoreId) (t : Tid) (f : Thread → Thread) : (h.updT c t f).thr c t = f (h.thr c t) := by
  simp [Hw.thr]

/-- A thread after an update of a thread: that one changed, or as it was. -/
theorem Hw.thr_updT (h : Hw) (c e : CoreId) (t u : Tid) (f : Thread → Thread) :
    (h.updT c t f).thr e u = if e = c ∧ u = t then f (h.thr c t) else h.thr e u := by
  by_cases hc : e = c
  · subst hc
    by_cases ht : u = t
    · subst ht; simp
    · simp [Hw.thr, Core.thr_updT_of_ne _ _ _ _ ht, ht]
  · have : e.val ≠ c.val := fun x => hc (Fin.ext x)
    simp [Hw.thr, this, hc]

/-- Updates of a thread one after the other are one. -/
@[simp] theorem Hw.updT_updT (h : Hw) (c : CoreId) (t : Tid) (f g : Thread → Thread) :
    (h.updT c t f).updT c t g = h.updT c t fun x => g (f x) := by
  simp [Hw.updT, Hw.updC, Hw.setCore, Hw.core, Core.updT, Core.setT, Core.thr]

/-- Updates of a core one after the other are one. -/
@[simp] theorem Hw.updC_updC (h : Hw) (c : Nat) (f g : Core → Core) : (h.updC c f).updC c g = h.updC c fun k => g (f k) := by
  simp [Hw.updC, Hw.setCore, Hw.core]

@[simp] theorem Hw.updK_updK (h : Hw) (f g : K0 → K0) : (h.updK f).updK g = h.updK fun k => g (f k) := rfl
@[simp] theorem Hw.updK_k0 (h : Hw) (f : K0 → K0) : (h.updK f).k0 = f h.k0 := rfl
@[simp] theorem Hw.updCh_updCh (h : Hw) (ch : ChanId) (f g : Chan → Chan) : (h.updCh ch f).updCh ch g = h.updCh ch fun x => g (f x) := by
  simp [Hw.updCh, Hw.updChan, Hw.chan]
@[simp] theorem Hw.ch_updCh_self (h : Hw) (ch : ChanId) (f : Chan → Chan) : (h.updCh ch f).ch ch = f (h.ch ch) := by
  simp [Hw.ch, Hw.updCh, Hw.updChan, Hw.chan]

@[simp] theorem Hw.pg_setPg_self (h : Hw) (d b o : Nat) (v : W32) : (h.setPg d b o v).pg d b o = v := by
  simp [Hw.pg, Hw.setPg]
/-- Registers at other keys are as before. -/
theorem Hw.pg_setPg_of_ne (h : Hw) (d b o : Nat) (v : W32) (d' b' o' : Nat) (e : regKey d' b' o' ≠ regKey d b o) :
    (h.setPg d b o v).pg d' b' o' = h.pg d' b' o' := by
  simp [Hw.pg, Hw.setPg, e]
/-- Registers of the same page at another offset are as before. -/
@[simp] theorem Hw.pg_setPg_offset (h : Hw) (d b o o' : Nat) (v : W32) (e : o' ≠ o) : (h.setPg d b o v).pg d b o' = h.pg d b o' :=
  h.pg_setPg_of_ne d b o v d b o' (by simp [regKey]; omega)
/-- Registers of another page are as before. -/
theorem Hw.pg_setPg_page (h : Hw) (d b o : Nat) (v : W32) (d' b' o' : Nat) (hb : b < 4096) (hb' : b' < 4096) (ho : o < 4096)
    (ho' : o' < 4096) (e : d' ≠ d ∨ b' ≠ b) : (h.setPg d b o v).pg d' b' o' = h.pg d' b' o' :=
  h.pg_setPg_of_ne d b o v d' b' o' (by simp [regKey]; omega)
@[simp] theorem Hw.pg_updPg_self (h : Hw) (d b o : Nat) (f : W32 → W32) : (h.updPg d b o f).pg d b o = f (h.pg d b o) := by
  simp [Hw.updPg]
@[simp] theorem Hw.pg_updPg_offset (h : Hw) (d b o o' : Nat) (f : W32 → W32) (e : o' ≠ o) :
    (h.updPg d b o f).pg d b o' = h.pg d b o' := by
  simp [Hw.updPg, e]
@[simp] theorem Hw.setPg_setPg (h : Hw) (d b o : Nat) (v w : W32) : (h.setPg d b o v).setPg d b o w = h.setPg d b o w := by
  simp [Hw.setPg]
@[simp] theorem Hw.cpg_setCpg_self (h : Hw) (c o : Nat) (v : W32) : (h.setCpg c o v).cpg c o = v := by
  simp [Hw.cpg, Hw.setCpg]
@[simp] theorem Hw.cpg_updCpg_self (h : Hw) (c o : Nat) (f : W32 → W32) : (h.updCpg c o f).cpg c o = f (h.cpg c o) := by
  simp [Hw.cpg, Hw.updCpg]
@[simp] theorem Hw.cpg_updCpg_offset (h : Hw) (c o o' : Nat) (f : W32 → W32) (e : o' ≠ o) : (h.updCpg c o f).cpg c o' = h.cpg c o' := by
  simp [Hw.cpg, Hw.updCpg, e]

@[simp] theorem Hw.die_updDie_self (h : Hw) (d : Nat) (f : Die → Die) : (h.updDie d f).die d = f (h.die d) := by
  simp [Hw.die, Hw.updDie]
@[simp] theorem Hw.die_updDie_of_ne (h : Hw) (d e : Nat) (f : Die → Die) (hne : e ≠ d) : (h.updDie d f).die e = h.die e := by
  simp [Hw.die, Hw.updDie, hne]
@[simp] theorem Hw.mem_updMem_self (h : Hw) (m : Nat) (f : MemDie → MemDie) : (h.updMem m f).mem m = f (h.mem m) := by
  simp [Hw.mem, Hw.updMem]
@[simp] theorem Hw.mem_updMem_of_ne (h : Hw) (m n : Nat) (f : MemDie → MemDie) (hne : n ≠ m) : (h.updMem m f).mem n = h.mem n := by
  simp [Hw.mem, Hw.updMem, hne]
@[simp] theorem Hw.net_updNet_self (h : Hw) (d : Nat) (f : NetDie → NetDie) : (h.updNet d f).net d = f (h.net d) := by
  simp [Hw.net, Hw.updNet]
@[simp] theorem Hw.net_updNet_of_ne (h : Hw) (d e : Nat) (f : NetDie → NetDie) (hne : e ≠ d) : (h.updNet d f).net e = h.net e := by
  simp [Hw.net, Hw.updNet, hne]
@[simp] theorem Hw.qp_updQp_self (h : Hw) (d q : Nat) (f : Qp → Qp) : (h.updQp d q f).qp d q = f (h.qp d q) := by
  simp [Hw.qp, NetDie.qp, Hw.updQp]
@[simp] theorem Hw.win_updWin_self (h : Hw) (d w : Nat) (f : Win → Win) : (h.updWin d w f).win d w = f (h.win d w) := by
  simp [Hw.win, NetDie.win, Hw.updWin]
@[simp] theorem Hw.port_updPort_self (h : Hw) (p : Nat) (f : Port → Port) : (h.updPort p f).port p = f (h.port p) := by
  simp [Hw.port, Hw.updPort]
@[simp] theorem Hw.site_setSite_self (h : Hw) (c : Nat) (f : Site → Site) : (h.setSite c f).site c = f (h.site c) := by
  simp [Hw.site, Hw.setSite]
@[simp] theorem Hw.eng_updEng_self (h : Hw) (e : Eng) (f : Jasper → Jasper) : (h.updEng e f).eng e.val = f (h.eng e.val) := by
  simp [Hw.eng, Hw.updEng]

end Sys2Proof.Machine
end

