-- ==== Sys2Proof/Laws/Issue.lean ====
section
/-! SUPPORT. What offering an instruction to a slot can do, said once: the instruction's own effect on a ready slot, a fault,
and nothing on a slot that does not issue; and what page writes do on an open page. -/

namespace Sys2Proof.Machine

/-! ### Beginning an instruction -/

theorem Hw.thr_begun (h : Hw) (c : CoreId) (t : Tid) :
    (h.begun c t).thr c t = (h.thr c t).setSt fun s => { s with repActive := false } := by
  simp [Hw.begun]

@[simp] theorem Hw.begun_rd (h : Hw) (c : CoreId) (t : Tid) (r : Reg) : ((h.begun c t).thr c t).rd r = (h.thr c t).rd r := by
  simp [Hw.begun]
@[simp] theorem Hw.begun_vec (h : Hw) (c : CoreId) (t : Tid) (r : Reg) : ((h.begun c t).thr c t).vec r = (h.thr c t).vec r := by
  simp [Hw.begun, Thread.vec]
@[simp] theorem Hw.begun_msk (h : Hw) (c : CoreId) (t : Tid) (n : Nat) : ((h.begun c t).thr c t).msk n = (h.thr c t).msk n := by
  simp [Hw.begun, Thread.msk]
@[simp] theorem Hw.begun_pc (h : Hw) (c : CoreId) (t : Tid) : ((h.begun c t).thr c t).pc = (h.thr c t).pc := by simp [Hw.begun]
@[simp] theorem Hw.begun_priv (h : Hw) (c : CoreId) (t : Tid) : ((h.begun c t).thr c t).st.priv = (h.thr c t).st.priv := by
  simp [Hw.begun]
@[simp] theorem Hw.begun_ss (h : Hw) (c : CoreId) (t : Tid) : ((h.begun c t).thr c t).st.ss = (h.thr c t).st.ss := by
  simp [Hw.begun]
@[simp] theorem Hw.begun_rs (h : Hw) (c : CoreId) (t : Tid) : ((h.begun c t).thr c t).rs = (h.thr c t).rs := by simp [Hw.begun]
@[simp] theorem Hw.begun_fpcsr (h : Hw) (c : CoreId) (t : Tid) : ((h.begun c t).thr c t).fpcsr = (h.thr c t).fpcsr := by
  simp [Hw.begun]
@[simp] theorem Hw.begun_evPend (h : Hw) (c : CoreId) (t : Tid) : ((h.begun c t).thr c t).evPend = (h.thr c t).evPend := by
  simp [Hw.begun]
@[simp] theorem Hw.begun_badReg (h : Hw) (c : CoreId) (t : Tid) : ((h.begun c t).thr c t).badReg = (h.thr c t).badReg := by
  simp [Hw.begun]
@[simp] theorem Hw.begun_regs (h : Hw) (c : CoreId) (t : Tid) : (h.begun c t).regs = h.regs := rfl
@[simp] theorem Hw.begun_variant (h : Hw) (c : CoreId) (t : Tid) : (h.begun c t).variant = h.variant := rfl
@[simp] theorem Hw.begun_pg (h : Hw) (c : CoreId) (t : Tid) (d b o : Nat) : (h.begun c t).pg d b o = h.pg d b o := rfl
@[simp] theorem Hw.begun_cpg (h : Hw) (c : CoreId) (t : Tid) (e o : Nat) : (h.begun c t).cpg e o = h.cpg e o := rfl
@[simp] theorem Hw.begun_ch (h : Hw) (c : CoreId) (t : Tid) (ch : ChanId) : (h.begun c t).ch ch = h.ch ch := rfl

/-- No source register with bad parity, or none at all: the instruction runs (R426). -/
theorem Hw.parity_of_good (h : Hw) (c : CoreId) (t : Tid) (srcs : List Reg) (r : IRes) (e : (h.thr c t).badReg = none) :
    h.parity c t srcs r = r := by
  simp [Hw.parity, e]

/-! ### A ready slot -/

theorem Hw.slotReady_iff (h : Hw) (c : CoreId) (t : Tid) (len : Nat) : h.slotReady c t len = true ↔
    h.canIssue c t = true ∧ h.dueEvent c t = none ∧ h.haltDue c t = none ∧ (∃ u, h.fetch c t len = .ok u) ∧
      (h.thr c t).badReg = none ∧ (h.thr c t).st.ss = false := by
  unfold Hw.slotReady
  cases h.fetch c t len <;> simp [Except.isOk, Except.toBool, and_assoc]

/-- On a ready slot an instruction does what it does on the hardware it begins with. -/
theorem Hw.issue_ready {h : Hw} {c : CoreId} {t : Tid} {len : Nat} (ok : h.slotReady c t len = true) (srcs : List Reg)
    (ins : Hw → IRes) :
    h.issue c t len srcs ins = match ins (h.begun c t) with
      | .exc g e => (h.begun c t).finish c t len (.exc (g.countMiss c e) e)
      | r => (h.begun c t).finish c t len r := by
  obtain ⟨h1, h2, h3, ⟨u, h4⟩, h5, -⟩ := (h.slotReady_iff c t len).mp ok
  have hb : ((h.begun c t).thr c t).badReg = none := by simpa using h5
  have hg : h.begun c t = h.updT c t fun x => x.setSt fun s => { s with repActive := false } := rfl
  unfold Hw.issue
  simp only [h1, h2, h3, h4, ← hg, Bool.not_true, Bool.false_eq_true, if_false]
  rw [Hw.parity_of_good _ _ _ _ _ hb]
  all_goals (cases ins (h.begun c t) <;> rfl)

/-- An instruction that commits on a ready slot, and goes on behind it. -/
theorem State.issue_did {s : State} {c : CoreId} {t : Tid} {len : Nat} (ok : s.hw.slotReady c t len = true) (srcs : List Reg)
    {ins : Hw → CoreId → Tid → IRes} {h : Hw} (run : ins (s.hw.begun c t) c t = .ok h .seq) :
    s.issue c t len srcs ins = s.did c t len h := by
  have hss := ((s.hw.slotReady_iff c t len).mp ok).2.2.2.2.2
  simp only [State.issue, State.run, State.did, Hw.issue_ready ok, run, Hw.finish, Hw.pcTo, Hw.begun_pc, Hw.begun_ss, hss,
    Bool.false_and, Bool.false_eq_true, if_false]

/-- An instruction that commits on a ready slot, and goes to `p`. -/
theorem State.issue_jumped {s : State} {c : CoreId} {t : Tid} {len : Nat} (ok : s.hw.slotReady c t len = true) (srcs : List Reg)
    {ins : Hw → CoreId → Tid → IRes} {h : Hw} {p : TWord} (run : ins (s.hw.begun c t) c t = .ok h (.jump p)) :
    s.issue c t len srcs ins = s.jumped c t h p := by
  have hss := ((s.hw.slotReady_iff c t len).mp ok).2.2.2.2.2
  simp only [State.issue, State.run, State.jumped, Hw.issue_ready ok, run, Hw.finish, Hw.pcTo, Hw.begun_ss, hss, Bool.false_and,
    Bool.false_eq_true, if_false]

/-- An instruction that parks its thread. -/
theorem State.issue_parked {s : State} {c : CoreId} {t : Tid} {len : Nat} (ok : s.hw.slotReady c t len = true) (srcs : List Reg)
    {ins : Hw → CoreId → Tid → IRes} {h : Hw} (run : ins (s.hw.begun c t) c t = .ok h .stay) :
    s.issue c t len srcs ins = s.leaves h := by
  simp only [State.issue, State.run, State.leaves, Hw.issue_ready ok, run, Hw.finish]

/-- An instruction that faults on a ready slot, having changed the hardware to `h`. -/
theorem State.issue_exc {s : State} {c : CoreId} {t : Tid} {len : Nat} (ok : s.hw.slotReady c t len = true) (srcs : List Reg)
    {ins : Hw → CoreId → Tid → IRes} {h : Hw} {e : Exc} (run : ins (s.hw.begun c t) c t = .exc h e) :
    s.issue c t len srcs ins = s.leaves (((h.countMiss c e).enter c t e (s.hw.thr c t).pc).endStep c t) := by
  simp only [State.issue, State.run, State.leaves, Hw.issue_ready ok, run, Hw.finish, Hw.begun_pc]

/-- An instruction that faults and changes nothing. -/
theorem State.issue_faulted {s : State} {c : CoreId} {t : Tid} {len : Nat} (ok : s.hw.slotReady c t len = true) (srcs : List Reg)
    {ins : Hw → CoreId → Tid → IRes} {e : Exc} (run : ins (s.hw.begun c t) c t = .exc (s.hw.begun c t) e) :
    s.issue c t len srcs ins = s.faulted c t e :=
  State.issue_exc ok srcs run

/-- A slot that does not issue idles. -/
theorem State.issue_idle {s : State} {c : CoreId} {t : Tid} {len : Nat} (off : s.hw.canIssue c t = false) (srcs : List Reg)
    (ins : Hw → CoreId → Tid → IRes) : s.issue c t len srcs ins = s.leaves s.hw := by
  simp [State.issue, State.run, State.leaves, Hw.issue, off]

/-! ### Commands and pages -/

/-- A command leaves the queue of waiting commands. -/
@[simp] theorem State.run_eq (s : State) (f : Hw → Hw) : s.run f = s.leaves (f s.hw) := rfl

/-- Every instruction offered to a slot answers a next state, with the queue as it was. -/
theorem State.issue_next (s : State) (c : CoreId) (t : Tid) (len : Nat) (srcs : List Reg) (ins : Hw → CoreId → Tid → IRes) :
    ∃ h, s.issue c t len srcs ins = s.leaves h := ⟨_, rfl⟩

/-- A write to an open page is performed. -/
theorem Hw.onPage_open {s : State} {d b : Nat} (o : s.pageOpen d b) (f : Hw → Hw) : s.hw.onPage d b f = f s.hw := by
  simp [Hw.onPage, o.1, o.2]

/-- A write to the page of a core that is neither in RETAIN nor held is performed. -/
theorem Hw.onCore_open {s : State} {c : Nat} (o : s.pageOpen (dieOf c) (siteIx c)) (p : s.hw.noneHeld c = false) (f : Hw → Hw) :
    s.hw.onCore c f = f s.hw := by
  simp [Hw.onCore, Hw.onPage_open o, p]

/-- A write to a page that is shut, or of a die that sleeps, is not performed (R371, R390, R445, R446). -/
theorem Hw.onPage_shut {h : Hw} {d b : Nat} (o : h.shut d b = true ∨ h.awake d = false) (f : Hw → Hw) : h.onPage d b f = h := by
  rcases o with o | o <;> simp [Hw.onPage, o]

/-! ### Injection -/

/-- BLK_INJ, where a page has it, resets to 0. -/
theorem injReset (v : Variant) (d b : Nat) (r : RegDesc) (e : regAt v d b 0x020 = some r) : r.reset = 0 := by
  have : (headerRegs.find? fun r => r.at 0x020).map RegDesc.reset = some 0 := by decide
  simp only [regAt] at e
  split at e
  · cases e
  · split at e
    · cases e
    · rw [List.find?_append] at e
      cases hh : headerRegs.find? fun r => r.at 0x020 with
      | none => rw [hh] at this; cases this
      | some q => rw [hh] at e this; cases e; simpa using this

/-- Hardware that lists no BLK_INJ has no injection armed. -/
theorem Hw.calm_of_regs {h : Hw} (no : ∀ p ∈ h.regs, p.1 % 4096 ≠ 0x020) : h.calm := by
  intro d b
  have : look h.regs (regKey d b 0x020) = none := look_none fun p hp e => no p hp (by rw [e]; simp only [regKey]; omega)
  simp only [Hw.pg, this]
  split
  · rename_i r e; rw [injReset _ _ _ _ e]; decide
  · decide

end Sys2Proof.Machine
end

