-- ==== Sys2Proof/Tests/Slice0.lean ====
section
/-! SUPPORT. Tests of the model on small states: `test_` theorems check one step against values worked out by hand from the
spec, and `witness_` theorems show, for each statement of `Certificates/Slice0/Obligations.lean` with hypotheses, states
and operands that meet them. -/

namespace Sys2Proof.Tests

/- The tests are checked one after the other: each evaluates a step in the kernel, and together they would need more threads
than the memory of a check allows. -/
set_option Elab.async false

open Sys2Proof Sys2Proof.Machine

/-! ### Small states -/

/-- A supervisor thread that runs at local address 0x400. -/
def thr0 : Thread := { state := .run, st := { priv := true }, pc := ⟨.laddr, 0x400⟩ }

/-- Local memory with a word of major opcode `op` at local address `a`. -/
def code (a : TWord) (m : Memory) (op : Byte := 1) : Memory := if a.tag = .laddr then m.write (a.val.toNat + 3) (4 * op) else m
/-- A module whose core 0 runs, with thread 0 as `x`, at whose PC lies a word of major opcode `op`, the rest of the core as `k` and
the rest of the hardware as `h`. -/
def on (x : Thread := thr0) (k : Core := {}) (h : Hw := {}) (op : Byte := 1) : State :=
  { hw := { h with regs := put h.regs 0x28C 5
                   cores := put h.cores 0 { k with threads := put k.threads 0 x, lmem := code x.pc k.lmem op } } }

def I (n : Word) : TWord := ⟨.int, n⟩
def F (n : Word) : TWord := ⟨.fp, n⟩
def L (n : Word) : TWord := ⟨.laddr, n⟩
def G (n : Word) : TWord := ⟨.gaddr, n⟩

/-- A thread with the words `l` in g1, g2, and so on. -/
def gs (x : Thread) (l : List TWord) : Thread := { x with g := l.zipIdx.map fun p => (p.2 + 1, p.1) }
def usr (x : Thread) : Thread := { x with st := { x.st with priv := false } }

/-- The next state of a command, and its hardware. -/
def next? (o : Host.Outcome State Fault Refusal) : Option State := match o with | .next t => some t | _ => none
def after (o : Host.Outcome State Fault Refusal) : Hw := ((next? o).getD {}).hw

/-- The key of a page register. -/
def key (d b o : Nat) : Nat := d * 2 ^ 24 + b * 2 ^ 12 + o

/-- Bytes from an address on. -/
def lm (a : Nat) (bs : List Byte) : Memory := (bs.zipIdx.map fun p => (a + p.2, p.1)).filter fun c => c.2 != 0

/-- The value of a result that must be there meets `p`. -/
def anyOk {ε α : Type} (r : Except ε α) (p : α → Bool) : Bool := match r with | .ok a => p a | .error _ => false
def data? (r : GRes) : Bool := match r with | .data .. => true | _ => false
def wait? (r : GRes) : Bool := match r with | .wait .. => true | _ => false

/-! ### Commands and the queue -/

def demo : State := on (gs thr0 [I 7, I 0, L 0x1000, I 0x8000000000000000, I 0xFFFFFFFFFFFFFFFF])
def rec0 : OperandRec := ⟨true, 0, 0, 0, 0⟩

theorem witness_StepRunsFrontCommand : demo.pending = [] := by decide
theorem witness_CommandsLeaveTheQueue : (next? (exec .powerOn demo)).isSome = true := by decide +kernel
/-- Well-formed commands, and for each check of `WellFormed.lean` commands that it refuses, which `exec` turns away. -/
theorem witness_WellFormedCommandsRun :
    Instr.wf .powerOn = true ∧ Instr.wf (.operandArrival 0 [rec0, rec0, rec0]) = true ∧
    Instr.wf (.broadcastArrival 1 0x17FFC0 (List.replicate 64 1)) = true ∧
    Instr.wf (.broadcastArrival 1 0x17FFC0 (List.replicate 128 1)) = false ∧
    Instr.wf (.broadcastArrival 1 0x20 (List.replicate 64 1)) = false ∧
    Instr.wf (.broadcastArrival 1 0 []) = false ∧ Instr.wf (.broadcastArrival 1 0 (List.replicate 1024 1)) = false ∧
    Instr.wf (.operandArrival 0 [rec0, rec0]) = false ∧
    Instr.wf (.incomingRdmaWrite 0 0 ⟨0, 0, 8, 0⟩ [1]) = false ∧
    Instr.wf (.incomingWriteImm 0 0 ⟨0, 0, 8, 0⟩ [1] 0) = false := by decide +kernel
theorem test_ill_formed_faults : exec (.operandArrival 0 [rec0]) demo = .fault .illFormed := rfl
theorem witness_WellFormedQueuesKeepRunning : ({ demo with pending := [.powerOn] } : State).queueOk = true := by decide +kernel
theorem witness_MemoriesStayCanonical :
    let s : State := { on thr0 { lmem := [(0x1000, 5)] } { gddr := [(3, 1), (9, 2)] } with pending := [.powerOn] }
    s.hw.memOk = true ∧ (next? (step s)).isSome = true := by decide +kernel

/-! ### Integer and floating-point arithmetic -/

theorem witness_IntegerAluResults :
    demo.hw.slotReady 0 0 4 = true ∧ (demo.reg 0 0 1).tag.isInt = true ∧ (demo.reg 0 0 2).tag.isInt = true := by decide +kernel
theorem witness_DivisionRaisesNoFault :
    demo.hw.slotReady 0 0 4 = true ∧
    ((demo.reg 0 0 1).tag.isInt = true ∧ (demo.reg 0 0 2).tag.isInt = true ∧ (demo.reg 0 0 2).val = 0) ∧
    (demo.reg 0 0 4).tag.isInt = true ∧ (demo.reg 0 0 5).tag.isInt = true ∧ (demo.reg 0 0 4).val = 0x8000000000000000 ∧
    (demo.reg 0 0 5).val = 0xFFFFFFFFFFFFFFFF := by decide +kernel
/-- The slot is ready for words of 4 and of 8 bytes; SHI's field at its largest value. -/
theorem witness_ImmediateAndCountResults :
    demo.hw.slotReady 0 0 4 = true ∧ demo.hw.slotReady 0 0 8 = true ∧ (demo.reg 0 0 1).tag.isInt = true ∧
    (⟨3, 1, 0⟩ : RF).rb = 0 ∧ fld (⟨3, 1, 0x00FF⟩ : IF).imm 15 8 = 0 ∧ (⟨3, 0, 5⟩ : IF).ra = 0 := by decide +kernel

/-- g1 to g6: 1.0, the double above 1.0, 3.0, 1.5, INT 5 and a signalling NaN, with the traps `en` enabled. -/
def fpd (en : Word) : State :=
  on { gs thr0 [F 0x3FF0000000000000, F 0x3FF0000000000001, F 0x4008000000000000, F 0x3FF8000000000000, I 5,
    F 0x7FF0000000000001] with fpcsr := en }
/-- Operands of every form, a result without a trapped flag, and results of division (inexact), of a signalling NaN (invalid)
and of a conversion (inexact) that trap. -/
theorem witness_FloatingPointResults :
    (fpd 0).hw.slotReady 0 0 4 = true ∧ (fpd 0x1F00).hw.slotReady 0 0 4 = true ∧
    (fpTwo ((fpd 0).hw.thr 0 0) ⟨7, 1, 3⟩).isSome = true ∧ (fpThree ((fpd 0).hw.thr 0 0) ⟨4, 1, 3⟩).isSome = true ∧
    (fpOne ((fpd 0).hw.thr 0 0) ⟨7, 1, 0⟩).isSome = true ∧ (fpInt ((fpd 0).hw.thr 0 0) ⟨7, 5, 0⟩).isSome = true ∧
    (fpRes (fp64.op ((fpd 0).hw.thr 0 0).rm .div 0x3FF0000000000000 0x4008000000000000 0)).2.quiet ((fpd 0).hw.thr 0 0) = true ∧
    (fpRes (fp64.op ((fpd 0x1F00).hw.thr 0 0).rm .div 0x3FF0000000000000 0x4008000000000000 0)).2.quiet
      ((fpd 0x1F00).hw.thr 0 0) = false ∧
    (cmpRes (fp64.cmp .eq 0x7FF0000000000001 0)).2.quiet ((fpd 0x1F00).hw.thr 0 0) = false ∧
    (cvtFI 64 ((fpd 0x1F00).hw.thr 0 0).rm (fp64.dec 0x3FF8000000000000)).2.quiet ((fpd 0x1F00).hw.thr 0 0) = false := by
  decide +kernel

/-! ### Tags, registers, branches and the return stack -/

/-- g1 INT 7, g2 INT 0, g3 and g4 laddr, g5 an event handle's bits, g6 NIL, g7 the greatest laddr. -/
def tags : State := on (gs thr0 [I 7, I 0, L 0x1000, L 0x1040, I 0x80000001, ⟨.nil, 0⟩, L 0x17FFFF])
theorem witness_TagAndAddressResults :
    let x := tags.hw.thr 0 0
    tags.hw.slotReady 0 0 4 = true ∧ tags.hw.slotReady 0 0 8 = true ∧ (x.rd 1).tag.isBits = true ∧
    evHandle (x.rd 5).val = true ∧ (moved (x.rd 3) (x.rd 1).val.toInt).isSome = true ∧
    (moved (x.rd 7) 1).isSome = true ∧ (moved (x.rd 7) 2).isSome = false ∧ samePair (x.rd 3) (x.rd 4) = true ∧
    (x.rd 3).tag.isAddr = true ∧ int? (x.rd 1) = true ∧ (x.rd 1).val.toNat ≤ 47 := by decide +kernel
theorem witness_TagAndAddressResults_2 : tags.reaches 0 0 (-0x400) ∧ ¬ tags.reaches 0 0 (-0x401) := by
  unfold State.reaches; decide +kernel
theorem witness_ScalarRegisterWrite : (3 : Reg) ≠ 4 ∧ ((0 : CoreId), (1 : Tid)) ≠ (0, 0) := by decide

/-- g1, g2 INT 7, g3, g4 laddr, g5 NIL, g6 INT 8; the PC at 0x20000, where off16 reaches both below 0 and not. -/
def br0 (rs : List TWord := []) (pc : Word := 0x20000) : State :=
  on { gs thr0 [I 7, I 7, L 0x1000, L 0x1000, ⟨.nil, 0⟩, I 8] with rs := rs, pc := ⟨.laddr, pc⟩ }
/-- Conditions that hold and that do not, on ints and on addresses, with targets inside and outside the space. -/
theorem witness_BranchesAndJumps :
    let s := br0
    let eq := cmps fun a b => decide (a = b)
    s.hw.slotReady 0 0 4 = true ∧ s.hw.slotReady 0 0 8 = true ∧
    eq (s.reg 0 0 1) (s.reg 0 0 2) 2 = some true ∧ eq (s.reg 0 0 1) (s.reg 0 0 6) 6 = some false ∧
    eq (s.reg 0 0 3) (s.reg 0 0 4) 4 = some true ∧
    ints (fun a b => decide (a.toInt < b.toInt)) (s.reg 0 0 1) (s.reg 0 0 6) 6 = some true ∧
    (s.reg 0 0 5).tag = .nil ∧ (s.reg 0 0 3).tag.isAddr = true ∧
    (s.hw.thr 0 0).pc.val.toNat + (-0x8000 : Int) * 4 = 0 ∧
    ¬ (0 ≤ ((br0 [] 0x1FFFC).hw.thr 0 0).pc.val.toNat + (-0x8000 : Int) * 4) := by decide +kernel
/-- Jumps to both ends of the space; pushes with room, and on a full stack without rs_trap; a RET with an entry. -/
theorem witness_BranchesAndJumps_2 :
    br0.reaches 0 0 (-0x20000) ∧ br0.reaches 0 0 0x160000 ∧ ¬ br0.reaches 0 0 0x160001 ∧
    (br0 (List.replicate 15 (L 4))).pushes 0 0 ∧ (br0 (List.replicate 16 (L 4))).pushes 0 0 ∧
    ((br0 [L 0x800]).hw.thr 0 0).rs = L 0x800 :: [] ∧ (br0 [L 0x800]).hw.slotReady 0 0 4 = true := by
  unfold State.reaches State.pushes; decide +kernel
/-- Return stacks of no, 15 and 16 entries, and rs_trap set. -/
theorem witness_ReturnStackInstructions :
    br0.hw.slotReady 0 0 4 = true ∧ (br0.reg 0 0 3).tag.isAddr = true ∧
    (br0 (List.replicate 15 (L 4))).hw.slotReady 0 0 4 = true ∧ (br0 (List.replicate 15 (L 4))).pushes 0 0 ∧
    let s : State := on { gs thr0 [L 8] with rs := List.replicate 16 (L 4) } {} { regs := [(0x40, 0x20)] }
    s.hw.slotReady 0 0 4 = true ∧ (s.hw.thr 0 0).rs.length = 16 ∧ s.hw.rsTrap 0 = true := by
  unfold State.pushes; decide +kernel

/-! ### Special registers, system calls, events, pool threads and locks -/

/-- 0x010 ESP is closed to user mode, 0x005 EV_PEND open, 0x7FF no register. -/
theorem witness_SpecialRegisterReads :
    (on thr0).hw.slotReady 0 0 4 = true ∧ (on (usr thr0)).hw.slotReady 0 0 4 = true ∧
    (on thr0).super 0 0 = true ∧ (on (usr thr0)).super 0 0 = false ∧
    (specialOf 0x10).any (fun r => !r.ur) = true ∧ (specialOf 5).any (fun r => r.ur) = true ∧
    (specialOf 0x7FF).isNone = true := by decide +kernel
/-- Sources of every accepted kind; 0x001 TIDN is read-only and 0x7F0 no register. -/
theorem witness_SpecialRegisterWrites :
    let s := on (usr (gs thr0 [I 0x82, L 8, ⟨.stat, 1⟩]))
    s.hw.slotReady 0 0 4 = true ∧ s.super 0 0 = false ∧ (s.reg 0 0 1).tag.isInt = true ∧ (s.reg 0 0 2).tag.isAddr = true ∧
    (s.reg 0 0 3).tag = .stat ∧ (specialOf 1).any (fun r => !r.w) = true ∧ (specialOf 0x7F0).isNone = true ∧
    (specialOf 0).any (fun r => r.w && !r.uw) = true ∧
    (on (gs thr0 [I 0x82, L 8, ⟨.stat, 1⟩])).super 0 0 = true := by decide +kernel

/-- A core whose stack frame at 0x1000 holds the status word `w2` and the return word `w1` (R116). -/
def frame (w1 w2 : TWord) : Core :=
  { lmem := Memory.writeN (Memory.writeN [] 0x1000 (leBytes 8 w2.val.toNat)) 0x1008 (leBytes 8 w1.val.toNat)
    ltag := [(0x200, w2.tag), (0x201, w1.tag)] }
/-- A handler of nesting depth 1 of a user program. -/
def inner : Thread := { thr0 with nest := 1, basePriv := false, esp := L 0x1000, espLimit := L 0x100 }
/-- A handler in the last-resort state. -/
def last : Thread :=
  { thr0 with nest := 1, basePriv := true, xsStat := ⟨.stat, 1⟩, xsRa := G 0x500, st := { priv := true, lr := true }, lrLevel := 1 }
def frameOk (s : State) (p : TWord → TWord → Bool → Bool) : Bool :=
  anyOk ((s.hw.begun 0 0).eretFrame 0 ((s.hw.begun 0 0).thr 0 0)) fun r => p r.1 r.2.1 r.2.2
/-- SCALL in user mode; SRET; ERET of a frame on the stack and of the last-resort state. -/
theorem witness_SystemCallsAndReturns :
    (let s := on { usr thr0 with scEntry := L 0x800 };
      s.hw.slotReady 0 0 4 = true ∧ (s.hw.thr 0 0).st.priv = false ∧ (s.hw.thr 0 0).scEntry.tag.isAddr = true) ∧
    (let s := on { thr0 with scStat := ⟨.stat, 2⟩, scRa := L 0x404 };
      s.hw.slotReady 0 0 4 = true ∧ (s.hw.thr 0 0).nest = 0 ∧ (s.hw.thr 0 0).scStat.tag = .stat ∧
      (s.hw.thr 0 0).scStat.val.getLsbD 0 = false ∧ (s.hw.thr 0 0).scRa.tag.isAddr = true) ∧
    (on inner (frame (L 0x600) ⟨.stat, 0⟩)).hw.slotReady 0 0 4 = true ∧ (on last).hw.slotReady 0 0 4 = true ∧
    frameOk (on inner (frame (L 0x600) ⟨.stat, 0⟩)) (fun ra st xs => ra.tag.isAddr && st.tag == .stat && !st.val.getLsbD 0 && !xs) = true ∧
    frameOk (on last) (fun ra st xs => ra.tag.isAddr && st.tag == .stat && st.val.getLsbD 0 && xs) = true := by decide +kernel
/-- NEST 0 and above in both modes; a frame without STAT, one with the wrong mode, and an SC_STAT without STAT. -/
theorem witness_ReturnChecksRefuse :
    (on thr0).hw.slotReady 0 0 4 = true ∧ (on (usr thr0)).hw.slotReady 0 0 4 = true ∧
    (on { usr thr0 with nest := 1 }).hw.slotReady 0 0 4 = true ∧
    frameOk (on inner (frame (L 0x600) (I 0))) (fun _ st _ => st.tag != .stat) = true ∧
    frameOk (on { inner with basePriv := true } (frame (L 0x600) ⟨.stat, 0⟩)) (fun _ st _ => st.tag == .stat && !st.val.getLsbD 0) = true ∧
    (on { thr0 with scStat := I 0 }).hw.slotReady 0 0 4 = true ∧ ((on { thr0 with scStat := I 0 }).hw.thr 0 0).scStat.tag ≠ .stat := by
  decide +kernel
/-- g1 the greatest laddr and the greatest gaddr bound, masks, counter targets that have passed and have not, and event
handles of the own core and of another. -/
theorem witness_MintsWaitsAndEvents :
    let s := on { gs thr0 [I 0x180000, I 0x1000000000000, I 0x10, I 0, I 5, ⟨.evh, 0x80000000⟩, ⟨.evh, 0x80000001⟩] with evPend := 0 }
    let p := on { gs thr0 [I 0x10] with evPend := 0x30 }
    s.hw.slotReady 0 0 4 = true ∧ s.super 0 0 = true ∧ (s.reg 0 0 1).tag.isInt = true ∧ (s.reg 0 0 1).val.toNat ≤ 0x180000 ∧
    (s.reg 0 0 2).val.toNat ≤ 0x1000000000000 ∧ (s.reg 0 0 3).val.toNat < 2 ^ 32 ∧ (s.reg 0 0 3).val ≠ 0 ∧
    (p.hw.thr 0 0).evPend &&& (p.reg 0 0 1).val.setWidth 32 ≠ 0 ∧ p.hw.slotReady 0 0 4 = true ∧
    ((s.hw.core 0).cycle - (s.reg 0 0 4).val).toNat < 2 ^ 63 ∧ ¬ ((s.hw.core 0).cycle - (s.reg 0 0 5).val).toNat < 2 ^ 63 ∧
    (s.hw.cadence 0 - (s.reg 0 0 4).val.setWidth 48).toNat < 2 ^ 47 ∧
    ¬ (s.hw.cadence 0 - (s.reg 0 0 5).val.setWidth 48).toNat < 2 ^ 47 ∧
    (s.reg 0 0 6).val.getLsbD 31 = true ∧ fld (s.reg 0 0 6).val 15 0 = 0 ∧ fld (s.reg 0 0 7).val 15 0 ≠ 0 := by decide +kernel
/-- A core whose lock cell 63 is held by `o`. -/
def lk (o : Tid) : Core := { locks := [(63, { owner := o })] }
/-- A handle of thread 1 of core 0, which has EXITED. -/
def joiner (st : TState) : State := on (gs thr0 [⟨.evh, 0x01000000⟩, I 63, L 0x800]) { lk 1 with threads := [(1, { state := st })] }
def pool1 (k : Core) : State :=
  on thr0 { k with threads := [(1, { thr0 with g := [(2, I 63), (3, ⟨.evh, 0x01000000⟩)] })] }
theorem witness_PoolThreadsAndLocks :
    (joiner .exited).hw.slotReady 0 0 4 = true ∧ ((joiner .exited).reg 0 0 3).tag.isAddr = true ∧
    (([1, 2, 3] : List Tid).find? fun n => (((joiner .exited).hw.core 0).thr n).state == .free) = some 2 ∧
    ((joiner .exited).reg 0 0 1).tag = .evh ∧ ((joiner .exited).reg 0 0 1).val.getLsbD 31 = false ∧
    fld ((joiner .exited).reg 0 0 1).val 15 0 = 0 ∧ tidOf (fld ((joiner .exited).reg 0 0 1).val 25 24) = 1 ∧
    BitVec.ofNat 8 (fld ((joiner .exited).reg 0 0 1).val 39 32) = ((joiner .exited).hw.core 0).gen 1 ∧
    ((joiner .exited).hw.thr 0 1).state = .exited ∧ ((joiner .run).hw.thr 0 1).state ≠ .exited ∧
    (pool1 {}).hw.slotReady 0 1 4 = true ∧ ((pool1 {}).hw.core 0).heldCell 1 = none ∧
    ((pool1 {}).reg 0 1 3).tag = .evh ∧ tidOf (fld ((pool1 {}).reg 0 1 3).val 25 24) = 1 ∧
    ((on (gs thr0 [⟨.evh, 0x01000001⟩])).reg 0 0 1).val.getLsbD 31 = false ∧
    fld ((on (gs thr0 [⟨.evh, 0x01000001⟩])).reg 0 0 1).val 15 0 ≠ (0 : CoreId).val ∧
    ((pool1 (lk 1)).hw.core 0).heldCell 1 = some 63 ∧
    (let s := on (gs thr0 [I 63]) { threads := [(1, thr0), (2, thr0), (3, thr0)] };
      ∀ n : Tid, n ≠ 0 → ((s.hw.core 0).thr n).state ≠ .free) := by decide +kernel
/-- Cell 63 free, held by another thread, and held by the thread itself. -/
theorem witness_PoolThreadsAndLocks_2 :
    (on (gs thr0 [I 63])).names 0 0 ⟨0, 1, 0⟩ 63 ∧ look ((on (gs thr0 [I 63])).hw.core 0).locks 63 = none ∧
    (on (gs thr0 [I 63]) (lk 1)).names 0 0 ⟨0, 1, 0⟩ 63 ∧
    (look ((on (gs thr0 [I 63]) (lk 1)).hw.core 0).locks 63).any (fun l => l.owner != 0) = true ∧
    (look ((on (gs thr0 [I 63]) (lk 0)).hw.core 0).locks 63).any (fun l => l.owner == 0) = true := by
  unfold State.names; decide +kernel
/-- brk_halt clear and set; pool threads that RESUME and ABANDON accept; no store outstanding, and one. -/
theorem witness_BreakpointsThreadControlAndFences :
    (on thr0).hw.slotReady 0 0 4 = true ∧ ((on thr0).hw.cpg 0 0x074).getLsbD 12 = false ∧
    (let s := on thr0 {} { regs := [(0x74, 0x1000)] };
      s.hw.slotReady 0 0 4 = true ∧ (s.hw.cpg 0 0x074).getLsbD 12 = true) ∧
    (on thr0).super 0 0 = true ∧
    (((on thr0 { threads := [(1, { thr0 with state := .haltStop })] }).hw.begun 0 0).threadResume 0 1).isSome = true ∧
    (((on thr0 { threads := [(1, { thr0 with state := .haltFault })] }).hw.begun 0 0).threadAbandon 0 1).isSome = true ∧
    ((on thr0).hw.thr 0 0).respErr = none ∧
    ((((on thr0).hw.begun 0 0).core 0).outs.any fun o => o.thread == 0 && !o.kind.isFill) = false ∧
    (let s := on thr0 { outs := [{ id := 4, thread := 0, kind := .post }] };
      s.hw.slotReady 0 0 4 = true ∧ (((s.hw.begun 0 0).core 0).outs.any fun o => o.thread == 0 && !o.kind.isFill) = true) ∧
    (let s := on (gs thr0 [L 0x17FFFF]);
      s.hw.slotReady 0 0 4 = true ∧ (s.reg 0 0 1).tag.isAddr = true ∧ (s.reg 0 0 1).val.toNat + 1 ≤ (s.reg 0 0 1).tag.top) := by
  decide +kernel

/-- g1 INT 7, g2 INT 9, g3 a laddr, g4 a gaddr that translation-buffer entry 0 of `tb0` maps, g5 a STAT word. -/
def mem (k : Core := { lmem := [(0x1000, 5), (0x1007, 6)], ltag := [(0x200, .laddr)] }) : State :=
  on { gs thr0 [I 7, I 9, L 0x1000, G 0x1000, ⟨.stat, 5⟩, I 4095, I 4096] with v := [(1, 0x123456789ABCDEF0), (2, 0x1010101)] } k
def goes? (r : IRes) : Bool := match r with | .ok _ .seq => true | _ => false
def inRep (n : Bool) (left : BitVec 12) : State :=
  on { (mem.hw.thr 0 0) with st := { priv := true, repActive := true, repMode := n, repLeft := left } } (mem.hw.core 0)
/-- Counts 0, 1, 3, 4,095 and 4,096, in the word, in a register and in rep_left, with iterations that commit. -/
theorem witness_PrefixesRepeat :
    mem.hw.slotReady 0 0 8 = true ∧ (mem.hw.thr 0 0).st.repActive = false ∧ (inRep true 3).hw.slotReady 0 0 8 = true ∧
    goes? (Hw.repBody (.alu .add ⟨3, 1, 2⟩) (mem.hw.repLeft 0 0 true false 1) 0 0) = true ∧
    goes? (Hw.repBody (.alu .add ⟨2, 1, 2⟩) (mem.hw.repLeft 0 0 true false 4095) 0 0) = true ∧
    goes? (Hw.repBody (.ld ⟨8, 3, 6, true, 1⟩) ((inRep true 3).hw.repLeft 0 0 true true 3) 0 0) = true ∧
    (mem.reg 0 0 6).tag.isInt = true ∧ (mem.reg 0 0 6).val.toNat = 4095 ∧ (mem.reg 0 0 7).val.toNat = 4096 ∧
    RepIns.alu .add ⟨3, 1, 3⟩ ≠ .notRepeatable := by decide +kernel
/-- The worked example of spec 02: REP.I 512 over ST.D g0, [g5]+1; its first iteration in thread 1. -/
def clear : Instr := .repI 0 1 { count := 512 } (.st ⟨0, 5, 6, true, 1⟩)
def clearing (x : Thread) : State :=
  on thr0 { threads := [(1, x)], lmem := [(0x40000, 7), (0x40640, 7)] } {} 7
theorem test_rep_first_iteration :
    (match exec clear (clearing (gs { thr0 with st := {} } [I 0, I 0, I 0, I 0, L 0x40000])) with
      | .next s => let x := s.hw.thr 0 1
        decide (x.rd 5 = L 0x40008 ∧ x.pc = L 0x400 ∧ x.st.repActive = true ∧ x.st.repLeft = 511 ∧
          (s.hw.core 0).ldWord 0x40000 = I 0)
      | _ => false) = true := by decide +kernel
/-- Its interrupt with 312 iterations left: the STATUS word pushed has 0x92_2710_0002 in bits [39:0]. -/
theorem test_rep_interrupt :
    (match exec clear (clearing { gs { thr0 with st := { ie := true, repActive := true, repLeft := 312 } }
        [I 0, I 0, I 0, I 0, L 0x40640] with evPend := 1, intEn := 1, esp := L 0x2000, espLimit := L 0x1000 }) with
      | .next s => decide ((((s.hw.core 0).ldWord 0x1FF0).val.setWidth 40 : BitVec 40) = 0x9227100002 ∧
          (s.hw.core 0).ldWord 0x1FF8 = L 0x400 ∧ (s.hw.thr 0 1).pc = L (0x400 + 64 * 18))
      | _ => false) = true := by decide +kernel

/-! ### Loads, stores, the caches and the translation buffer -/

def dl (d : BitVec 128 := 0) : DLine := { pline := 0x220, way := 0, bytes := List.replicate 128 5, dirty := d }
def tb0 : Core := { tb := [(0, ⟨1, 0x100D0⟩)] }
def ldOk (s : State) (f : MF) (tag : Tag) (p : Nat → Bool) : Bool :=
  anyOk (ldEff ((s.hw.begun 0 0).thr 0 0) f) fun e => e.a.tag == tag && p e.a.val.toNat
def stOk (s : State) (f : MF) (tag : Tag) (p : Nat → Bool) : Bool :=
  anyOk ((s.hw.begun 0 0).stEff 0 ((s.hw.begun 0 0).thr 0 0) f) fun e => e.a.tag == tag && p e.a.val.toNat
def read? (s : State) (size n : Nat) (a : Nat) (p : GRes → Bool) : Bool :=
  anyOk ((s.hw.begun 0 0).pieces 0 true .read size a n) fun ps => p ((s.hw.begun 0 0).gread 0 0 ps)
/-- Local loads at the last word; global ones whose line is absent and present; local and global stores. -/
theorem witness_ScalarLoadsAndStores :
    mem.hw.slotReady 0 0 4 = true ∧ (mem tb0).hw.slotReady 0 0 4 = true ∧ (mem { tb0 with dcache := [dl] }).hw.slotReady 0 0 4 = true ∧
    ldOk mem ⟨8, 3, 6, true, 1⟩ .laddr (fun a => ((mem.hw.begun 0 0).core 0).lmErr a 8 < 2) = true ∧
    ldOk (on (gs thr0 [L 0x17FFF8])) ⟨8, 1, 6, false, 0⟩ .laddr (fun a => a == 0x17FFF8) = true ∧
    ldOk (mem tb0) ⟨8, 4, 6, true, 1⟩ .gaddr (fun a => read? (mem tb0) 3 8 a wait?) = true ∧
    ldOk (mem { tb0 with dcache := [dl] }) ⟨8, 4, 6, true, 1⟩ .gaddr
      (fun a => read? (mem { tb0 with dcache := [dl] }) 3 8 a data?) = true ∧
    stOk mem ⟨5, 3, 6, true, 1⟩ .laddr (fun _ => true) = true ∧
    stOk (mem { tb0 with dcache := [dl] }) ⟨1, 4, 6, false, 0⟩ .gaddr (fun a =>
      anyOk (((mem { tb0 with dcache := [dl] }).hw.begun 0 0).pieces 0 true .write 3 a 8) fun _ => true) = true := by
  decide +kernel
def vecOk (s : State) (r : Reg) (tag : Tag) (p : Nat → Bool) : Bool :=
  anyOk (effAddr (((s.hw.begun 0 0).thr 0 0).rd r) 0 false 64) fun e => e.a.tag == tag && p e.a.val.toNat
theorem witness_VectorLoadsAndStores :
    mem.hw.slotReady 0 0 4 = true ∧ (mem tb0).hw.slotReady 0 0 4 = true ∧ (mem { tb0 with dcache := [dl] }).hw.slotReady 0 0 4 = true ∧
    vecOk mem 3 .laddr (fun a => ((mem.hw.begun 0 0).core 0).lmErr a 64 < 2) = true ∧
    vecOk (mem tb0) 4 .gaddr (fun a => read? (mem tb0) 6 64 a wait?) = true ∧
    vecOk (mem { tb0 with dcache := [dl] }) 4 .gaddr (fun a => read? (mem { tb0 with dcache := [dl] }) 6 64 a data?) = true ∧
    anyOk ((mem.hw.begun 0 0).guardEff 0 ((mem.hw.begun 0 0).thr 0 0) 0x22 (((mem.hw.begun 0 0).thr 0 0).rd 3) 0 false
      ((bitsOf 64 (((mem.hw.begun 0 0).thr 0 0).kmask 0)).head?)) (fun _ => true) = true ∧
    anyOk (((mem { tb0 with dcache := [dl] }).hw.begun 0 0).pieces 0 true .write 6 0x1000 64) (fun _ => true) = true := by
  decide +kernel
theorem witness_LocalStoreFrame :
    mem.hw.slotReady 0 0 4 = true ∧ stOk mem ⟨1, 3, 6, true, 1⟩ .laddr (fun _ => true) = true ∧
    (mem.hw.cpg 0 0x020).getLsbD 31 = false ∧ (next? (exec (.st 0 0 ⟨1, 3, 6, true, 1⟩) mem)).isSome = true := by decide +kernel
theorem witness_ScalarInstructionFrame :
    mem.hw.slotReady 0 0 4 = true ∧ (mem.hw.thr 0 0).stepping = false ∧ (mem.hw.cpg 0 0x020).getLsbD 31 = false := by decide +kernel
theorem witness_ScalarInstructionFrame_2 :
    exec (.add 0 0 ⟨3, 1, 2⟩) mem = mem.did 0 0 4 ((mem.hw.begun 0 0).wrG 0 0 3 (I 16)) ∧
    exec (.addi 0 0 ⟨3, 1, 4⟩) mem = mem.did 0 0 4 ((mem.hw.begun 0 0).wrG 0 0 3 (I 11)) := ⟨by rfl, by rfl⟩
def lineOk (s : State) (inv : Bool) (p : Nat → Bool) : Bool :=
  anyOk ((s.hw.begun 0 0).lineOf 0 0 inv (s.reg 0 0 4)) fun l => l.any p
/-- A line present and a free write-back slot, no slot free, and a clean cache. -/
theorem witness_CacheInstructions :
    let full : List OutReq := (List.range 8).map fun i => { id := i, thread := 0, kind := .wback }
    let s := mem { tb0 with dcache := [dl 3] }
    let w := mem { tb0 with dcache := [dl 3], outs := full }
    s.hw.slotReady 0 0 4 = true ∧ w.hw.slotReady 0 0 4 = true ∧ (s.reg 0 0 3).tag = .laddr ∧ (s.reg 0 0 3).val.toNat + 1 ≤ 0x180000 ∧
    (s.reg 0 0 4).tag = .gaddr ∧ s.super 0 0 = true ∧
    lineOk s false (fun pl => (((s.hw.begun 0 0).core 0).dcFind pl).any fun l => ((s.hw.begun 0 0).flushLine 0 0 false l).isSome) = true ∧
    lineOk w false (fun pl => (((w.hw.begun 0 0).core 0).dcFind pl).any fun l => ((w.hw.begun 0 0).flushLine 0 0 false l).isNone) = true ∧
    lineOk s true (fun pl => (((s.hw.begun 0 0).core 0).dcFind pl).any fun l => ((s.hw.begun 0 0).flushLine 0 0 true l).isSome) = true ∧
    ((s.hw.begun 0 0).flushAll 0 0 false ((s.hw.begun 0 0).core 0).dcache).2 = true ∧
    ((s.hw.begun 0 0).flushAll 0 0 true ((s.hw.begun 0 0).core 0).dcache).2 = true ∧
    ((w.hw.begun 0 0).flushAll 0 0 true ((w.hw.begun 0 0).core 0).dcache).2 = false := by decide +kernel
/-- Index 63, an accepted entry and an invalid one, and a thread in user mode. -/
theorem witness_TranslationBufferInstructions :
    let s := on (gs thr0 [I 0x20001, I 0x100D0, I 63, I 0x20000])
    s.hw.slotReady 0 0 4 = true ∧ s.super 0 0 = true ∧ (s.reg 0 0 1).tag.isInt = true ∧ (s.reg 0 0 2).tag.isInt = true ∧
    (s.reg 0 0 3).tag.isInt = true ∧ (s.reg 0 0 3).val.toNat < 64 ∧
    (⟨(s.reg 0 0 1).val, (s.reg 0 0 2).val⟩ : TbEnt).valid = true ∧ s.hw.tbOk ⟨(s.reg 0 0 1).val, (s.reg 0 0 2).val⟩ = true ∧
    (⟨(s.reg 0 0 4).val, (s.reg 0 0 2).val⟩ : TbEnt).valid = false ∧
    (on (usr thr0)).hw.slotReady 0 0 4 = true ∧ (on (usr thr0)).super 0 0 = false := by decide +kernel

/-! ### Tiles, accumulators and arrays -/

/-- Configurations of two rows: BF16, FP8 and sparse FP8; INT8. -/
def cfgBf : Word := 0x80080801
def cfgI8 : Word := 0x800A2001
def cfgF8s : Word := 0x80110801
def cfgF8 : Word := 0x80011001
def tl (cfg : Word) (p : Option Progress := none) : Tile :=
  { cfg := cfg, valid := 0xFFFFFFFF, bytes := [(0, 1), (1, 0x3F), (2, 0x80), (256, 5), (257, 0x40)], prog := p }
def kt (l : List (Nat × Tile)) : Core := { tb0 with tiles := l, lmem := [(0x1000, 5), (0x1007, 6)] }
def x1 : Thread :=
  { gs thr0 [L 0x1000, I 0x40, I 1, F 0x4000000000000000, I 0, I cfgBf, I 0x800FFFFF] with v := [(2, 0x123456789ABCDEF0), (3, 0x1010101)] }
def moved? (r : RowRes) : Bool := match r with | .done _ => true | _ => false
/-- Row `r` of a transfer of tile 1 at g1 with stride g2 moves. -/
def moves (op : TileOp) (p : Option Progress) (r : Nat) : Bool :=
  let s := on x1 (kt [(1, tl cfgBf p)])
  let h := s.hw.begun 0 0
  let f : RF := ⟨1, 1, 2⟩
  let h0 := ((if op = .load then (h.updC 0 fun k => k.dropLatches 1).updTile 0 1 fun x => { x with valid := 0 } else h).updTile
    0 1 fun x => { x with prog := some { kind := op, next := 0, addr := L 0x1000, stride := 0x40 }, records := x.records + 1 })
  s.hw.slotReady 0 0 4 && (tileCheck op f (h.thr 0 0) ((h.core 0).tile 1)).isOk && !(h.core 0).tileRead 1 &&
    moved? ((if p.isNone then h0 else h).moveRow 0 0 op 1 cfgBf r (L 0x1000) 0x40)
/-- The same in a thread that is in the middle of the transfer, under record 0. -/
def movesOn (op : TileOp) (r : Nat) : Bool :=
  let s := on { x1 with wait := .req (.tile op ⟨1, 1, 2⟩ r cfgBf 0) } (kt [(1, tl cfgBf (some ⟨op, r, L 0x1000, 0x40⟩))])
  let g := s.hw.updT 0 0 fun x => { x with wait := .none }
  (s.hw.thr 0 0).state == .run && (s.hw.thr 0 0).wait == .req (.tile op ⟨1, 1, 2⟩ r cfgBf 0) && g.canIssue 0 0 && (g.dueEvent 0 0).isNone &&
    (g.haltDue 0 0).isNone && !(g.thr 0 0).st.ss && !(g.thr 0 0).stepping && moved? (g.moveRow 0 0 op 1 cfgBf r (L 0x1000) 0x40)
/-- The first and the last rows of transfers of 2 rows (4 of TSTORE.T), begun, taken up again, and in the middle. -/
theorem witness_TileTransfersAndConfiguration :
    tileRows .load cfgBf = 2 ∧ tileRows .storeT cfgBf = 4 ∧
    moves .load none 0 = true ∧ moves .store none 0 = true ∧ moves .storeT none 0 = true ∧
    moves .load (some ⟨.load, 1, L 0x1000, 0x40⟩) 1 = true ∧ moves .store (some ⟨.store, 1, L 0x1000, 0x40⟩) 1 = true ∧
    moves .storeT (some ⟨.storeT, 3, L 0x1000, 0x40⟩) 3 = true ∧
    movesOn .load 1 = true ∧ movesOn .store 1 = true ∧ movesOn .storeT 2 = true ∧ movesOn .storeT 3 = true ∧
    (let s := on x1 (kt [(1, tl cfgBf)]);
      (((s.hw.begun 0 0).core 0).tile 1).cfg.getLsbD 31 = true ∧ ((s.hw.begun 0 0).core 0).tileRead 1 = false ∧
      (s.reg 0 0 6).tag.isInt = true ∧ tcfgOk (s.reg 0 0 6).val = true ∧ tcfgOk (s.reg 0 0 7).val = false) := by decide +kernel

def ins (k : ArrKind) (a b : Word) (z : Bool := true) (started : Option Nat := some 0) : ArrIns :=
  { seq := 0, kind := k, thread := 0, acc := 1, z := z, ta := 1, tb := 2, a := tl a, b := tl b, mode := 0, desc := [],
    snap := [], occ := 4, started := started }
def ac (front : List ArrIns := []) : Core :=
  { kt [(1, tl cfgBf), (2, tl cfgF8), (3, tl cfgI8)] with accs := [(1024, 0x3F800000), (1057, 7)], seq := 3, front := front }
def accOk (k : Core) (fn : Fin 9) (f : AccF) (ready : Bool) : Bool :=
  let s := on x1 k
  s.hw.slotReady 0 0 4 && ((s.hw.begun 0 0).accCheck 0 0 fn f).isOk && ((s.hw.begun 0 0).core 0).accReady fn f 3 == ready
/-- Each accumulator instruction with accepted operands, AMOV at the last row, one held by earlier work, and its start. -/
theorem witness_AccumulatorInstructions :
    accOk ac 0 { acc := 1 } true = true ∧ accOk ac 1 { acc := 1, ra := 1, rb := 2 } true = true ∧
    accOk ac 2 { acc := 1, ra := 1, rb := 2 } true = true ∧ accOk ac 3 { acc := 1, ra := 1, rb := 2 } true = true ∧
    accOk ac 4 { acc := 1, x := 2, rb := 3 } true = true ∧ accOk ac 5 { acc := 1, x := 2, rb := 3 } true = true ∧
    accOk ac 6 { acc := 1, x := 2 } true = true ∧ accOk ac 7 { acc := 1, ra := 4 } true = true ∧
    accOk { ac with tiles := [(1, tl 0x80084001)] } 8 { acc := 1, x := 1, rb := 5 } true = true ∧
    accOk (ac [ins .mma cfgBf cfgBf true none]) 0 { acc := 1 } false = true ∧
    (∀ r, r < 32 → ((on x1 ac).hw.core 0).lmErr (accAddr ((on x1 ac).hw.thr 0 0) { acc := 1, ra := 1, rb := 2 } r).toNat 128 < 2) ∧
    (let s := on { x1 with wait := .acc 3 0 { acc := 1 } } { ac with seq := 4 };
      (s.hw.thr 0 0).wait = .acc 3 0 { acc := 1 } ∧ s.hw.coreRuns 0 = true ∧ (s.hw.core 0).accReady 0 { acc := 1 } 3 = true) := by
  decide +kernel
def queued (kind : ArrKind) (a b : Word) (sel : Nat) : Bool :=
  let s := on x1 (kt [(1, tl a), (4, tl b)])
  let h := s.hw.begun 0 0
  s.hw.slotReady 0 0 4 && (shapeCheck kind 1 4 ((h.core 0).tile 1) ((h.core 0).tile 4)).isOk &&
    !(h.core 0).tileStored 1 && !(h.core 0).tileStored 4 && (h.steer 0 sel).isSome
/-- Each way to name a queue; entries that start, complete in the front queue, and complete in the back one. -/
theorem witness_MatrixQueues :
    queued .mma cfgBf cfgBf 0 = true ∧ queued .mma cfgBf cfgBf 1 = true ∧ queued .mma cfgBf cfgBf 2 = true ∧
    queued .mmaS cfgF8 cfgF8s 0 = true ∧ queued .opr cfgBf cfgBf 2 = true ∧
    ((on x1 (ac [ins .mma cfgBf cfgBf true none])).hw.core 0).mayStart false (ins .mma cfgBf cfgBf true none) = true ∧
    (let k := (on x1 (ac [ins .mmaS cfgF8 cfgF8s false])).hw.core 0;
      k.queue false = [ins .mmaS cfgF8 cfgF8s false] ∧ (badOperandRow k 0 1 (tl cfgF8)).isNone = true ∧
      (badOperandRow k 1 2 (tl cfgF8s)).isNone = true) ∧
    (let k := (on x1 { ac with back := [ins .opr cfgI8 cfgI8] }).hw.core 0;
      k.queue true = [ins .opr cfgI8 cfgI8] ∧ (badOperandRow k 2 1 (tl cfgI8)).isNone = true ∧
      (badOperandRow k 3 2 (tl cfgI8)).isNone = true) := by decide +kernel

/-! ### Vector instructions -/

/-- Vectors 1 to 3 and mask 0; the same with every trap enabled, and with a signalling NaN in lane 0 of vector 1. -/
def vx : Thread :=
  { gs thr0 [I 1, I 64, F 0, F 0] with
    v := [(1, 0x3F8000003F800000), (2, 0x400000004000000000000), (3, 5)], k := [(0, 1)] }
def vt : Thread := { vx with fpcsr := 0x1F00 }
def vn : Thread := { vt with v := [(1, 0x7F8000017F800001)] }
theorem witness_VectorIntegerLanes :
    (on vx).hw.slotReady 0 0 4 = true ∧ (⟨3, 1, 2, 0, false, 3⟩ : VF).vd.val < 8 := by decide +kernel
/-- No trapped flag, and an invalid operation that traps; FP32 and BF16 lanes. -/
theorem witness_VectorFloatLanes :
    (on vx).hw.slotReady 0 0 4 = true ∧ (on vn).hw.slotReady 0 0 4 = true ∧ (⟨3, 1, 2, 0, false, 1⟩ : VF).et.toNat < 2 ∧
    ({} : FFlags).quiet ((on vx).hw.thr 0 0) = true ∧
    (laneFlags 32 ((vn).kmask 0) [(fp32.op 0 .add 0x7F800001 0 0).2]).quiet ((on vn).hw.thr 0 0) = false ∧
    (laneFlags 32 ((vn).kmask 0) [(fp32.cmp .eq 0x7F800001 0).2]).quiet ((on vn).hw.thr 0 0) = false := by decide +kernel
/-- Mask registers, a KFIRST of 64 lanes, the last lane of VINS, and VCVT codes 0 and 7 with a part. -/
theorem witness_MasksPermutesAndReductions :
    let s := on vx
    s.hw.slotReady 0 0 4 = true ∧ (s.reg 0 0 1).tag.isBits = true ∧ (s.reg 0 0 2).tag.isInt = true ∧
    (s.reg 0 0 2).val.toNat ≤ 64 ∧ (7 : Reg).val < 8 ∧ (15 : Reg).val < 512 / (8 * 2 ^ (2 : BitVec 2).toNat) ∧
    (maxOf fp32 [0x3F800000]).isSome = true ∧ (maxOf fp32 []).isNone = true ∧
    (({ nv := true } : FFlags).quiet ((on vt).hw.thr 0 0)) = false ∧
    (2 ≤ (31 : Reg).val / 4 ∨ (31 : Reg).val % 4 < 2) ∧ (2 ≤ (1 : Reg).val / 4 ∨ (1 : Reg).val % 4 < 2) := by decide +kernel

/-- A descriptor of ROWRED2: seven addresses, then row count 16, length 1, a stride and flags (R207). -/
def desc : List Byte :=
  leBytes 4 0x2000 ++ leBytes 4 0x2040 ++ leBytes 4 0x2080 ++ leBytes 4 0x20C0 ++ leBytes 4 0x2200 ++ leBytes 4 0x2300 ++
    leBytes 4 0x2380 ++ leBytes 4 16 ++ leBytes 4 1 ++ leBytes 4 64 ++ leBytes 4 0
def rr : ArrIns := { ins .rowred2 0 0 with desc := desc ++ List.replicate 20 0, a := {}, b := {} }
theorem witness_BackwardPassInstructions :
    (let s := on x1 { lmem := Memory.writeN [] 0x1000 desc };
      s.hw.slotReady 0 0 4 = true ∧ (s.hw.core 0).back.length < 4 ∧
      ((s.hw.begun 0 0).rowredCheck 0 ((s.hw.begun 0 0).thr 0 0) ⟨0, 1, 0⟩ 0).isOk = true) ∧
    (let s := on x1 { back := [rr] };
      (s.hw.core 0).back = [rr] ∧ rr.kind = .rowred2 ∧ rr.started ≠ none ∧ (rdescOf rr.mode.val rr.desc).rows < 8192 ∧
      (s.hw.core 0).lbad = [] ∧ (s.hw.cpg 0 0x020).getLsbD 31 = false) ∧
    (on vx).hw.slotReady 0 0 4 = true ∧ ((on vx).reg 0 0 1).tag.isInt = true ∧ ((on vx).reg 0 0 1).val.getLsbD 0 = true ∧
    (on vt).hw.slotReady 0 0 4 = true ∧ (4 : BitVec 5).toNat < 5 ∧ (2 : BitVec 5).toNat < 3 := by decide +kernel

/-! ### Messages -/

def comp0 : Comp := { isOpen := true, hdrSet := true, dest := 0x0101, ring := 1, tag := 7, buf := [(16, 9)] }
def cr (n : Nat) : Tab CEnt := [(0, { dest := 0x0101, ring := 1, credits := n, state := .held, stamp := 1 })]
def snd (l : List TWord) (n : Nat := 3) : State :=
  on { gs thr0 l with comp := comp0, v := [(3, 0x1234567)] } { credits := cr n } { regs := [(0xE8, 0x81050101)] }
/-- MHDR's and MPUT's fields at the ends of their ranges; SEND with exactly enough credits and with one too few. -/
theorem witness_CompositionAndSending :
    let s := snd [I 0x30101, I 65535, I 16, I 1016, I 1, I 15, I 3, I 4, I 2]
    let x := (s.hw.begun 0 0).thr 0 0
    s.hw.slotReady 0 0 4 = true ∧ (s.reg 0 0 1).val.toNat < 2 ^ 18 ∧ destOk (fld (s.reg 0 0 1).val 15 0) = true ∧
    (s.reg 0 0 2).val.toNat < 65536 ∧ 16 ≤ (s.reg 0 0 3).val.toNat ∧ (s.reg 0 0 4).val.toNat ≤ 1016 ∧
    (s.reg 0 0 4).val.toNat % 8 = 0 ∧ 1 ≤ (s.reg 0 0 5).val.toNat ∧ (s.reg 0 0 6).val.toNat ≤ 15 ∧
    x.comp.isOpen = true ∧ x.comp.hdrSet = true ∧ s.hw.unarmed 0 = true ∧
    (((s.hw.begun 0 0).core 0).credit x.comp.dest x.comp.ring).any (fun p => p.2.credits == 3 && p.2.state == .held) = true ∧
    (let v := (s.hw.begun 0 0).cpg 0 (0x0E0 + 4 * (s.reg 0 0 9).val.toNat);
      v.getLsbD 31 = true ∧ (((s.hw.begun 0 0).core 0).credit (frDest v) (frRing v)).any (fun p => 2 + 1 ≤ p.2.credits) = true) := by
  decide +kernel
def ring1 (n : Nat) : Tab Ring :=
  [(1, { free := 10, occ := 4, popped := n, recs := [{ start := 0, len := 2 }, { start := 2, len := 2 }] })]
def ringRegs (ctl : W32) : Tab W32 := [(0xD0, 0x01000000), (0x120, 0x2000), (0x124, ctl)]
/-- A local memory with a message header at 0x2000 and a handler address in the dispatch table. -/
def lmh : Core :=
  { lmem := Memory.writeN (Memory.writeN [] 0x2000 (leBytes 4 0x10000 ++ leBytes 4 0x00100003)) (16 * 512 + 24) (leBytes 8 0x3000)
    ltag := [((16 * 512 + 24) / 8, .laddr)] }
theorem witness_PoppingAndDispatch :
    let x := gs thr0 [I 1, I 0x10]
    (let s := on x {} { regs := ringRegs 0x80000010 };
      s.hw.slotReady 0 0 4 = true ∧ (s.reg 0 0 1).tag.isInt = true ∧ ringEn ((s.hw.begun 0 0).rctl 0 1) = true ∧
      ringHen ((s.hw.begun 0 0).rctl 0 1) = false ∧ ((s.hw.begun 0 0).popMsg 0 1).isNone = true ∧
      (s.hw.begun 0 0).dispatchRing 0 0 = none ∧
      ((s.hw.begun 0 0).thr 0 0).evPend &&& (s.reg 0 0 2).val.setWidth 32 = 0) ∧
    (let s := on x {} { regs := ringRegs 0x80000010, rings := ring1 1 };
      ((s.hw.begun 0 0).popMsg 0 1).isSome = true ∧ ((s.hw.begun 0 0).ring (coreIdW 0) 1).popped ≠ 0) ∧
    (let s := on x lmh { regs := ringRegs 0xC0000010, rings := ring1 0 };
      let h := s.hw.begun 0 0;
      s.hw.slotReady 0 0 4 = true ∧ h.dispatchRing 0 0 = some 1 ∧ (h.popMsg 0 1).any (fun p =>
        let hd := leNat ((h.core 0).lmem.readN p.1 8)
        let a := fld (h.cpg 0 0x0D0) 31 20 * 512 + 8 * (hd / 2 ^ 32 % 64)
        decide (a < 0x180000) && ((h.core 0).ldWord a).tag.isAddr) = true) ∧
    (let s := on { x with state := .waitEv, wait := .mwait 3 0x10 } lmh { regs := ringRegs 0xC0000010, rings := ring1 0 };
      (s.hw.thr 0 0).wait = .mwait 3 0x10 ∧ (s.hw.thr 0 0).state = .waitEv ∧ s.hw.dispatchRing 0 0 = some 1 ∧
      s.hw.coreRuns 0 = true ∧ (s.hw.dueEvent 0 0).isNone = true) := by decide +kernel
def msg1 : Msg := { src := 0x0101, dest := 0, ring := 1, n := 2, tag := 7, bytes := List.replicate 128 3 }
def flight (b : PBody) (q : Queue := .msg) (src : BitVec 16 := 0x0101) (dest : BitVec 16 := 0) : List Pkt :=
  [{ q := q, src := src, dest := dest, body := b }]
def mring : Tab Ring := [(1, { free := 40, granted := 6, wr := 0x3F })]
/-- A core that takes OPERAND records for a halted thread. -/
def operandTarget : State := on thr0 { threads := [(1, { state := .haltDbg })] } { regs := [(0x40, 0x80)] }
theorem witness_MessagesEventsAndBroadcastsArrive :
    let s := on thr0 {} { regs := ringRegs 0x80000040, flight := flight (.message msg1), rings := mring }
    let f := on thr0 {} { regs := ringRegs 0x80000040, flight := flight (.message { msg1 with fixed := true }) .fix, rings := mring }
    let e := on thr0 {} { regs := [(0x280, 0)], flight := flight (.event 2 31) }
    let o := operandTarget
    (s.hw.firstOf .msg 0x0101 0).any (fun p => p.1 == .message msg1 && p.2.refuses (.core 0) == 0 && ringEn (p.2.rctl 0 1)
      && !(p.2.cpg 0 0x020).getLsbD 31) = true ∧
    (f.hw.firstOf .fix 0x0101 0).any (fun p => p.2.refuses (.core 0) == 0) = true ∧
    (e.hw.firstOf .msg 0x0101 0).any (fun p => p.1 == .event 2 31 && p.2.refuses (.core 0) == 0
      && !(p.2.cpg 0 0x280).getLsbD 20) = true ∧
    o.hw.goneSite 0 = false ∧ (o.hw.cpg 0 0x040).getLsbD 7 = true ∧ o.hw.pwr 0 ≠ 1 ∧ o.hw.awake (dieOf 0) = true ∧
    (let p := meshPoint 0;
      o.hw.routeHeld (entryLink 0x2700 (meshEntry 0x2700)) (routeOf 160 (meshEntry 0x2700) (p.1, p.2.1) p.2.2) = false) ∧
    (o.hw.thr 0 1).state.halted = true ∧ (31 : BitVec 5).toNat < 32 ∧
    (Instr.broadcastArrival 0xFFFFF 0x17FFC0 (List.replicate 64 5)).wf = true := by decide +kernel
theorem witness_MessagesEventsAndBroadcastsArrive_2 : operandTarget.hw.calm := Hw.calm_of_regs (by decide +kernel)

/-! ### Credits and rings -/

def hq : Holder := .core 0x101
def creq : PBody := .creq hq 1 2 8
/-- Ring 1 of core 0, enabled, as `r`, with a packet for it at the head of its flow. -/
def atRing (r : Ring) (b : PBody := creq) (q : Queue := .msg) (src : BitVec 16 := 0x0101) (gto : W32 := 0x1000) : State :=
  on thr0 {} { regs := [(0xD0, gto), (0x120, 0x2000), (0x124, 0x84000040)], flight := flight b q src, rings := [(1, r)] }
def others (n : Nat) : List CReq := (List.range n).map fun i => { h := .core (Fin.ofNat 5120 i), src := 5, need := 9, want := 9 }
def first (s : State) (q : Queue) (src dest : BitVec 16) (p : PBody → Hw → Bool) : Bool :=
  (s.hw.firstOf q src dest).any fun x => p x.1 x.2
def asks (s : State) (p : Hw → Ring → Bool) : Bool :=
  first s .msg (holderSrc hq) 0 fun b h => b == creq && h.ringOn 0 1 && p h (h.ring 0 1)
/-- Core 0's credit entry for ring 1 of core 0x101 in state `st`, with an answer at the head of its flow. -/
def answer (b : PBody) (q : Queue) (st : CState) : State :=
  on thr0 { credits := [(0, { dest := 0x0101, ring := 1, credits := 3, state := st, stamp := 1 })] } { flight := flight b q }
def answered (b : PBody) (q : Queue) (st : CState) : Bool :=
  !(answer b q st).hw.bncHeld (.core 0) && first (answer b q st) q 0x0101 (holderSrc (.core 0)) fun x h =>
    x == b && (h.holderEntry (.core 0) 0x0101 1).state == st
theorem witness_CreditRequestsAndAnswers :
    (let s : State := { hw := (atRing {}).hw.updPg 0 0 0x024 fun v => setFld v 2 0 2 };
      first s .msg (holderSrc hq) 0 fun b h => b == creq && h.refuses (endpOf 0 1) != 0) = true ∧
    asks (atRing { free := 40 }) (fun h r => h.refuses (endpOf 0 1) == 0 && r.waiting.isEmpty && h.grantable 0 1 hq 2) = true ∧
    asks (atRing { free := 4 }) (fun h r => h.refuses (endpOf 0 1) == 0 && !h.grantable 0 1 hq 2 && r.waiting.length < 8 &&
      h.grantTo 0 1 != 0) = true ∧
    asks (atRing { free := 40, waiting := others 7 }) (fun h r => !r.waiting.isEmpty && r.waiting.length < 8 && h.grantTo 0 1 != 0) = true ∧
    asks (atRing { free := 40, waiting := others 8 }) (fun _ r => 8 ≤ r.waiting.length) = true ∧
    asks (atRing { free := 4 } creq .msg 0x0101 0) (fun h r => r.waiting.isEmpty && !h.grantable 0 1 hq 2 && h.grantTo 0 1 == 0) = true ∧
    ((atRing { free := 40, waiting := [{ h := hq, src := 0x101, need := 9, want := 9 }] }).hw.ring 0 1).waiting.any
      (fun q => q.h == hq) = true ∧
    answered (.grant (.core 0) 1 5) .ctl .req = true ∧ answered (.retry (.core 0) 1) .ctl .req = true ∧
    answered (.deny (.core 0) 1 1) .bnc .req = true ∧ answered (.recallOf (.core 0) 1) .ctl .held = true ∧
    (let s := atRing { free := 40, granted := 5, grants := [(hq, 5)] } (.ret hq 1 5) .ctl;
      !s.hw.bncHeld hq && first s .ctl (holderSrc hq) 0 fun b h => b == .ret hq 1 5 && (h.ring 0 1).grants.any fun g => g.1 == hq) = true ∧
    (let h := (answer (.grant (.core 0) 1 5) .ctl .req).hw;
      ((h.core 0).credit 0x0101 1).any (fun p => p.2.state == .req) && h.unarmed 0 && (h.waiters 0 0x0101 1).isEmpty &&
        (h.chanWaiters (.core 0) 0x0101 1).isEmpty) = true := by decide +kernel
/-- Page writes that are accepted and that R267 refuses, a purge that names no and one entry, an MTSR, a hub's channel, and
a bounce with room. -/
theorem witness_RingAndRouteRegisters :
    let s := on (gs thr0 [I 0x84000040]) { credits := cr 3 } { regs := [(0x120, 0x2000)] }
    s.hw.shut 0 0 = false ∧ s.hw.awake 0 = true ∧ (s.hw.ringWrite 0 1 true 0x84000040).isSome = true ∧
    (s.hw.ringWrite 0 1 true 0x84000001).isNone = true ∧ (s.hw.ringWrite 0 1 false 0x2040).isSome = true ∧
    (s.hw.ringWrite 0 1 true (setBit (s.hw.rctl 0 1) 21 true)).isSome = true ∧
    (s.hw.ring (coreIdW 0) 1).recallFrom = [] ∧ (s.hw.ring (coreIdW 0) 1).waiting = [] ∧
    (s.hw.core 0).credits.filter (fun x => purged 0x10101 x.2) = (s.hw.core 0).credits ∧
    (s.hw.core 0).credits.filter (fun x => purged 0x10102 x.2) = [] ∧
    s.hw.slotReady 0 0 4 = true ∧ s.super 0 0 = true ∧ (s.reg 0 0 1).tag.isInt = true ∧
    ((s.hw.begun 0 0).ringWrite 0 1 true ((s.reg 0 0 1).val.setWidth 32)).isSome = true := by decide +kernel
theorem witness_RingAndRouteRegisters_2 :
    (let h := ({} : Hw).updCh (.hub 3 5) fun x => { x with cred := { dest := 0x0101, ring := 1, credits := 3, state := .held } };
      h.shut 3 0x101 = false ∧ h.awake 3 = true ∧ purged 0x10101 (h.ch (.hub 3 5)).cred = true ∧
      ∀ m : Fin 32, m ≠ 5 → purged 0x10101 (h.ch (.hub 3 m)).cred = false) ∧
    (let m : Msg := { msg1 with src := 0, dest := 0x0101 };
      let s := on thr0 {} { regs := [(0xD0, 0x00040000), (0x120, 0x2000), (0x124, 0x84000040)], flight := flight (.message m) .bnc,
                            rings := [(1, { free := 40 })] };
      s.hw.bouncesOf 0 = [] ∧
      (s.hw.flight.find? fun p => p.q == .bnc && p.dest == coreIdW 0 && (match p.body with | .message _ => true | _ => false)) =
        some { q := .bnc, src := 0x0101, dest := coreIdW 0, body := .message m } ∧
      first s .bnc 0x0101 (coreIdW 0) (fun b h => b == .message m && (h.landBounce 0 m).isSome) = true) := by decide +kernel

/-! ### Exceptions, wakes, halts and memory answers -/

def es : Thread :=
  { thr0 with esp := L 0x2000, espLimit := L 0x1000, st := { priv := false, ie := true, repActive := true, repLeft := 7 }, rs := [L 3] }
/-- A frame that fits, one that just fits (ESP 16 above its limit), and causes at both ends of their range. -/
theorem witness_ExceptionEntry :
    ((on es).hw.thr 0 0).pushCheck = 0 ∧ (on es).hw.unarmed 0 = true ∧
    ((on { es with esp := L 0x1010, nest := 3 }).hw.thr 0 0).pushCheck = 0 ∧
    ((on { es with esp := L 0x1008 }).hw.thr 0 0).pushCheck ≠ 0 := by decide +kernel
theorem witness_LastResortAndCoreHalt :
    ((on thr0).hw.thr 0 0).pushCheck ≠ 0 ∧ ((on thr0).hw.thr 0 0).st.lr = false ∧
    (let s := on { thr0 with st := { lr := true } } { threads := [(1, { thr0 with st := { lr := true } })] };
      (s.hw.thr 0 0).pushCheck ≠ 0 ∧ (s.hw.thr 0 0).st.lr = true ∧ (s.hw.thr 0 1).pushCheck ≠ 0 ∧ (s.hw.thr 0 1).st.lr = true) := by
  decide +kernel
def ev (x : Thread) (h : Hw := {}) (k : Core := {}) : State := on { x with esp := L 0x2000, espLimit := L 0x1000 } k h
def due (s : State) (cause : Nat) : Bool :=
  s.hw.coreRuns 0 && (s.hw.thr 0 0).atBoundary && !s.hw.waitTakes 0 0 && (s.hw.dueHere 0 0).any fun e => e.cause == cause
/-- Entries of each asynchronous cause, waits with a masked event that is an interrupt as well and is none, waits with no event, a
stall at its window, and the starts. -/
theorem witness_AsynchronousEntriesAndWakes :
    due (ev { thr0 with st := { ie := true }, evPend := 8, intEn := 8 }) 18 = true ∧
    due (ev { thr0 with st := { ie := true }, evPend := 0x80000000 }) 20 = true ∧
    due (ev { thr0 with st := { ie := true }, dmaErrs := [(1, 5)] }) 15 = true ∧
    due (ev { thr0 with arrayEcc := some (3, 4) }) 10 = true ∧
    due (ev { thr0 with st := { ie := true }, evPend := 12, intEn := 4, state := .waitEv, wait := .wfe 3 8 }) 18 = true ∧
    (let s := ev { thr0 with st := { ie := true }, evPend := 8, intEn := 8, state := .waitEv, wait := .wfe 3 8 };
      s.hw.coreRuns 0 = true ∧ (s.hw.thr 0 0).atBoundary = true ∧ (s.hw.dueHere 0 0).isSome = true ∧ s.hw.waitTakes 0 0 = true ∧
      (s.hw.waitMet 0 0).isSome = true) ∧
    (let s := ev { thr0 with evPend := 8, state := .waitEv, wait := .wfe 3 8 };
      s.hw.coreRuns 0 = true ∧ s.hw.otherDue 0 0 = false ∧ (s.hw.thr 0 0).evPend &&& 8 ≠ 0 ∧ (s.hw.thr 0 0).wait = .wfe 3 8) ∧
    (let s := ev { thr0 with evPend := 8, state := .waitEv, wait := .mwait 3 8 };
      s.hw.coreRuns 0 = true ∧ s.hw.otherDue 0 0 = false ∧ (s.hw.thr 0 0).evPend &&& 8 ≠ 0 ∧ s.hw.dispatchRing 0 0 = none) ∧
    (let s := ev { thr0 with evPend := 8, state := .waitCnt, wait := .waitc true 3 100 8 };
      s.hw.otherDue 0 0 = false ∧ (s.hw.thr 0 0).wait = .waitc true 3 100 8 ∧ (s.hw.thr 0 0).evPend &&& 8 ≠ 0) ∧
    (let s := ev { thr0 with state := .waitCnt, wait := .waitc true 3 0 8 };
      s.hw.coreRuns 0 = true ∧ s.hw.otherDue 0 0 = false ∧ (s.hw.thr 0 0).evPend &&& 8 = 0 ∧ s.hw.reached 0 true 0 = true) ∧
    (let s := ev { thr0 with state := .waitJoin, wait := .join 1 0 } { regs := [(0x64, 6)] }
        { threads := [(1, { thr0 with state := .waitEv, wait := .wfe 3 8 })], stallCnt := 6 };
      s.hw.stalled 0 = true ∧ s.hw.cpg 0 0x064 ≠ 0 ∧ (s.hw.cpg 0 0x064).toNat ≤ (s.hw.core 0).stallCnt.toNat) ∧
    (let h : Hw := { regs := [(0x24, 1), (0x284, 4)] }; h.mayRun 0 = true ∧ (h.die 0).sleep = .run ∧ h.pwr 0 = 4) ∧
    (let h (n : W32) : Hw := { regs := [(0x28C, 2), (key 39 0x12 0x40, n * 2 ^ 28)] };
      (h 1).mayRun 0 = true ∧ (h 1).pwr 0 = 0 ∧ (h 1).boot 0 = 2 ∧ (h 1).seqSt = 1 ∧ ((h 1).die 0).sleep = .run ∧ (h 2).seqSt = 2) := by
  decide +kernel
/-- A stop and a debugger halt at a boundary, halted threads, and a delayed access with and without bank_trap. -/
theorem witness_HaltsAndDebuggerSteps :
    (let s := on { thr0 with stopReq := true };
      s.hw.coreRuns 0 = true ∧ (s.hw.thr 0 0).atBoundary = true ∧ (s.hw.dueEvent 0 0).isNone = true ∧ s.hw.haltDue 0 0 = some .haltStop) ∧
    (let s := on { thr0 with state := .waitEv, wait := .wfe 3 8 } {} { regs := [(0x74, 1)] };
      (s.hw.thr 0 0).atBoundary = true ∧ (s.hw.dueEvent 0 0).isNone = true ∧ s.hw.haltDue 0 0 = some .haltDbg) ∧
    (let s := on { thr0 with state := .haltDbg, comp := comp0 } {} { regs := [(0x74, 1)] };
      s.hw.shut 0 0 = false ∧ s.hw.awake 0 = true ∧ s.hw.noneHeld 0 = false ∧ (s.hw.thr 0 0).state = .haltDbg ∧
      (s.hw.thr 0 0).state.halted = true ∧ (s.hw.cpg 0 0x074).getLsbD 0 = true) ∧
    ((on thr0 {} { regs := [(0x40, 0)] }).hw.cpg 0 0x040).getLsbD 6 = false ∧
    (let s := on es {} { regs := [(0x40, 0x40)] };
      (s.hw.cpg 0 0x040).getLsbD 6 = true ∧ s.hw.coreRuns 0 = true ∧ (s.hw.thr 0 0).bankDue = none ∧ s.hw.midN 0 0 = false ∧
      (s.hw.thr 0 0).state = .run ∧ (s.hw.thr 0 0).wait.isHeld = false) ∧
    (∀ st ∈ [TState.haltStop, TState.haltDbg], let s := on { es with state := st } {} { regs := [(0x40, 0x40)] };
      s.hw.coreRuns 0 = true ∧ (s.hw.thr 0 0).bankDue = none ∧ s.hw.midN 0 0 = false) := by
  decide +kernel
def asked (kind : OutKind) (w : Wait) (h : Hw := {}) : State :=
  on { thr0 with state := .waitReq, wait := w } { outs := [{ id := 4, thread := 0, kind := kind }] } h
def rsp (e : Option (BitVec 4) := none) : Hw := { rsps := [{ id := 4, core := 0, data := List.replicate 128 5, err := e }] }
/-- A fill of a full set whose way 0 is dirty, with 7 write-backs under way. -/
def filled : State :=
  on { thr0 with state := .waitReq, wait := .req (.rep (.ld ⟨3, 1, 6, false, 0⟩)) }
    { dcache := (List.range 4).map fun i => { dl 3 with pline := 0x20 + 128 * i, way := Fin.ofNat 4 i }
      outs := { id := 4, thread := 0, kind := .fill 0x220 } :: (List.range 7).map fun i => { id := 5 + i, thread := 0, kind := .wback } } rsp
theorem witness_GlobalAnswersReachCores_2 : (asked (.fill 0x220) (.req (.rep (.ld ⟨3, 1, 6, false, 0⟩))) rsp).hw.calm ∧ filled.hw.calm :=
  ⟨Hw.calm_of_regs (by decide +kernel), Hw.calm_of_regs (by decide +kernel)⟩
theorem witness_GlobalAnswersReachCores :
    let l : Wait := .req (.rep (.ld ⟨3, 1, 6, false, 0⟩))
    let is (s : State) (k : OutKind) : Bool := (s.hw.takeRsp 0 4).isSome && ((s.hw.core 0).out 4).any fun o => o.kind == k
    is (asked .read l rsp) .read = true ∧ is (asked .post (.req .fence) (rsp (some 4))) .post = true ∧
    (let s := asked .read (.req (.tile .load ⟨1, 1, 2⟩ 0 cfgBf 0)) rsp;
      is s .read = true ∧ (s.hw.thr 0 0).pend = some (.tile .load ⟨1, 1, 2⟩ 0 cfgBf 0)) ∧
    (let s := asked (.fill 0x220) l rsp;
      is s (.fill 0x220) = true ∧ (s.hw.core 0).dcache = [] ∧ (s.hw.takeRsp 0 4).any (fun p => p.1.err.isNone) = true) ∧
    is (asked (.fill 0x220) l (rsp (some 3))) (.fill 0x220) = true ∧
    (let s := filled;
      is s (.fill 0x220) = true ∧ (s.hw.core 0).wbacks = 7 ∧ (s.hw.core 0).fillWay 0x220 0 = 0 ∧
      ((s.hw.core 0).dcache.find? fun l => decide (l.pline % 128 = 0x220 % 128) && l.way == 0).any (fun l => l.dirty != 0) = true) ∧
    (let s := asked .read l;
      s.hw.reqs = [] ∧ s.hw.rsps = [] ∧ s.hw.mems = [] ∧
      (s.hw.cores.find? fun p => (p.2.out 4).isSome) = some (0, s.hw.core 0) ∧ ((s.hw.core 0).out 4).isSome = true) := by
  decide +kernel

/-! ### The cadence and DMA -/

/-- Die 2 with a beat due, dies 0 and 3 with a request `u`, 3 beats pending; `ctl` is CAD_START. -/
def cad (ctl : W32) (hold : List DieId := []) (due : Bool := true) (pend : Nat := 3) (u : BeatSrc := .core 5) : Hw :=
  { k0 := { pendingBeats := pend, rootCount := 7, hold := hold }
    dies := [(0, { sync := true, count := 7, beatReqs := [u] }), (2, { sync := true, count := 7, due := if due then [8] else [] }), (3, { sync := true, count := 7, beatReqs := [u] })]
    regs := [(0x190, 0x80000010), (key 39 cadBlk 0x040, ctl)] }
/-- The starter is the firmware, a core or a channel whose request waits at its die, and another; 65,535, 65,534 and 0 beats pending; the fields of CAD_EVT
at 15, 16, 30 and 31; a leaf that rejoins from a neighbour and from the root. -/
theorem witness_CadenceBeats :
    fld ((cad 0).pg 39 cadBlk 0x040) 31 30 = 0 ∧ (cad 0 [] true 65534).k0.pendingBeats < 65535 ∧
    fld ((cad 0x40000005).pg 39 cadBlk 0x040) 31 30 = 1 ∧ fld ((cad 0x40000005).pg 39 cadBlk 0x040) 15 0 = (5 : CoreId).val ∧
    65535 ≤ (cad 0 [] true 65535).k0.pendingBeats ∧ ((cad 0x40000005).die 0).beatReqs = [.core 5] ∧ dieOf (5 : CoreId).val = (0 : DieId).val ∧
    ((cad 0x40000005).die 3).beatReqs = [.core 5] ∧ ¬(fld ((cad 0x40000006).pg 39 cadBlk 0x040) 15 0 = (5 : CoreId).val) ∧
    (let h := cad 0x80030005 [] true 3 (.chan (.core 5 3)); fld (h.pg 39 cadBlk 0x040) 31 29 = 4 ∧ fld (h.pg 39 cadBlk 0x040) 15 0 = 5 ∧
      fld (h.pg 39 cadBlk 0x040) 20 16 = 3 ∧ (h.die 0).beatReqs = [.chan (.core 5 3)]) ∧
    (let h := cad 0xA01F0300 [] true 3 (.chan (.hub 3 31)); fld (h.pg 39 cadBlk 0x040) 31 29 = 5 ∧ fld (h.pg 39 cadBlk 0x040) 15 0 = 3 * 256 ∧
      fld (h.pg 39 cadBlk 0x040) 20 16 = 31 ∧ (h.die 3).beatReqs = [.chan (.hub 3 31)]) ∧
    (cad 0).launchDue = false ∧ (cad 0).k0.pendingBeats ≠ 0 ∧ (cad 0).k0.hold = [] ∧ (cad 0).seqSt ≠ 4 ∧
    ((cad 0).die 2).due = [8] ∧ (cad 0).lagging 8 = false ∧ (cad 0).cores = [] ∧ (cad 0).engines = [] ∧
    (cad 0).svcStaged 2 = [] ∧ (cad 0).shut 0 0 = false ∧ (cad 0).awake 0 = true ∧ (cad 0).noneHeld 0 = false ∧
    ¬(16 ≤ fld (0x8000000F : W32) 4 0) ∧ 16 ≤ fld (0x80000010 : W32) 4 0 ∧ fld (0x8000001E : W32) 4 0 ≤ 30 ∧
    ¬(fld (0x8000001F : W32) 4 0 ≤ 30) ∧
    (cad 0 [4] false).k0.hold.contains 4 = true ∧ (∀ p ∈ (cad 0 [4] false).dies, p.2.due = []) ∧ ((cad 0 [4] false).die 2).sync = true ∧
    (let h : Hw := { k0 := { hold := [4] } }; ∀ e : DieId, (h.die e.val).sync = false) := by decide +kernel

def chA : ChanId := .core 0 0
/-- An instruction of a channel program (R314). -/
def dins (w0 w1 q1 q2 : Nat) (w6 : Nat := 0) : List Byte :=
  leBytes 4 w0 ++ leBytes 4 w1 ++ leBytes 8 q1 ++ leBytes 8 q2 ++ leBytes 4 w6 ++ leBytes 4 0
/-- Slot 0 of core 0, supervisor and READY before the instruction `bs` at index 1. -/
def dma (bs : List Byte) (x : Chan := {}) (k : Core := {}) (regs : Tab W32 := []) : State :=
  on thr0 { k with lmem := lm 0x1020 bs ++ lm 0x2000 [1, 2, 3, 4, 5, 6, 7, 8] }
    { regs := regs, chans := [(0, { x with state := .ready, priv := true, prog := 0x1000, index := 1 })] }
/-- The channel fetches `bs`, and `p` holds of the hardware behind the fetch. -/
def fetched (s : State) (ch : ChanId) (bs : List Byte) (p : Hw → Bool) : Bool :=
  (s.hw.ch ch).state == .ready && s.hw.dmaTurn ch && s.hw.chAwake ch && dKnown bs && !s.hw.unserved ch bs &&
    anyOk (s.hw.dmaFetch ch).2 (fun b => b == bs) && p ((s.hw.dmaFetch ch).1.dmaCur ch)
def runs (bs : List Byte) (p : Hw → Bool) (x : Chan := {}) (k : Core := {}) (regs : Tab W32 := []) : Bool :=
  fetched (dma bs x k regs) chA bs p
/-- The same of channel 4 of die 0's hub, whose program is in core 0. -/
def hubRuns (bs : List Byte) (p : Hw → Bool) (e : CEnt := {}) (regs : Tab W32 := []) : Bool :=
  fetched (on thr0 { lmem := lm 0x1020 bs ++ lm 0x2000 [1, 2, 3, 4, 5, 6, 7, 8] }
    { regs := regs, chans := [(0x100004, { state := .ready, priv := true, prog := 0x1000, index := 1, cred := e })] }) (.hub 0 4) bs p
def overlaps (m : Move) : Bool := (List.range m.rows).any fun (r : Nat) => m.touched (m.src.shift (r * m.ss)) m.rb
theorem witness_DmaPrograms :
    (let mv := dins 0x10600000 16 0x2000 0x3000;
      runs mv (fun h => anyOk (h.moveOf chA mv) fun m => !m.tr && m.conv == 0 && m.rows == 1 && m.src == .loc 0 0x2000 &&
        m.dst == .loc 0 0x3000 && !m.touched m.src m.rb && 0x3000 + m.rb ≤ localTop && (h.core 0).lmErr 0x2000 m.rb < 2 &&
        (h.ch chA).priv && ((h.lmScrub 0 0x2000 m.rb).ch chA).priv && (h.lmScrub 0 0x2000 m.rb).guardTop 0 == h.guardTop 0) = true) ∧
    (let mv := dins 0x10600001 16 0x2000 0x3000 16;
      runs mv (fun h => anyOk (h.moveOf chA mv) fun m => !overlaps m && !m.tr && (h.moveRows chA m (List.range m.rows)).2.isNone) = true ∧
      hubRuns mv (fun h => anyOk (h.moveOf (.hub 0 4) mv) fun m => !overlaps m && (h.moveRows (.hub 0 4) m (List.range m.rows)).2.isNone) {}
        [(key 0 0x101 (0x200 + 32 * 4 + 0x1C), 16)] = true) ∧
    (let mv := dins 0x10F80001 16 0x2000 0x3000 16;
      runs mv (fun h => anyOk (h.moveOf chA mv) fun m => !overlaps m && m.tr && match h.readRows chA m (List.range m.rows) [] with
        | (g, .ok read) => (g.writeRows chA m ((List.range m.elems).map fun c => (c, transRow m.conv m.es c read))).2.isNone
        | _ => false) = true) ∧
    (let mv := dins 0x10600000 16 0x2000 0x2008;
      runs mv (fun h => anyOk (h.moveOf chA mv) fun m => overlaps m && let parts := List.range m.parts; let g := (h.choose 2).2
        (Hw.overlapGo g chA m parts g).2.isNone && (Hw.overlapGo g chA m parts.reverse g).2.isNone) = true) ∧
    (let mv := dins 0x10600000 17 0x2000 0x3000; runs mv (fun h => !(h.moveOf chA mv).isOk) = true) ∧
    runs (dins 0x20000000 1 0 0) (fun h => 1 ≤ (h.ch chA).i.getD 0 0 + 1 && 0 < (h.ch chA).index) = true ∧
    runs (dins 0x20000000 65535 0 0) (fun h => (h.ch chA).i.getD 0 0 + 1 < 65535 && 0 < (h.ch chA).index) = true := by decide +kernel
/-- Each WAIT with its condition met and not. -/
theorem witness_DmaPrograms_2 :
    runs (dins 0x30000003 0 0 0) (fun h => h.chEv chA (chanNo chA) &&& 3 == 0) = true ∧
    runs (dins 0x30000003 0 0 0) (fun h => h.chEv chA (chanNo chA) &&& 3 != 0) {} {} [(0x214, 1)] = true ∧
    runs (dins 0x31000000 0 0 0) (fun h => ((h.die (chanDie chA)).count - 0).toNat < 2 ^ 47) = true ∧
    runs (dins 0x31000000 0 1 0) (fun h => 2 ^ 47 ≤ ((h.die (chanDie chA)).count - 1).toNat) = true ∧
    runs (dins 0x32000000 0 0 0) (fun h => (h.chCnt chA 0 - 0).toNat < 2 ^ 31) = true ∧
    runs (dins 0x32070000 0 1 0) (fun h => 2 ^ 31 ≤ (h.chCnt chA 7 - 1).toNat) = true ∧
    runs (dins 0x33000000 0 0 0) (fun h => ((h.ch chA).timer - 0).toNat < 2 ^ 31) = true ∧
    runs (dins 0x33000000 0 1 0) (fun h => 2 ^ 31 ≤ ((h.ch chA).timer - 1).toNat) = true := by decide +kernel
def sends (p : CRes → Bool) (h : Hw) (bs : List Byte) : Bool :=
  anyOk (h.signalMessage chA bs).2 fun m => p ((h.signalMessage chA bs).1.spend 0 m.dest m.ring m.n)
def hubSends (e : CEnt) (p : CRes → Bool) : Bool :=
  let b := dins 0x42000000 0 0x2000 0x700010101
  hubRuns b (fun h => anyOk (h.signalMessage (.hub 0 4) b).2 fun m =>
    p ((h.signalMessage (.hub 0 4) b).1.hubSpend (.hub 0 4) m.dest m.ring m.n)) e
def chained (h : Hw) (n : Nat) : Bool :=
  chStartMode (h.chCtl (chSib chA n)) == 1 && chainSrc chA (h.chCtl (chSib chA n)) == chanNo chA
/-- Each SIGNAL: events of the own and of another core, CNT, MSG with and without credit, BEAT, CHEV; END, and END with a chained start;
of a slot and of a hub's channel. -/
theorem witness_DmaPrograms_3 :
    (let b := dins 0x40000000 0 0x95000000 0; signalOk b && eventHandle (dq b 8) && fld (dq b 8) 15 0 == 0 && runs b fun _ => true) = true ∧
    (let b := dins 0x40000000 0 0x95000001 0; signalOk b && eventHandle (dq b 8) && fld (dq b 8) 15 0 == 1 && runs b fun _ => true) = true ∧
    (let b := dins 0x40000000 0 0x95000001 0; hubRuns b fun _ => true) = true ∧
    (let b := dins 0x41000000 0 (regBase + 0x101FC) 5;
      signalOk b && runs b fun h => anyOk (h.dmaXlate chA .write (regBase + 0x101FC)) fun p => p == regBase + 16 * 2 ^ 12 + 0x1E0 + 4 * 7 && h.awake 0) = true ∧
    (let b := dins 0x41000000 0 (regBase + 0x1010FC) 5;
      hubRuns b fun h => anyOk (h.dmaXlate (.hub 0 4) .write (regBase + 0x1010FC)) fun p => p == regBase + 0x101 * 2 ^ 12 + 0x0C0 + 4 * 15 && h.awake 0) = true ∧
    (let b := dins 0x42000000 0 0x2000 0x700010101; signalOk b && runs b fun h => sends (fun r => match r with | .wait _ => true | _ => false) h b) = true ∧
    (let b := dins 0x42000000 0 0x2000 0x700010101;
      signalOk b && runs b (fun h => sends (fun r => match r with | .spent _ => true | _ => false) h b) {} { credits := cr 3 }) = true ∧
    hubSends { dest := 0x0101, ring := 1, credits := 9, state := .held } (fun r => match r with | .spent _ => true | _ => false) = true ∧
    hubSends { dest := 0x0101, ring := 2, state := .req } (fun r => match r with | .again _ => true | _ => false) = true ∧
    hubSends {} (fun r => match r with | .wait _ => true | _ => false) = true ∧
    (let b := dins 0x43000000 0 0 0; signalOk b && runs b fun _ => true) = true ∧
    (let b := dins 0x44000005 0 3 0; signalOk b && decide ((dq b 8).toNat < chCount chA) && runs b fun _ => true) = true ∧
    (let b := dins 0xF0000000 0 0 0; (leNat (sub b 0 32) == 0xF0000000) && runs b fun h => (chEvent chA (h.chCtl chA)).isNone &&
      (List.range (chCount chA)).all fun n => chStartMode (h.chCtl (chSib chA n)) != 1) = true ∧
    runs (dins 0xF0000000 0 0 0) (fun h => chained h 3 && (List.range 3).all fun n => !chained h n) {} {} [(0x260, 2 ^ 28)] = true ∧
    hubRuns (dins 0xF0000000 0 0 0) (fun h => (List.range (chCount (.hub 0 4))).all fun n => chStartMode (h.chCtl (chSib (.hub 0 4) n)) != 1) = true := by
  decide +kernel

/-- Core 0's slot 0 as `x`. -/
def slot (x : Chan) (l : List TWord := []) (h : Hw := {}) : State := on (gs thr0 l) {} { h with chans := [(0, x)] }
theorem witness_DmaChannels :
    (let s := slot {} [L 0x1020, I 3];
      s.hw.slotReady 0 0 4 = true ∧ (s.reg 0 0 1).tag = .laddr ∧ (s.reg 0 0 1).val.toNat % 32 = 0 ∧ (s.reg 0 0 2).tag.isInt = true ∧
      (s.reg 0 0 2).val.toNat = (3 : Fin 4).val ∧ ((s.hw.begun 0 0).chSoft (.core 0 3) (s.super 0 0) 0 0x1020).isSome = true ∧
      s.super 0 0 = true ∧ (s.hw.ch chA).idles = true ∧ s.hw.shut 0 0 = false ∧ s.hw.awake 0 = true ∧ s.hw.noneHeld 0 = false ∧
      s.hw.svc 3 0x101 = 0 ∧ (∀ n : Fin 32, (s.hw.ch (.hub 3 n)).idles = true)) ∧
    (let s := slot { state := .ready } [L 0x1020, I 0]; s.hw.slotReady 0 0 4 = true ∧ (s.hw.ch chA).idles = false ∧ (s.hw.ch chA).priv = false ∧
      (s.hw.begun 0 0).ch chA = s.hw.ch chA) ∧
    (let s := slot { state := .killing, index := 300, bytes := 40 };
      (s.hw.ch chA).state = .killing ∧ (match (s.hw.dmaFetch chA).2 with | .error e => e == 1 | _ => false) = true ∧
      (s.hw.ch chA).cred.state = .empty) ∧
    (let s := slot { started := true } [] { regs := [(0x200, 2 * 2 ^ 28), (0x210, 5)] };
      chStartMode (s.hw.chCtl chA) = 2 ∧ s.hw.chReg chA 0x10 ≠ 0 ∧ (s.hw.ch chA).started = true ∧
      (s.hw.chStart chA (s.hw.ch chA).swPriv (s.hw.ch chA).swOwner (s.hw.chProg chA)).isSome = true ∧ s.hw.chAwake chA = true) ∧
    ((slot { started := true, state := .wait } [] { regs := [(0x200, 2 * 2 ^ 28), (0x210, 5)] }).hw.ch chA).idles = false ∧
    (let s := slot { state := .killing, prog := 0x1000, index := 1 };
      (s.hw.ch chA).state = .killing ∧ s.hw.killedMove chA = none) ∧
    (let h : Hw := { chans := [(0x100000 + 3 * 32 + 4, { state := .run })] };
      h.shut 3 0x101 = false ∧ h.awake 3 = true ∧ (h.ch (.hub 3 4)).state = .run) ∧
    (let s := slot { state := .wait, wait := .beat 0 };
      (s.hw.ch chA).wait = .beat 0 ∧ s.hw.chAwake chA = true ∧ ((s.hw.die (chanDie chA)).count - 0).toNat < 2 ^ 47) ∧
    (let s := slot { state := .wait, wait := .cnt 7 0 }; (s.hw.ch chA).wait = .cnt 7 0 ∧ (s.hw.chCnt chA 7 - 0).toNat < 2 ^ 31) ∧
    (let s := slot { state := .wait, wait := .timer 0 }; (s.hw.ch chA).wait = .timer 0 ∧ ((s.hw.ch chA).timer - 0).toNat < 2 ^ 31) ∧
    (let s := slot { state := .wait, wait := .chev 5 } [] { regs := [(0x214, 4)] };
      (s.hw.ch chA).wait = .chev 5 ∧ s.hw.chEv chA (chanNo chA) &&& 5 ≠ 0) ∧
    ((slot { state := .wait, wait := .retry }).hw.ch chA).wait = .retry := by decide +kernel

/-! ### Jasper jobs and memory -/

/-- A descriptor with the fields `l`: offset, length and value (R247). -/
def job (l : List (Nat × Nat × Nat)) : List Byte :=
  ([(4, 2, 0x0101), (6, 2, 77)] ++ l).foldl (fun (b : List Byte) (x : Nat × Nat × Nat) =>
    (leBytes x.2.1 x.2.2).zipIdx.foldl (fun (b : List Byte) (y : Byte × Nat) => b.set (x.1 + y.2) y.1) b) (List.replicate 64 0)
def jmsg (d : List Byte) : Msg := { src := 1, dest := 0x1400, ring := 0, n := 2, tag := 9, bytes := List.replicate 64 0 ++ d }
/-- Engine 0, enabled, with the job `d` at the head of its ring, and 1.0 in 64 words of GDDR7. -/
def js (d : List Byte) (x : Jasper := {}) : State :=
  { hw := { regs := [(key 20 0 0x040, 1)], engines := [(0, x)], gddr := lm 0 ((List.replicate 64 (leBytes 4 0x3F800000)).flatten)
            rings := [(0x1400 * 4, { recs := [{ start := 0, len := 2, msg := some (jmsg d) }] })] } }
/-- A job that is offered, and whose check ends with `st`. -/
def starts (d : List Byte) (st : Nat := 0) : Bool :=
  let h := (js d).hw
  (h.jobHead 0 == some d) && !(h.eng 0).running && (h.engPg 0 0x040).getLsbD 0 && !h.jobWaits 0 d && h.awake (engDie 0) &&
    !h.dead (engDie 0) (engBlk 0) && h.jobCheck 0 d == st
def jGemv : List Byte :=
  job [(0, 4, 1), (0x18, 8, 0x80), (0x20, 8, 0x40), (0x30, 4, 16), (0x34, 4, 1), (0x38, 4, 32), (0x3C, 4, 1)]
def jAttn : List Byte :=
  job [(0, 4, 2), (0x18, 8, 0x40), (0x20, 8, 0x80), (0x30, 4, 64), (0x34, 4, 2), (0x38, 4, 0x3F800000), (0x3C, 4, 0x1020)]
def jGather : List Byte := job [(0, 4, 3), (0x18, 8, 0x400), (0x28, 4, 64), (0x30, 4, 2), (0x34, 4, 4), (0x38, 4, 64)]
def jReduce : List Byte := job [(0, 4, 4), (0x18, 4, 64), (0x30, 4, 16), (0x34, 4, 2)]
/-- A reduction that delivers its result to memory. -/
def jRedMem : List Byte := job [(0, 4, 4 + 2 ^ 10), (0x18, 4, 64), (0x20, 8, 0x800), (0x30, 4, 16), (0x34, 4, 2)]
def jCopy : List Byte := job [(0, 4, 5), (0x18, 8, 0x400), (0x20, 8, 64)]
def jFill : List Byte := job [(0, 4, 6), (0x18, 8, 5), (0x20, 8, 64)]
/-- Six jobs that may start, their operands read, and jobs that are refused with statuses 1 and 2. -/
theorem witness_JasperJobs :
    starts jGemv = true ∧ starts jAttn = true ∧ starts jGather = true ∧ starts jReduce = true ∧ starts jCopy = true ∧
    starts jFill = true ∧ starts jRedMem = true ∧ toMem jRedMem = true ∧ jtype jRedMem = 4 ∧
    (∀ ty ∈ [1, 2, 3, 4, 5, 6], starts (job [(0, 4, ty), (0x0E, 2, 1)]) 1 = true) ∧
    starts (job [(0, 4, 6), (0x10, 8, cxlBase), (0x18, 8, 5), (0x20, 8, 64)]) 2 = true := by decide +kernel
theorem witness_JasperJobs_2 :
    let al (d : List Byte) := (js d).hw.streamAlloc 0 d
    (let a := (js jGemv).hw.engReads 0 true [(0x40, 64)] [];
      let b := a.1.engReads 0 (al jGemv) [(0, 16)] [];
      a.2.isOk = true ∧ b.2.isOk = true ∧ (b.1.engReads 0 (al jGemv) [(0x80, 1)] []).2.isOk = true) ∧
    ((js jReduce).hw.engReads 0 (al jReduce) [(0, 64), (64, 64)] []).2.isOk = true ∧ reduceIn jReduce = 4 ∧
    (let a := (js jCopy).hw.engRead 0 (al jCopy) 0 64; a.2.isOk = true ∧ (a.1.engWrite 0 0x400 (List.replicate 64 1)).2 = 0) ∧
    ((js jRedMem).hw.engReads 0 (al jRedMem) [(0, 64), (64, 64)] []).2.isOk = true ∧
    (((js jRedMem).hw.engReads 0 (al jRedMem) [(0, 64), (64, 64)] []).1.engWrite 0 (outAddr jRedMem) (List.replicate 64 1)).2 = 0 ∧
    ((js jFill).hw.engWrite 0 0 (List.replicate 8 (sub jFill 0x18 8)).flatten).2 = 0 ∧ toMem jFill = false := by decide +kernel
theorem witness_JasperJobs_3 :
    (let a := (js jGather).hw.engRead 0 true 0x400 8;
      a.2.isOk = true ∧ a.1.homeRegion 0 (0, 64) = true ∧ a.1.streamAlloc 0 jGather = (js jGather).hw.streamAlloc 0 jGather ∧
      (a.1.engPrefix 0 ((js jGather).hw.streamAlloc 0 jGather) [(0, 64), (0, 64)] []).2.2 = 0) ∧
    ((js jAttn).hw.attnJob 0 jAttn).2.2 = 0 ∧
    (let d := job [(0, 4, 3), (0x18, 8, 0), (0x28, 4, 64), (0x30, 4, 1), (0x34, 4, 4), (0x38, 4, 64)];
      let a := (js d).hw.engRead 0 true 0 4;
      starts d = true ∧ anyOk a.2 (fun bs => decide (4 ≤ sgn 32 (leAt bs 0 4))) = true ∧
      (a.1.engPrefix 0 (a.1.streamAlloc 0 d) [] []).2 = ([], 0)) := by decide +kernel
def rp : Reply := { route := none, dest := 0x0101, ring := 1, tag := 7, bytes := [1, 2], n := 2 }
theorem witness_JasperJobs_4 :
    let ent (n : Nat) : Tab CEnt := [(0x0101 * 4 + 1, { dest := 0x0101, ring := 1, credits := n, state := .held })]
    ((js jFill { replies := [rp, rp] }).hw.eng 0).replies = [rp, rp] ∧ rp.route = none ∧
    (match tableSpend (ent 2) rp.dest rp.ring rp.n with | .ok _ => true | _ => false) = true ∧
    (match tableSpend (ent 1) rp.dest rp.ring rp.n with | .error e => e.2 != 0 | _ => false) = true ∧
    ((js jFill { replies := [{ rp with route := some 3 }] }).hw.eng 0).replies = [{ rp with route := some 3 }] ∧
    ((js jFill).hw.engPg 0 (0x060 + 4 * 3)).getLsbD 31 = false ∧
    (({ (js jFill).hw with regs := [(key 20 0 0x06C, 2 ^ 31)] } : Hw).engPg 0 (0x060 + 4 * 3)).getLsbD 31 = true ∧
    (js jFill).hw.shut (engDie 0) (engBlk 0) = false ∧ (js jFill).hw.awake (engDie 0) = true ∧
    (js jFill { running := true }).hw.jobHead 0 = some jFill := by decide +kernel

def mreq (w : Bool) (a len : Nat) (data : List (Nat × Byte) := []) : MReq :=
  { id := 3, core := 5, thread := 1, write := w, addr := a, len := len, data := data }
def mline (b : BitVec 2 := 0) : MLine := { line := 16, way := 3, bytes := List.replicate 128 7, dirty := false, bad := b }
/-- The request `r` at the memory die `x`, with four bytes of GDDR7 at 2,048. -/
def at20 (r : MReq) (x : MemDie := {}) (h : Hw := {}) : State :=
  { hw := { h with reqs := [r], mems := [(0, x)], gddr := lm 2048 [9, 8, 7, 6] } }
def served (s : State) (r : MReq) : Bool :=
  (s.hw.reqs.find? fun x => x.id == 3) == some r && !s.hw.blocked r && !s.hw.reqHeld r && r.id == 3
def rd : MReq := mreq false 2050 8
def wr2 : MReq := mreq true 2050 2 [(2050, 1), (2051, 2)]
def window : Combine := { line := 16, issued := true, joined := [rd] }
/-- A CXL device behind port 0. -/
def cxl (r : MReq) : State :=
  at20 r {} { regs := [(key 38 0x10 0x48, 4)], cxlPorts := [(0, { up := true, mapped := true, size := 4 })], cxlMem := [(4, 9)] }
/-- Reads that hit, miss, join a window and queue behind a held write; a page read; writes to a cached line. -/
theorem witness_MemoryAtItsHome :
    served (at20 rd { lines := [mline] }) rd = true ∧ rd.addr < cxlBase ∧
    (let h := (at20 rd { lines := [mline] }).hw;
      h.awake 20 = true ∧ h.home 16 = 0 ∧ (h.mem 0).find 16 = some mline ∧ (h.mem 0).combine 16 = none ∧
      (h.mem 0).poison.contains 16 = false ∧ h.lineDead 16 = false ∧ mline.bad = 0) ∧
    served (at20 rd) rd = true ∧ (at20 rd).hw.misses 16 = true ∧
    served (at20 rd { combines := [window] }) rd = true ∧ ((at20 rd { combines := [window] }).hw.mem 0).combine 16 = some window ∧
    served (at20 (mreq false (regBase + 0x40) 8)) (mreq false (regBase + 0x40) 8) = true ∧
    served (at20 wr2 { lines := [mline] }) wr2 = true ∧
    (let h := (at20 wr2 { lines := [mline], combines := [window] }).hw;
      h.chanReady 16 = true ∧ h.lineDead 16 = false ∧ wr2.poison = false ∧ (h.mem 0).combine 16 = some window ∧
      (h.mem 0).find 16 = some mline ∧ (h.mem 0).poison.contains 16 = false ∧ wr2.data.length ≠ 128) ∧
    (let w : Combine := { line := 16, issued := true, joined := [], held := [wr2] };
      served (at20 rd { combines := [w] }) rd = true ∧ ((at20 rd { combines := [w] }).hw.mem 0).combine 16 = some w) ∧
    (at20 (mreq false (regBase + 0x40) 8)).hw.awake (pageOf (regBase + 0x40)).1 = true := by decide +kernel
/-- No state of these has an error injection armed. -/
theorem witness_MemoryAtItsHome_3 (r : MReq) (x : MemDie) (h : Hw) (no : ∀ p ∈ h.regs, p.1 % 4096 ≠ 0x020) : (at20 r x h).hw.calm :=
  Hw.calm_of_regs no
theorem witness_MemoryAtItsHome_4 : (at20 rd { lines := [mline] }).hw.calm ∧ (cxl rd).hw.calm :=
  ⟨witness_MemoryAtItsHome_3 _ _ _ (by decide +kernel), witness_MemoryAtItsHome_3 _ _ _ (by decide +kernel)⟩
/-- CXL reads and writes, a fill, tracking, retraining, a flush, enumeration and a port that goes down. -/
theorem witness_MemoryAtItsHome_2 :
    let cw := mreq true cxlBase 128 ((List.range 128).map fun i => (cxlBase + i, 5))
    let cr := mreq false (cxlBase + 4) 8
    served (cxl cr) cr = true ∧ (cxl cr).hw.awake 38 = true ∧
    ((cxl cr).hw.cxlLoc 0).any (fun p => !(cxl cr).hw.cxlRefuses p.1 && !(cxl cr).hw.cxlPoison.contains (cxlKey p)) = true ∧
    served (cxl cw) cw = true ∧ cw.data.length = 128 ∧ cw.poison = false ∧
    (let h := (at20 rd { combines := [window] }).hw;
      (h.mem 0).combine 16 = some window ∧ window.issued = true ∧ window.joined = [rd] ∧ window.held = [] ∧ window.queued = [] ∧
      h.chanReady 16 = true ∧ h.lineDead 16 = false ∧ (h.mem 0).find 16 = none ∧ (h.mem 0).poison.contains 16 = false ∧ h.home 16 = 0) ∧
    (let h := (at20 rd {} { regs := [(key 20 0x10 0x40, 0x100)] }).hw;
      (h.mem 0).paused = false ∧ (h.mem 0).toTrack = some 0 ∧ (h.mem 0).chan 7 = .ready ∧ (h.mem 0).selfRefresh = false ∧
      h.fusedDie 20 = false ∧ fld (gddrPg h 0 0x040) 15 8 ≠ 0 ∧ (gddrPg h 0 0x040).setWidth 8 = 0#8) ∧
    ((at20 rd { chans := [(2, .tracking)] }).hw.mem 0).chan 2 = .tracking ∧
    (let h := (at20 rd { chans := [(2, .tracking)] } { regs := [(key 20 0x10 0x40, 32)] }).hw;
      (h.mem 0).chan 2 = .tracking ∧ (∀ n < 8, n ≠ 2 → (h.mem 0).chan n = .ready) ∧
      (gddrPg h 0 0x040).setWidth 8 = BitVec.ofNat 8 (2 ^ (5 : Fin 8).val)) ∧
    (let h := (at20 rd { chans := [(7, .retrain)] } { regs := [(key 20 0x10 0x40, 128)] }).hw;
      (h.mem 0).chan 7 = .retrain ∧ (gddrPg h 0 0x040).setWidth 8 = BitVec.ofNat 8 (2 ^ 7) ∧ (h.mem 0).combines = [] ∧ h.unitFused (0x100 + 4 * 3) = false) ∧
    ((at20 rd { lines := [{ mline with dirty := true }] }).hw.mem 0).lines.filter (·.dirty) = [{ mline with dirty := true }] ∧
    (cxl cr).hw.shut 38 0x010 = false ∧ ((cxl cr).hw.cxlPort 0).up = true := by decide +kernel

/-! ### The network -/

def ses : Session := { ss := [], transcript := [], peerSci := [], qpn := [], psn := 0 }
/-- A QP's words: state `st`, and W4 with 2 outstanding reads, retries 3, RNR retries 2. -/
def qw (st : Nat) (w4 : Nat := 2 ^ 27 + 3 * 2 ^ 24 + 2 * 2 ^ 21 + 9 * 2 ^ 16 + 2 * 2 ^ 5) : Tab W32 :=
  [(0, BitVec.ofNat 32 (st * 2 ^ 30)), (3, 7), (4, BitVec.ofNat 32 w4), (5, 0x01010001), (6, 77)]
/-- Network die 0 with QP 5 as `x` in an open session, port 0 up. -/
def net0 (x : Qp) (n : NetDie := {}) (h : Hw := {}) : State :=
  { hw := { h with k0 := { h.k0 with session := some ses }, ports := [(0, { up := true })], nets := [(0, { n with qps := [(5, x)] })] } }
/-- A work request `op` of `len` bytes for QP 5 (R343). -/
def wqe (op : Nat) (len : Nat := 8) : List Byte :=
  leBytes 4 (op + 2 ^ 8 + 3 * 2 ^ 16) ++ leBytes 4 5 ++ leBytes 8 (2 ^ 48 + 0x2000) ++ leBytes 8 0 ++
    leBytes 4 (if op = 4 then 0 else 9) ++ leBytes 4 len ++ leBytes 8 0 ++ leBytes 4 0x10101 ++ List.replicate 20 0
def wmsg (op : Nat) : Msg := { src := 1, dest := 0x2400, ring := 0, n := 2, tag := 1, bytes := List.replicate 64 0 ++ wqe op }
def posting (op : Nat) : State :=
  net0 { w := qw 1 } {}
    { rings := [(0x2400 * 4, { free := 10, occ := 2, recs := [{ start := 0, len := 2, msg := some (wmsg op) }] })] }
/-- The work request at the head of the ring is valid, its QP takes it, and its operand can be read. -/
def postable (op : Nat) : Bool :=
  let s := posting op
  let p := s.hw.parseWr ((wmsg op).bytes.drop 64)
  let h := s.hw.freed 0x2400 0 fun r => { r with free := r.free + 2, occ := r.occ - 2, recs := [] }
  let x := h.qp 0 5
  let g := h.updQp 0 5 fun x => { x with sq := [p.2] }
  s.hw.awake 36 && (s.hw.ring 0x2400 0).recs == [{ start := 0, len := 2, msg := some (wmsg op), pad := false }] && p.1 == 5 &&
    p.2.op == op && !p.2.bad && x.state == 1 && x.sq.isEmpty && x.cpls.isEmpty && !x.rnrWait && !p.2.fence &&
    (x.sent.filter Wr.reads).length < fld (x.word 4) 9 5 && p.2.acked == 0 && (p.2.reads || (g.netRead 0 5 p.2.laddr p.2.len).2.isOk)
def eight : List Byte := [1, 2, 3, 4, 5, 6, 7, 8]
def sent (op : Nat) : Wr := ((posting op).hw.parseWr (wqe op)).2
def acked (op : Nat) (r : Nat) (rn : Nat) : State := net0 { w := qw 1, sent := [sent op], retries := r, rnrs := rn }
theorem witness_NetworkRequester :
    postable 1 = true ∧ postable 2 = true ∧ postable 3 = true ∧ postable 4 = true ∧ postable 5 = true ∧
    (let s := acked 1 0 0; s.hw.qpLive 0 5 = true ∧ (s.hw.qp 0 5).sent = [sent 1] ∧ (sent 1).reads = false ∧ (s.hw.qp 0 5).sq = [] ∧
      (sent 1).acked < (sent 1).psns ∧ (sent 1).psns ≤ 2 ^ 20 ∧ (s.hw.qp 0 5).lastCut = none) ∧
    (∀ op ∈ [3, 5], let s := acked op 0 0; let w := sent op; s.hw.qpLive 0 5 = true ∧ w.reads = true ∧ w.acked + 1 = w.psns ∧
      (s.hw.netWrite 0 5 w.at (sub eight 0 (min 4096 w.left))).2 = none ∧ ((s.hw.netWrite 0 5 w.at (sub eight 0 8)).1.qp 0 5).sq = []) ∧
    (let x := (acked 1 3 2).hw.qp 0 5; x.state = 1 ∧ x.rnrWait = false ∧ fld (x.word 4) 26 24 ≤ x.retries ∧
      fld (x.word 4) 23 21 ≠ 7 ∧ fld (x.word 4) 23 21 ≤ x.rnrs) ∧
    (let x := (acked 3 2 1).hw.qp 0 5; x.retries < fld (x.word 4) 26 24 ∧ (sent 3).reads = true ∧ ¬(fld (x.word 4) 23 21 ≤ x.rnrs)) ∧
    (let x := (net0 { w := qw 1, rnrWait := true }).hw.qp 0 5; x.rnrWait = true ∧ x.sent = [] ∧ x.sq = []) := by decide +kernel
def cpl0 : Cpl := { status := 0, op := 1, wrId := 3, bytes := 8, val := 0, rring := 1, rcore := 0x101 }
def completing (n : Nat) : State :=
  net0 { w := qw 1, cpls := [cpl0] } { credits := [(0x0101 * 4 + 1, { dest := 0x0101, ring := 1, credits := n, state := .held })] }
/-- A completion with and without its credit; frames of every length class; a session with and without; a link that may
come up. -/
theorem witness_NetworkRequester_2 :
    ((completing 1).hw.qp 0 5).cpls = [cpl0] ∧ (completing 1).hw.awake 36 = true ∧
    ((completing 1).hw.netSpend 0 5 cpl0.rcore cpl0.rring 1).2 = true ∧ ((completing 0).hw.netSpend 0 5 cpl0.rcore cpl0.rring 1).2 = false ∧
    (let h := (net0 {}).hw; (h.port 0).up = true ∧ h.awake 36 = true ∧ (h.pg 36 0 0x020).getLsbD 31 = false ∧ h.sesOpen = true) ∧
    (({ } : Hw).sesOpen = false) ∧ (63 : Nat) < 64 ∧ ¬((64 : Nat) < 64 ∨ 4352 < (4352 : Nat)) ∧ 4352 < (4353 : Nat) ∧
    (let h : Hw := { (net0 {}).hw with ports := [(0, { up := true, rx := [(2, { w0 := 0x80010000, sci := 9, pn := 2 })] })] };
      h.macsec 0 ⟨9, 1, 3, true⟩ = some 2) ∧
    (let h : Hw := { regs := [(key 36 0 0x40, 1), (key 39 0x12 0x40, 2 ^ 28)] };
      h.shut 36 0 = false ∧ h.dead 36 0 = false ∧ (h.pg 36 0 0x040).getLsbD 0 = true ∧ h.svc 36 0 ≠ 2 ∧ h.awake 36 = true ∧
      h.seqSt = 1) := by decide +kernel
/-- A frame for another station, and a good one for this: whatever address the port has. -/
theorem witness_NetworkRequester_3 (m : BitVec 48) (f : Frame) :
    ({ f with destMac := m + 1 } : Frame).destMac ≠ m ∧ ({ f with destMac := m } : Frame).destMac = m :=
  ⟨by simp, rfl⟩

/-- A window of type `ty` at `base` with every right, and 16 units (R349). -/
def ww (ty : Nat) (evt : Nat := 0) : Tab W32 :=
  [(0, BitVec.ofNat 32 (2 ^ 31 + ty * 2 ^ 29 + 2 ^ 28 + 2 ^ 27 + 2 ^ 26)), (2, 0x2000), (4, 16), (5, BitVec.ofNat 32 evt)]
def wn (n : Nat := 0) (x : Qp := { w := qw 1 }) : State :=
  net0 x { wins := [(3, { w := ww 1 })], credits := [(0x0101 * 4 + 1, { dest := 0x0101, ring := 1, credits := n, state := .held })] }
def wreq (off : Nat := 8) (psn : Nat := 7) (k : Nat := 3) : WinReq := ⟨BitVec.ofNat 32 k, BitVec.ofNat 64 off, 8, BitVec.ofNat 24 psn⟩
def idle (s : State) : Bool :=
  s.hw.qpLive 0 5 && (s.hw.qp 0 5).msg.isNone && (s.hw.qp 0 5).deliver.isNone && (s.hw.qp 0 5).inq.isEmpty
/-- The QP is idle, and the request is the next one and admitted. -/
def admitted (op : WinOp) (r : WinReq) : Bool :=
  let h := wn.hw
  idle wn && h.psnAt 0 5 r.psn == .next && (h.winCheck 0 5 r 8 op).isNone && !h.winHeld 0 5 (h.win 0 3).w r.offset.toNat 8 &&
    fld r.rkey 9 0 == 3 && winType (h.win 0 3).w == 1 && decide (r.length ≤ 2 ^ 31)
def immSpends (s : State) : Bool :=
  let m := ((s.hw.taken 0 5 (.write wreq eight (some 99))).updWin 0 3 fun x => { x with busy := x.busy + 1 }).recvMsg 0 5 2 0 99 []
  ((m.1.updQp 0 5 fun x => { x with deliver := some { msg := m.2, win := some (3, (s.hw.win 0 3).w), psn := 7, off := 8, data := eight } }).netSpend
    0 5 m.2.dest m.2.ring m.2.n).2
def sendSpends (s : State) : Bool :=
  let m := (s.hw.taken 0 5 (.send 7 eight)).recvMsg 0 5 1 8 0 eight
  ((m.1.updQp 0 5 fun x => { x with deliver := some { msg := m.2, win := none, psn := 7, data := eight } }).netSpend 0 5 m.2.dest m.2.ring m.2.n).2
/-- Admitted requests of every kind, the first and the last offset of the window; credit that suffices and not. -/
theorem witness_NetworkResponder :
    admitted .write (wreq 0) = true ∧ admitted .writeImm wreq = true ∧ admitted .read (wreq 0x3F8) = true ∧ admitted .fadd wreq = true ∧
    immSpends (wn 16) = true ∧ immSpends wn = false ∧ sendSpends (wn 16) = true ∧ sendSpends wn = false ∧
    eight.length = 8 ∧ eight.length ≤ 992 ∧
    ((wn.hw.taken 0 5 (.read wreq)).winRead 0 5 (wn.hw.win 0 3).w 8 8).2.isOk = true ∧
    ((wn.hw.taken 0 5 (.fadd wreq 1)).locRead (winSite (ww 1)) (winBase (ww 1) + 8) 8).2.isOk = true := by
  decide +kernel
/-- Requests that a check refuses with two codes, ahead of the expected PSN, duplicates, and messages that end. -/
theorem witness_NetworkResponder_2 :
    (let h := wn.hw; idle wn = true ∧ h.psnAt 0 5 7 = .next ∧
      (h.winCheck 0 5 (wreq 1024) 8 .write).isSome = true ∧ (h.winCheck 0 5 (wreq 8 7 0x403) 8 .read).isSome = true ∧
      h.winCheck 0 5 (wreq 9) 8 .fadd = some 1 ∧ h.psnAt 0 5 9 = .ahead ∧ h.psnAt 0 5 5 = .duplicate ∧
      (h.winCheck 0 5 (wreq 1024) 8 .writeImm).isSome = true) ∧
    (let x : Qp := { w := qw 1, savedAtomic := [(5, 3)] };
      idle (wn 0 x) = true ∧ (wn 0 x).hw.psnAt 0 5 5 = .duplicate ∧ look ((wn 0 x).hw.qp 0 5).savedAtomic (5 : BitVec 24).toNat = some 3) ∧
    992 < (List.replicate 993 (0 : Byte)).length ∧
    (let s := wn 0 { w := qw 1, msg := some { win := 3, w := ww 1, imm := none, psn := some 6 } };
      (s.hw.qp 0 5).msg = some { win := 3, w := ww 1, imm := none, psn := some 6 } ∧ (s.hw.qp 0 5).inq = [] ∧ s.hw.qpLive 0 5 = true ∧
      winType (ww 1) = 1 ∧ (lookD (ww 1) 5 0).getLsbD 31 = false ∧ winType (ww 2) ≠ 1) ∧
    (let x : Held := { msg := normalMsg 1 2 0 1 3 [], win := none, psn := 7, data := eight };
      let s := wn 0 { w := qw 1, deliver := some x };
      (s.hw.qp 0 5).deliver = some x ∧ (s.hw.qp 0 5).inq = [] ∧ x.win = none ∧ s.hw.qpLive 0 5 = true) := by decide +kernel

/-- A message of `n` bytes, its byte 8 as `b`. -/
def att (n : Nat) (b : Byte := 0) : AttMsg := ⟨1, 2, 3, 4, false, 9, n, 0, (List.replicate n 0).set 8 b⟩
def tables (st : Nat) (w4 : Nat := 2 ^ 27 + 2 ^ 5) (peer : W32 := 0x80000000) : State :=
  net0 { w := qw st w4 } { peers := [(0, [(0, peer)])] }
    { regs := [(key 36 0 0xC0, 4), (key 36 0x11 0x40, 3), (key 36 0x12 0x40, 3), (key 36 0x13 0x40, 5)] }
/-- QPs in RESET with legal words at the ends of their ranges and with illegal ones, and in RTS; tables selected. -/
theorem witness_TablesAndSessions :
    (let h := (tables 0).hw; h.shut 36 0x013 = false ∧ h.awake 36 = true ∧ h.qpSel 0 = 5 ∧ (h.qp 0 5).state = 0 ∧
      (lookD (h.peer 0 (fld ((h.qp 0 5).word 0) 13 0)) 0 0).getLsbD 31 = true ∧ h.fused 36 (h.qp 0 5).port = false ∧ h.svc 36 (h.qp 0 5).port ≠ 1 ∧
      fld ((h.qp 0 5).word 4) 31 27 ≠ 0 ∧ fld ((h.qp 0 5).word 4) 9 5 = 1 ∧ (h.qp 0 5).deliver = none) ∧
    (let h := (tables 0 (2 ^ 27 + 16 * 2 ^ 5)).hw; fld ((h.qp 0 5).word 4) 9 5 = 16) ∧
    (let h := (tables 0 (2 ^ 27 + 17 * 2 ^ 5)).hw; ¬(fld ((h.qp 0 5).word 4) 9 5 ≤ 16)) ∧
    ((tables 1).hw.qp 0 5).state ≠ 0 ∧
    (let h : Hw := { (tables 0).hw with regs := put (tables 0).hw.regs (key 36 0 0x24) 1 }; h.svc 36 (h.qp 0 5).port = 1 ∧ h.shut 36 0x013 = false) ∧
    (let h : Hw := { (net0 { w := [(0, 3 * 2 ^ 28)] }).hw with variant := .uv40 }; h.fused 36 (h.qp 0 5).port = true) ∧
    (lookD ((tables 0 0 0).hw.peer 0 (fld (((tables 0 0 0).hw.qp 0 5).word 0) 13 0)) 0 0).getLsbD 31 = false ∧
    (let h : Hw := { (tables 0).hw with nets := [(0, { winStaged := [(2, 0x2000), (4, 16)] })] };
      let w (v : W32) := (h.net 0).winStaged.foldl (fun t p => put t p.1 p.2) (put (h.win 0 3).w 0 (setBit v 31 true &&& 0xFE3FFFFF));
      h.winRefused (w 0x20000000) = false ∧ h.winRefused (w 0x60000000) = true) ∧
    (tables 0).hw.shut 36 0x011 = false ∧ (tables 0).hw.shut 36 0x012 = false ∧ (tables 0).hw.shut 36 0 = false ∧
    (tables 0).hw.sesOpen = true ∧ (tables 0).hw.msaSel 0 ≠ 0 ∧ (net0 {}).hw.msaSel 0 = 0 ∧
    ({} : Hw).sesOpen = false := by decide +kernel
def attOk (h : Hw) (n : Nat) (b : Byte := 0) : Bool :=
  h.attOpen 0 && h.k0.partials.isEmpty && (att n b).offset == 0 && (att n b).data.length == (att n b).total && (att n b).total ≤ 4096
/-- The 64th and the 65th request of a second; messages of 0, 63, 64, 0x67F and 0x680 bytes, signed and not; a module that is busy,
one with an owner, and one whose session may open. -/
theorem witness_TablesAndSessions_2 :
    let module (k : K0) (st : Nat := 1) : Hw := { ports := [(0, { up := true })], regs := [(key 39 0x12 0x40, BitVec.ofNat 32 (st * 2 ^ 28))], k0 := k }
    let ready (n : Nat) : Hw := module { served := List.replicate n 0, decaps := [⟨0, [], []⟩] }
    let idle (h : Hw) : Bool := !h.sesOpen && !h.k0.closing && h.seqSt != 0
    let named (h : Hw) := h.k0.decaps.find? fun x => x.reportId == BitVec.ofNat 64 (leAt (att 0x680).data 0 8)
    let signed (n : Nat) (b : Byte) : Bool := (sw (att n b).data 8).getLsbD 0
    attOk (ready 63) 64 = true ∧ (((ready 63).k0.served.filter fun t => decide ((ready 63).us < t + 1000000)).length < 64) ∧
    attOk (ready 64) 64 = true ∧ 64 ≤ ((ready 64).k0.served.filter fun t => decide ((ready 64).us < t + 1000000)).length ∧
    attOk (ready 0) 63 = true ∧ attOk (ready 0) 0 = true ∧ (att 0).data = [] ∧ attOk (tables 0).hw 0 = true ∧
    attOk (module {} 0) 0 = true ∧ (module {} 0).seqSt = 0 ∧ attOk (module { closing := true }) 0 = true ∧
    attOk (ready 0) 0x680 = true ∧ idle (ready 0) = true ∧ (ready 0).k0.owner = none ∧ signed 0x680 0 = false ∧
    named (ready 0) = some ⟨0, [], []⟩ ∧ attOk (ready 0) 0x67F = true ∧ signed 0x67F 0 = false ∧ (att 0x67F).data.length ≠ 0x680 ∧
    attOk (ready 0) 0x680 1 = true ∧ signed 0x680 1 = true ∧ (att 0x680 1).data.length ≠ 8883 ∧
    attOk (module {}) 0x680 = true ∧ idle (module {}) = true ∧ named (module {}) = none ∧
    (let h := module { owner := some [1], decaps := [⟨0, [], []⟩] };
      attOk h 0x680 = true ∧ idle h = true ∧ (named h).isSome = true ∧ h.k0.owner.isSome = true) ∧
    (let k : K0 := { closing := true, partials := [⟨1, 2, 3, 4, [5]⟩] }; k.closing = true ∧ ⟨1, 2, 3, 4, [5]⟩ ∈ k.partials) ∧
    (ready 0).shut 39 0x010 = false ∧ (ready 0).shut 39 0x011 = false ∧ (ready 0).awake 39 = true := by decide +kernel

/-! ### Bring-up, resets, power states -/

/-- The sequencer in state `st`, step `step` and heat `heat` (R388). -/
def sq (st step heat : Nat) (h : Hw := {}) : Hw :=
  { h with powered := true, regs := put h.regs (key 39 0x12 0x40) (BitVec.ofNat 32 (st * 2 ^ 28 + step * 2 ^ 24 + heat)) }
def crc0 : W32 := crc32c (List.replicate 64 0)
/-- A core with the boot record `n`, `crc` in its local memory and 64 zero bytes as its image. -/
def booting (crc : Nat) (r : Tab W32 := []) : Hw :=
  { regs := r, cores := [(0, { lmem := lm 0 (leBytes 4 0x544C4E31 ++ leBytes 4 64 ++ leBytes 4 crc) })] }
/-- Every step, first and last heats, a site without power-good, and images that are accepted, rejected and missing. -/
theorem witness_BringUp :
    (sq 0 1 0).powered = true ∧ (sq 0 1 0).seqSt = 0 ∧ (sq 0 1 0).seqStep = 1 ∧ (sq 0 2 0).seqStep = 2 ∧ (sq 0 3 0).seqStep = 3 ∧
    (sq 0 5 19).seqStep = 5 ∧ (sq 0 5 19).heat = 19 ∧ (sq 0 7 0).seqStep = 7 ∧ (sq 0 8 0).seqStep = 8 ∧ (sq 0 8 0).k0.srt.length ≤ 512 ∧
    (sq 0 9 0).seqStep = 9 ∧ (sq 0 5 31).heating = true ∧ (sq 0 5 31).heat = 31 ∧ (sq 0 5 18).heat = 19 - 1 ∧
    (let h := sq 0 5 0 { sites := [(20, { powered := true })] };
      h.heating = true ∧ siteIx 20 % 20 = h.heat ∧ (h.site 20).powered = true ∧ h.goneSite 20 = false) ∧
    (booting crc0.toNat).boot 0 = 0 ∧ (booting crc0.toNat).goneSite 0 = false ∧
    (booting crc0.toNat).pwr 0 ≠ 5 ∧ ((booting crc0.toNat).site 0).awaits = false ∧
    (∀ st ∈ [0, 1], ∀ n ∈ [0, 1, 2], let h := sq st 6 0 { sites := [(0, { awaits := true, sendings := n })] };
      h.boot 0 = 0 ∧ h.pwr 0 ≠ 5 ∧ h.goneSite 0 = false ∧ (h.core 0).record.1 = false ∧ (h.site 0).awaits = true ∧ h.seqSt = st ∧
        (h.site 0).sendings = n) ∧
    ((booting crc0.toNat).core 0).record = (true, some (64, crc0)) ∧ ((booting crc0.toNat).core 0).imageOk 64 crc0 = true ∧
    ((booting 5).core 0).record = (true, some (64, 5)) ∧ ((booting 5).core 0).imageOk 64 5 = false ∧
    (let h : Hw := { regs := [(0x28C, 4), (0x294, 64)] }; h.boot 0 = 4 ∧ (h.core 0).record.1 = false ∧ h.cpg 0 0x294 ≠ 0 ∧
      h.shut 0 0 = false ∧ h.awake 0 = true) ∧
    (let h : Hw := {}; h.svc 0 0 = 0 ∧ h.dead 0 0 = false ∧ kindOf 0 0 = some .core ∧ Kind.core.can = true ∧
      ((kindOf 39 0x12).any fun k => !k.can) = true ∧ h.shut 39 0x12 = false) := by decide +kernel
/-- A module in which every site is DEAD waits for no image; so no core of it runs or asks for power. -/
def deadSites : Tab Site := (List.range 5120).map fun c => (c, { st := .dead })
theorem look_map {α : Type} (f : Nat → α) (l : List Nat) (c : Nat) (m : c ∈ l) : look (l.map fun c => (c, f c)) c = some (f c) := by
  induction l with
  | nil => simp at m
  | cons a l ih =>
    by_cases e : c = a
    · simp [look, e]
    · simp [look, e, ih (by simpa [e] using m)]
theorem witness_BringUp_2 : ∀ c : CoreId, (sq 0 6 0 { sites := deadSites }).goneSite c.val = true := by
  intro c
  have e : look deadSites c.val = some ({ st := .dead } : Site) := look_map (fun _ => ({ st := .dead } : Site)) _ _ (List.mem_range.2 c.isLt)
  simp [Hw.goneSite, Hw.site, sq, lookD, e]
/-- Neither slot of an empty flash holds images, whatever the vendor's key is; what an image that verifies looks like no reader of the
model can say, since the signature check is a free choice. -/
theorem witness_BringUp_3 (x : Bool) : ∃ e, ((sq 0 2 0).verifyKinds [1, 2, 3] (slotBase x) []).2 = .error e := by
  have v : ∃ e, (sq 0 2 0).verifyImage 1 (slotBase x) = .error e := by
    unfold Hw.verifyImage
    have bad : leAt ((sq 0 2 0).k0.flashRead (slotBase x) 0x1400) 0 4 ≠ 1 := by cases x <;> decide +kernel
    simp only [bad, ne_eq, not_false_eq_true, true_or, if_true]
    split <;> exact ⟨_, rfl⟩
  obtain ⟨e, v⟩ := v
  exact ⟨(e, 1), by rw [Hw.verifyKinds, v]⟩

/-- A powered module in sequencer state `st`, with memory, threads, a packet, measurements and fuses. -/
def mod (st : Nat) (k : K0 := {}) (r : Tab W32 := []) : Hw :=
  { powered := true, regs := put r (key 39 0x12 0x40) (BitVec.ofNat 32 (st * 2 ^ 28))
    k0 := { k with mrs := [(1, 5)], flash := [(3, 4)], svnFuses := 7, keyGen := 2 }
    flight := [{ q := .msg, src := 1, dest := 2, body := .event 1 2 }]
    cores := [(0, { lmem := [(0, 1), (1, 2)], threads := [(0, thr0)] }), (300, { threads := [(0, thr0)], lmem := [(5, 7)] })]
    gddr := [(0, 1)], cxlMem := [(5, 6)] }
/-- Reset pin pulses act by their length; dies that are fused and not, memory without posted stores, cores in and out of service. -/
theorem witness_Resets :
    (mod 1).powered = true ∧ (mod 1).k0.trip = none ∧ (mod 1).shut 39 0x012 = false ∧ (mod 1).awake 39 = true ∧ (mod 1).k0.flashOp = none ∧
    (mod 3).seqSt = 3 ∧ (mod 4).seqSt = 4 ∧ (mod 1).seqSt = 1 ∧ (mod 1).shut 0 0x112 = false ∧ (mod 1).fused 0 0x112 = false ∧
    (mod 1).fused 20 0x112 = false ∧ ({ mod 1 with variant := .uv40 } : Hw).fused 22 0x112 = true ∧
    (mod 1).reqs = [] ∧ (mod 1).mems = [] ∧ (mod 1).quietSlots 0 = true ∧ ((mod 1).core 0).back = [] ∧
    (let i : ArrIns := { rr with started := none }; ({ mod 1 with cores := [(0, { back := [i] })] } : Hw).core 0 = { back := [i] } ∧
      i.kind = .rowred2 ∧ i.started = none) ∧
    (let h : Hw := { mod 1 { trip := some 0, heldReset := true } with now := 119999999999 };
      h.k0.trip = some 0 ∧ h.now < 0 + 120000000000 ∧ h.k0.heldReset = true) ∧ (0 : Nat) + 120000000000 ≤ 120000000000 ∧
    (mod 1).k0.heldReset = false ∧ (mod 1).goneSite 0 = false ∧ (mod 1).awake 0 = true ∧ (mod 1).svc 0 0 ≠ 2 ∧
    (mod 1 {} [(0x024, 2)]).svc 0 0 = 2 ∧ (mod 1).shut 0 0 = false ∧
    (let h : Hw := booting 5; (h.core 0).record.1 = true ∧ (h.core 0).record.2 ≠ none) := by decide +kernel

def wt : Thread := { thr0 with state := .waitEv, wait := .wfe 3 8 }
def pw (r : Tab W32) (k : Core := {}) : Hw := { regs := r, cores := [(0, k)] }
def dirty1 : DLine := { pline := 5, way := 1, bytes := List.replicate 128 3, dirty := 9 }
theorem witness_CorePowerStates :
    (pw [(0x024, 2)]).svc 0 0 = 2 ∧ (pw [(0x28C, 5)]).svc 0 0 ≠ 2 ∧ (pw [(0x28C, 5)]).boot 0 = 5 ∧ (pw [(0x28C, 5)]).pwr 0 ≤ 1 ∧
    (pw []).boot 0 ≠ 5 ∧ (pw [(0x284, 1)]).pwr 0 = 1 ∧ (pw [(0x284, 2)]).pwr 0 = 2 ∧ (pw []).pwr 0 = 0 ∧ (pw []).shut 0 0 = false ∧ (pw []).awake 0 = true ∧
    (let h := pw [(0x280, 0x20000000), (0x28C, 5)] { threads := [(0, wt)] };
      h.coreRuns 0 = true ∧ h.parkWake 0 = 0 ∧ (h.cpg 0 0x280).getLsbD 29 = true ∧
      (∀ t : Tid, (h.thr 0 t).state ≠ .run ∧ (h.thr 0 t).state ≠ .waitReq) ∧ h.quietSlots 0 = true ∧ (h.core 0).outs = []) ∧
    (let h := pw [(0x064, 0), (0x280, 1), (0x288, 4), (0x28C, 5)] { threads := [(0, wt)], stallCnt := 4 };
      h.coreRuns 0 = true ∧ h.parkWake 0 = 0 ∧ (h.cpg 0 0x280).getLsbD 0 = true ∧ h.stalled 0 = true ∧ h.cpg 0 0x064 = 0 ∧
      (h.cpg 0 0x288).toNat ≤ (h.core 0).stallCnt.toNat) ∧
    (pw [(0x284, 1), (0x28C, 5)] { threads := [(0, { wt with evPend := 8 })] }).parkWake 0 ≠ 0 ∧ (pw [(0x284, 1), (0x28C, 5)]).parkWake 0 = 0 ∧
    (let h := pw [(0x284, 3), (0x28C, 5)] { threads := [(0, wt)], lmem := [(5, 6)] };
      h.pwr 0 = 3 ∧ (h.core 0).back = [] ∧ (∀ t : Tid, (h.thr 0 t).state ≠ .waitReq) ∧ h.quietSlots 0 = true ∧ h.k0.standbyReq = false ∧
      (h.core 0).dcache = [] ∧ (h.core 0).outs = []) ∧
    (let h := pw [(0x284, 3), (0x28C, 5)] { dcache := [dirty1] };
      h.pwr 0 = 3 ∧ h.k0.standbyReq = false ∧ (h.core 0).dcache.filter (fun l => l.dirty != 0) = [dirty1] ∧ (h.core 0).wbacks < 8 ∧ h.quietSlots 0 = true) ∧
    (let h := pw [(0x284, 2)] { wakeSrc := 3 }; h.pwr 0 = 2 ∧ (h.core 0).wakeSrc ≠ 0) ∧ ((pw [(0x284, 2)]).core 0).wakeSrc = 0 := by decide +kernel

def sleeping (d : Nat) (st : Sleep) : Hw := { dies := [(d, { sleep := st, sync := true })] }
theorem witness_DieSleepAndStandby :
    (sleeping 20 .run).mayDieSleep 20 = true ∧ (sleeping 0 .run).shut 0 0x112 = false ∧ (sleeping 0 .run).awake 0 = true ∧
    (sleeping 39 .run).mayDieSleep 39 = false ∧
    ((sleeping 2 .sleep).die 2).sleep = .sleep ∧ (sleeping 2 .sleep).seqSt ≠ 4 ∧ ((sleeping 2 .run).die 2).sleep ≠ .sleep ∧
    (let h : Hw := { regs := [(key 39 0x12 0x40, 2 ^ 28)], k0 := { session := some ses } };
      h.sesOpen = true ∧ h.seqSt = 1 ∧ h.cores = [] ∧ h.shut 39 0x012 = false ∧ h.awake 39 = true) ∧
    (let h : Hw := { regs := [(key 39 0x12 0x40, 2 ^ 28)], k0 := { standbyReq := true } }; h.k0.standbyReq = true ∧ h.sesOpen = false) ∧
    (let h : Hw := { regs := [(key 39 0x12 0x40, 4 * 2 ^ 28), (key 39 0x12 0x54, 5)], k0 := { session := some ses }
                     ports := [(0, { rx := [(2, { w0 := 0x80010000, sci := 9, pn := 2 })] })] };
      h.seqSt = 4 ∧ h.k0.wakeStep = 0 ∧ (h.macsec 0 ⟨9, 1, 3, true⟩).isSome = true ∧ h.macsec 0 ⟨9, 1, 3, false⟩ = none ∧
      h.pg 39 0x012 0x054 ≠ 0) := by decide +kernel
/-- No core of a module in STANDBY's reach still runs when every site is DEAD, and in an empty module no core asks for power. -/
theorem witness_DieSleepAndStandby_2 (c : CoreId) :
    ({ sites := deadSites, k0 := { session := some ses } } : Hw).stillRuns c.val = false ∧
    ({ k0 := { standbyReq := true } } : Hw).pwr c.val = 0 := by
  constructor
  · have e : look deadSites c.val = some ({ st := .dead } : Site) :=
      look_map (fun _ => ({ st := .dead } : Site)) _ _ (List.mem_range.2 c.isLt)
    simp [Hw.stillRuns, Hw.goneSite, Hw.site, lookD, e]
  · have b : siteIx c.val < 256 := Nat.mod_lt _ (by decide)
    have d : dieOf c.val < 20 := Nat.div_lt_of_lt_mul c.isLt
    have k : kindOf (dieOf c.val) (siteIx c.val) = some .core := by
      unfold kindOf; rw [if_neg (by omega), if_neg (by omega), if_neg (by omega), if_pos d, if_pos b]
    have r : regAt .uv48 (dieOf c.val) (siteIx c.val) 0x284 = regAt .uv48 0 0 0x284 := by
      simp only [regAt, k]; rfl
    unfold Hw.pwr Hw.cpg Hw.pg
    simp only [look, show (({} : Hw).variant) = .uv48 from rfl, r]
    decide +kernel

/-! ### Integrity, flash, power capping, sidebands and pages -/

def auditing (d b v : Nat) (h : Hw := {}) : Hw :=
  { h with regs := put h.regs (key d b 0x02C) (BitVec.ofNat 32 v), audits := [auditKey d b] }
def idty (h : Hw) (d b : Nat) : Option (Int × Int) := h.identity d b (fld (h.pg d b 0x02C) 7 0) (fld (h.pg d b 0x02C) 19 8)
/-- Blocks without and with targets, kinds that are taken and not, audits that hold and not, errors, and links whose lane has
reached its threshold and has not. -/
theorem witness_IntegrityAndRecords :
    ((kindOf 39 0x12).any fun k => !k.targets) = true ∧ Kind.core.targets = true ∧
    (injKinds .core (fld (0x80030101 : W32) 7 0)).contains (fld (0x80030101 : W32) 11 8) = true ∧
    (injKinds .core (fld (0x80030F01 : W32) 7 0)).contains (fld (0x80030F01 : W32) 11 8) = false ∧
    (auditing 0 0 5).audits.contains (auditKey 0 0) = true ∧ ((idty (auditing 0 0 5) 0 0).any fun p => p.1 == p.2) = true ∧
    ((idty (auditing 3 0x111 8 { k0 := { rootCount := 8 }, dies := [(3, { count := 100 })] }) 3 0x111).any fun p => p.1 != p.2) = true ∧
    (let h : Hw := { sites := [(0, { powered := true })], cores := [(0, { islandErr := true })] };
      h.goneSite 0 = false ∧ (h.site 0).powered = true ∧ (h.core 0).islandErr = true ∧ h.quietSlots 0 = true ∧ (h.core 0).back = []) ∧
    (let h : Hw := { sites := [(0, { powered := true })] }; (h.core 0).islandErr = false) ∧
    (linkPeer 1).isSome = true ∧
    (let lk (e : Nat) : Hw := { regs := [(key 0 0x100 0x50, 9), (key 1 0x100 0x50, 9)], links := [(linkKey 1, { laneErrs := [(67, e)] })] };
      (lk 9).linkFused 1 = false ∧ ((lk 9).link 1).dead = false ∧ ((lk 9).link 1).retired.getLsbD 67 = false ∧
      0 < (lk 9).linkThr 0 ∧ (lk 9).linkThr 0 ≤ lookD ((lk 9).link 1).laneErrs 67 0 ∧ lookD ((lk 8).link 1).laneErrs 67 0 < (lk 8).linkThr 0 ∧
      ((linkPeer 1).any fun p => decide (lookD ((lk 8).link 1).laneErrs 67 0 < (lk 8).linkThr p.1)) = true) ∧
    (let h : Hw := { regs := [(key 0 0x100 0x50, 0), (key 20 0x100 0x50, 0)], links := [(linkKey 1, { laneErrs := [(67, 9)] })] }; h.linkThr 0 = 0 ∧ ((linkPeer 1).any fun p => h.linkThr p.1 == 0) = true) ∧
    (⟨0, 1, 3, none⟩ : MeshErr).lost = none ∧ (⟨0, 1, 0, some 7⟩ : MeshErr).queue = 0 ∧ (⟨0, 1, 1, some 7⟩ : MeshErr).queue = 1 ∧
    (⟨0, 1, 3, some 0⟩ : MeshErr).lost = some 0 ∧ (mod 1).flight[0]? = some { q := .msg, src := 1, dest := 2, body := .event 1 2 } ∧
    ({} : Hw).shut 39 0x032 = false ∧ ({} : Hw).awake 39 = true := by decide +kernel

def fl (a : Nat) (k : K0 := {}) : Hw := { sq 1 0 0 with regs := [(key 39 0x12 0x40, 2 ^ 28), (key 39 0x14 0x40, BitVec.ofNat 32 a)], k0 := k }
def temp (v : Int) (hot : Bool) (l : Throttle := {}) : Hw := { powered := true, sensors := [(0, { val := v, hot := hot })], levels := [(0, l)] }
/-- Flash addresses at the ends of their ranges, aligned and not, guarded and not, busy; flash operations under way; cap
comparisons on both sides of the tenth; sensors below and at 115 C; GDDR7 below and at 100 C; rst_n low and high. -/
theorem witness_FlashPowerSidebandAndPages :
    let ad (h : Hw) := fld (h.pg 39 0x014 0x040) 25 0
    (fl 0).shut 39 0x014 = false ∧ (fl 0).awake 39 = true ∧ (fl 0).flashBusy = false ∧ (fl 0).seqSt ≠ 0 ∧ (fl 0).k0.wakeStep = 0 ∧
    ad (fl 0x3FFFF00) + 256 ≤ 0x4000000 ∧ 0x4000000 < ad (fl 0x3FFFF04) + 256 ∧ ad (fl 0x3FFFF00) % 256 = 0 ∧ ad (fl 0x3FFFF04) % 256 ≠ 0 ∧
    ad (fl 0x3FFF000) % 4096 = 0 ∧ flashGuarded (ad (fl 0x3FFF000)) = false ∧ ad (fl 0x3FFFF00) % 4096 ≠ 0 ∧ flashGuarded (ad (fl 0)) = true ∧
    ¬((fl 0x3FFF000 { flashOp := some .read }).k0.flashOp = none) ∧ (fl 0 { flashOp := some .program }).k0.flashOp = some .program ∧
    (fl 0 { flashOp := some .erase }).k0.flashOp = some .erase ∧ (fl 0).k0.flashOp = none ∧
    (let h : Hw := { fl 0 with regs := [(key 39 0x12 0x40, 2 ^ 28), (key 39 0x14 0x48, 2 ^ 31)] }; h.flashBusy = true) ∧
    (let h (n : Nat) : Hw := { powered := true, k0 := { capLevel := 7, belowCap := n } }; (h 8).powered = true ∧ (h 8).k0.belowCap < 9 ∧
      9 ≤ (h 9).k0.belowCap) ∧ (0 : BitVec 16).toNat * 100 ≤ min (({} : Hw).pg 39 0x112 0x0CC).toNat (pCapMax .uv48) * 95 ∧
    iCap .uv48 < (7001 : BitVec 16).toNat ∧ (0 : BitVec 16).toNat * 100 ≤ iCap .uv48 * 95 ∧
    (temp 5 true).powered = true ∧ (temp 5 true).k0.trip = none ∧ (lookD (temp 5 true).sensors 0 { val := 0 }).hot = true ∧
    (lookD (temp 5 false).sensors 0 { val := 0 }).hot = false ∧ ((temp 5 false { level := 7, hold := 1 }).throttle 0).hold ≤ 1 ∧
    (temp 5 false).thermHi 0 ≤ 1840 ∧ (temp 5 false).shut 20 0x112 = false ∧ (temp 5 false).fused 20 0x112 = false ∧
    (1599 : Int) < 1600 ∧
    ({ rstLow := true } : Pins).rstLow = true ∧ ({} : Pins).rstLow = false := by decide +kernel
/-- Pages of a sleeping die, of no block, the header, a reserved offset, and registers that a write reaches and does not. -/
theorem witness_FlashPowerSidebandAndPages_2 :
    (BitVec.ofNat 48 (regBase + 39 * 2 ^ 24 + 4095 * 2 ^ 12 + 4092)).toNat = regBase + 39 * 2 ^ 24 + 4095 * 2 ^ 12 + 4092 ∧
    ({ dies := [(3, { sleep := .sleep })] } : Hw).awake 3 = false ∧ kindOf 39 4095 = none ∧ ({ variant := .uv40 } : Hw).fused 36 3 = true ∧
    (let h : Hw := {}; h.awake 39 = true ∧ kindOf 39 0x100 = some .link ∧ h.noPage 39 0x100 = false ∧
      regAt h.variant 39 0x100 0xFFC = none ∧ ((regAt h.variant 39 0x100 0x050).any fun r => r.acc != .ro) = true ∧
      ((kindOf 39 0x12).any fun k => k != .core) = true ∧ ((regAt h.variant 39 0x12 0x048).any fun r => r.acc == .ro) = true) := by
  decide +kernel

/-! ### Values worked out from the spec

The numbers come from the worked examples of the spec's chapters (named in each comment) and from its tables. -/

/-- R70, R71, R72: wrapping, division corners, shift amounts modulo 64, sign extension. -/
theorem test_add_wraps :
    let s := on (gs thr0 [I 0xFFFFFFFFFFFFFFFF, I 2, L 5])
    ((after (exec (.add 0 0 ⟨4, 1, 2⟩) s)).thr 0 0).rd 4 = I 1 ∧ ((after (exec (.add 0 0 ⟨4, 1, 2⟩) s)).thr 0 0).pc = L 0x404 ∧
    ((after (exec (.add 0 0 ⟨0, 1, 2⟩) s)).thr 0 0).rd 0 = I 0 := by decide +kernel
theorem test_add_of_an_address_faults :
    ((after (exec (.add 0 0 ⟨4, 1, 2⟩) (on { gs thr0 [I 1, L 5] with esp := L 0x2000, espLimit := L 0x1000 }))).thr 0 0).pc = L 0x4C0 := by
  decide +kernel
theorem test_div_corners :
    let s := on (gs thr0 [I 0x8000000000000000, I 0xFFFFFFFFFFFFFFFF, I 7, I 0, I 0xFFFFFFFFFFFFFFF9])
    ((after (exec (.div 0 0 ⟨9, 1, 2⟩) s)).thr 0 0).rd 9 = I 0x8000000000000000 ∧
    ((after (exec (.rem 0 0 ⟨9, 3, 4⟩) s)).thr 0 0).rd 9 = I 7 ∧
    ((after (exec (.div 0 0 ⟨9, 5, 3⟩) s)).thr 0 0).rd 9 = I 0xFFFFFFFFFFFFFFFF := by decide +kernel
theorem test_shift_amount_is_modulo_64 :
    ((after (exec (.shl 0 0 ⟨3, 1, 2⟩) (on (gs thr0 [I 3, I 65])))).thr 0 0).rd 3 = I 6 := by decide +kernel
theorem test_mulh_of_minus_ones : ((after (exec (.mulh 0 0 ⟨3, 1, 1⟩) (on (gs thr0 [I 0xFFFFFFFFFFFFFFFF])))).thr 0 0).rd 3 = I 0 := by
  decide +kernel
theorem test_li_sign_extends : ((after (exec (.li 0 0 ⟨3, 0, 0x8000⟩) (on thr0))).thr 0 0).rd 3 = I 0xFFFFFFFFFFFF8000 := by decide +kernel
theorem test_clz_of_zero_is_64 : ((after (exec (.clz 0 0 ⟨3, 1, 0⟩) (on (gs thr0 [I 0])))).thr 0 0).rd 3 = I 64 := by decide +kernel
/-- Binary64 by IEEE 754: 1/3 to nearest, sqrt 2, 7 as a double, and 1.5 to an integer, ties to even. -/
theorem test_floating_point :
    let s := on (gs thr0 [F 0x3FF0000000000000, F 0x4008000000000000, F 0x4000000000000000, I 7, F 0x3FF8000000000000])
    ((after (exec (.fdiv 0 0 ⟨9, 1, 2⟩) s)).thr 0 0).rd 9 = F 0x3FD5555555555555 ∧
    ((after (exec (.fdiv 0 0 ⟨9, 1, 2⟩) s)).thr 0 0).fpcsr = 1 ∧
    ((after (exec (.fsqrt 0 0 ⟨9, 3, 0⟩) s)).thr 0 0).rd 9 = F 0x3FF6A09E667F3BCD ∧
    ((after (exec (.cvtif 0 0 ⟨9, 4, 0⟩) s)).thr 0 0).rd 9 = F 0x401C000000000000 ∧
    ((after (exec (.cvtfi 0 0 ⟨9, 5, 0⟩) s)).thr 0 0).rd 9 = I 2 := by decide +kernel
/-- R61: laddr goes up to 0x18_0000 and no further. -/
theorem test_adda_stays_in_its_space :
    let s := on { gs thr0 [L 0x17FFFF, I 1, I 2] with esp := L 0x2000, espLimit := L 0x1000 }
    ((after (exec (.adda 0 0 ⟨4, 1, 2⟩) s)).thr 0 0).rd 4 = L 0x180000 ∧ ((after (exec (.adda 0 0 ⟨4, 1, 3⟩) s)).thr 0 0).pc = L 0x4C0 := by
  decide +kernel
theorem test_branch_and_call :
    let s := on { gs thr0 [I 7, I 7] with pc := L 0x1000 }
    ((after (exec (.beq 0 0 ⟨1, 2, 0xFFFF⟩) s)).thr 0 0).pc = L 0xFFC ∧ ((after (exec (.bne 0 0 ⟨1, 2, 0xFFFF⟩) s)).thr 0 0).pc = L 0x1004 ∧
    ((after (exec (.call 0 0 4) s)).thr 0 0).rs = [L 0x1004] ∧ ((after (exec (.call 0 0 4) s)).thr 0 0).pc = L 0x1010 := by decide +kernel

/-- Chapter 2's worked example: `ST.D g0, [g5]+1` and the saved STATUS of the interrupted prefix. -/
theorem test_store_of_the_prefix_example :
    let u := after (exec (.st 0 1 ⟨0, 5, 6, true, 1⟩)
      { hw := { regs := [(0x28C, 5)], cores := [(0, { lmem := [(0x403, 4), (0x40003, 9)], threads := [(1, { thr0 with g := [(5, L 0x40000)] })] })] } })
    (u.thr 0 1).rd 5 = L 0x40008 ∧ (u.core 0).lmem = [(0x403, 4)] ∧ lookD (u.core 0).ltag 0x8000 .raw = .int := by decide +kernel
theorem test_status_word_of_the_prefix_example :
    ({ slot := 18, repLeft := 312, repActive := true, ie := true } : Status).word 1 = 0x9227100002 := by decide +kernel

/-- Chapter 3's worked example: thread 1 of a core takes INTR, then its handler faults with TAG, then RETCHK. -/
def intr0 (x : Thread) (k : Core := {}) : State := { hw := { regs := [(0x28C, 5)], cores := [(0, { k with threads := [(1, x)], lmem := code x.pc k.lmem })] } }
def user1 : Thread :=
  { thr0 with pc := L 0x23A40, st := { ie := true }, intEn := 0x20, evPend := 0x20, esp := L 0x18000, espLimit := L 0x17000 }
theorem test_intr_entry_example :
    let u := after (exec (.intrEntry 0 1) (intr0 user1))
    (u.core 0).ldWord 0x17FF8 = L 0x23A40 ∧ (u.core 0).ldWord 0x17FF0 = ⟨.stat, 0x1200009200000002⟩ ∧ (u.thr 0 1).pc = L 0x880 ∧
    (u.thr 0 1).nest = 1 ∧ (u.thr 0 1).basePriv = false ∧ (u.thr 0 1).esp = L 0x17FF0 := by decide +kernel
def handler1 : Thread := { thr0 with pc := L 0x10014, nest := 1, esp := L 0x17FF0, espLimit := L 0x17000, g := [(1, {})] }
theorem test_tag_entry_example :
    let u := after (exec (.addi 0 1 ⟨2, 1, 1⟩) (intr0 handler1))
    (u.core 0).ldWord 0x17FE8 = L 0x10014 ∧ (u.core 0).ldWord 0x17FE0 = ⟨.stat, 0x0300001A00000001⟩ ∧ (u.thr 0 1).pc = L 0x4C0 ∧
    (u.thr 0 1).nest = 2 := by decide +kernel
theorem test_retchk_example :
    let u := after (exec (.eret 0 1 ⟨0, 0, 0⟩) (intr0 { handler1 with pc := L 0x10040 } { ltag := [(0x2FFE, .int), (0x2FFF, .laddr)] }))
    (u.core 0).ldWord 0x17FE8 = L 0x10040 ∧ (u.core 0).ldWord 0x17FE0 = ⟨.stat, 0x0200011200000001⟩ ∧ (u.thr 0 1).pc = L 0x480 ∧
    (u.thr 0 1).esp = L 0x17FE0 := by decide +kernel

/-- Chapter 4's worked examples: the bank conflict's detail, XADDR and BANK_LAST, and TSTAT3 of the interrupted load. -/
theorem test_bank_conflict_example :
    let u := after (exec (.delayedAccessServed 0 ⟨1, 3, 2, 0x20040, 5⟩)
      { hw := { regs := [(0x28C, 5)], cores := [(0, { threads := [(2, { thr0 with esp := L 0x2000, espLimit := L 0x1000 })] })] } })
    (u.thr 0 2).st.detail = 0x953 ∧ (u.thr 0 2).xaddr = 0x20040 ∧ u.cpg 0 0x094 = 1 ∧ u.cpg 0 0x098 = 0x90103 := by decide +kernel
theorem test_tstat_example :
    let s := on thr0 { tiles := [(3, { cfg := 0x8007801F, valid := 0x3FF, prog := some ⟨.load, 10, G 0x41000F800, 136⟩ })] }
    tcfgOk 0x8007801F = true ∧ s.hw.special 0 0 0x09B = I 0x0000110A000003FF := by decide +kernel

/-- Chapter 6's worked example: ROWRED2 in mode LNORM, its occupancy, and its dx (without the optional dγ and dβ). -/
def lnorm (flags : Nat) : List Byte :=
  ([0x20100, 0x20200, 0x20300, 0, 0x20400, 0x20440, 0x20480, 16, 1, 0x40, flags].map (leBytes 4)).flatten
def lnormAt (flags : Nat) : State := on (gs thr0 [I 0, I 0, I 0, L 0x20000])
  { lmem := lm 0x20000 (lnorm flags) ++ lm 0x20100 ((List.replicate 8 (leBytes 4 0x3F800000 ++ leBytes 4 0xBF800000)).flatten) ++
      lm 0x20200 ((List.replicate 4 (leBytes 4 0x40800000 ++ leBytes 4 0 ++ leBytes 4 0x40000000 ++ leBytes 4 0x40000000)).flatten) ++
      lm 0x20400 (leBytes 4 0x3F000000) }
theorem test_rowred2_occupancy :
    ((after (exec (.rowred2 0 0 ⟨0, 4, 0⟩ 1) (lnormAt 0x9460))).core 0).back.map (·.occ) = [17] := by decide +kernel
theorem test_rowred2_dx :
    let u := after (exec (.rowred2 0 0 ⟨0, 4, 0⟩ 1) (lnormAt 0x9400))
    let v := after (exec (.rowred2Complete 0) { hw := u.updC 0 fun k => { k with back := k.back.map fun i => { i with started := some 0 } } })
    (v.core 0).lmem.readN 0x20300 16 = leBytes 4 0x3F000000 ++ leBytes 4 0xBF000000 ++ leBytes 4 0xBF000000 ++ leBytes 4 0x3F000000 := by
  decide +kernel

/-- Chapter 8's worked example: the deposit of a padded message, its header word, and the dispatch. -/
def ring0 : State :=
  { hw := { regs := [(key 10 0x5A 0x0D0, 0x08000000), (key 10 0x5A 0x120, 0x30000), (key 10 0x5A 0x124, 0xE4400040), (key 10 0x5A 0x28C, 5)]
            rings := [(0xA5A * 4 + 1, { free := 36, granted := 16, occ := 12, wr := 52, ret := 40, pop := 52, popped := 1
                                        recs := [{ start := 40, len := 12 }] })]
            flight := flight (.message (normalMsg 0x0A57 0x0A5A 1 16 0x0147 [])) .msg 0x0A57 0x0A5A
            cores := [(0xA5A, { lmem := (0x703, 4) :: lm 0x10038 (leBytes 8 0x9000), ltag := [(0x10038 / 8, .laddr)]
                                threads := [(2, { thr0 with g := [(1, I 1)], pc := L 0x700 })] })] } }
theorem test_padded_message_example :
    let u := after (exec (.messageDeposit 0x0A57 0x0A5A false) ring0)
    let r := u.ring 0x0A5A 1
    (r.free, r.granted, r.occ, r.pad, r.wr) = (24, 0, 28, 12, 16) ∧ u.pageRead 10 0x5A (0x100 + 32 + 0x0C) = 0xC000001C := by decide +kernel
theorem test_header_example : leNat (sub (normalMsg 0x0A57 0x0A5A 1 16 0x0147 []).bytes 0 8) = 0x001F01470A570A5A := by decide +kernel
/-- The same ring with the message at granule 0, the next one to dispatch. -/
theorem test_dispatch_example :
    let h := ring0.hw.updRing 0x0A5A 1 fun r => { r with wr := 16, pop := 0, ret := 0, popped := 0, recs := [{ start := 0, len := 16 }] }
    let v := after (exec (.mwait 0xA5A 2 ⟨3, 1, 0⟩) { hw := h.lmWrite 0xA5A 0x30000 (leBytes 8 0x001F01470A570A5A) })
    (v.thr 0xA5A 2).rd 1 = L 0x30000 ∧ (v.thr 0xA5A 2).rd 2 = I 0x001F01470A570A5A ∧ (v.thr 0xA5A 2).pc = L 0x9000 ∧
    (v.thr 0xA5A 2).rs = [L 0x700] := by decide +kernel

/-- Chapter 15's worked example: identity registers and a refused ring write. -/
theorem test_refused_ring_write_example :
    let s : State := { hw := { regs := [(key 10 0x5A 0x144, 0x80000040)], rings := [(0xA5A * 4 + 2, { granted := 16 })] } }
    let u := after (exec (.ringConfigWrite 0xA5A 2 true (.page 0x80000020)) s)
    s.hw.pageRead 10 0x5A 0x000 = 0x010A005A ∧ s.hw.pageRead 10 0x5A 0x004 = 0x00010E00 ∧ u.pageRead 10 0x5A 0x00C = 0x04000144 ∧
    (u.pg 10 0x5A 0x010).getLsbD 0 = true ∧ u.cpg 0xA5A 0x144 = 0x80000040 := by decide +kernel
/-- Chapter 13's worked example: BLK_SVC after the first write and at the beats. -/
theorem test_service_example :
    let s : State := { hw := { regs := [(key 10 0x5A 0x028, 7002)], dies := [(10, { sync := true, count := 7001, due := [7002] })] } }
    let u := after (exec (.blkSvcWrite 10 0x5A 0x10) s)
    u.pageRead 10 0x5A 0x024 = 0x910 ∧ (after (exec (.beat 10) { hw := u })).pageRead 10 0x5A 0x024 &&& 0x1FF = 0x011 := by decide +kernel
/-- Chapter 16's worked example: 3,103 W above a cap of 2,500 W raises the level. -/
theorem test_cap_example :
    let s : State := { hw := { powered := true, regs := [(key 39 0x112 0x0CC, 0x09C4)] } }
    let u := after (exec (.capComparison 60000 5172 3103) s)
    u.k0.capLevel = 1 ∧ u.k0.pf.length = 1 := by decide +kernel
/-- Chapter 10's worked example: LOOP at index 10 goes back to index 4 with 1 counted. -/
theorem test_loop_example :
    let s := on thr0 { lmem := lm 0x4140 (dins 0x20000400 3 0x20000 0) }
      { chans := [(0, { state := .ready, priv := true, prog := 0x4000, index := 10 })] }
    let x := (after (exec (.loopOp chA) s)).ch chA
    x.index = 4 ∧ x.i = [1, 0, 0, 0] ∧ x.state = .ready := by decide +kernel
/-- R192: lanes of 8 bits wrap by themselves. -/
theorem test_vadd_bytes :
    ((after (exec (.vadd 0 0 ⟨3, 1, 2, 0, false, 0⟩) (on { thr0 with v := [(1, 0x01FF), (2, 0x0101)] }))).thr 0 0).vec 3 = 0x0200 := by
  decide +kernel
/-- R182: INT8 products 2 by 3 and -1 by 5 on top of 7. -/
theorem test_mma_int8 :
    let i := { ins .mma cfgI8 cfgI8 false with a := { tl cfgI8 with bytes := [(0, 2), (1, 0xFF)] }, b := { tl cfgI8 with bytes := [(0, 3), (1, 5)] } }
    let u := after (exec (.arrayInstructionComplete 0 false) (on thr0 { front := [i], accs := [(1024, 7)] }))
    (u.core 0).acc 1 0 0 = 8 ∧ (u.core 0).acc 1 0 1 = 0 := by decide +kernel
/-- The queue: an empty one only lets time pass (log 15). -/
theorem test_idle_step_is_a_tick : (next? (step demo)).any (fun s => s.hw.now == 1) = true := by decide +kernel
end Sys2Proof.Tests
end

section
/-! Hardware with no injection armed (R432): what consults BLK_INJ on its way goes through unstruck. -/

namespace Sys2Proof.Machine

/-- `calm` speaks of registers only, and their reset values of the variant. -/
theorem Hw.calm_of_same_regs {h g : Hw} (regs : g.regs = h.regs) (variant : g.variant = h.variant) (calm : h.calm) : g.calm := by
  intro d b
  have same : g.pg d b 0x020 = h.pg d b 0x020 := by simp only [Hw.pg, regs, variant]
  rw [same]
  exact calm d b

theorem Hw.inject_of_calm {h : Hw} (calm : h.calm) (d b target : Nat) : h.inject d b target = (none, h) := by
  simp only [Hw.inject, calm d b, Bool.false_and, Bool.false_eq_true, if_false]

theorem Hw.linkHop_of_calm {h : Hw} (calm : h.calm) (n : Nat) : h.linkHop n = h := by
  unfold Hw.linkHop
  cases linkPeer n <;> simp only [Hw.inject_of_calm calm, ite_self]

/-- A route through calm hardware strikes nothing: every hop leaves the hardware and the data as they are. -/
theorem Hw.injectHops_of_calm {h : Hw} (calm : h.calm) (queue : Nat) (body : Option PBody) (data bad : Bool)
    (route : List (Nat × Nat × Nat)) : h.injectHops queue body data bad route = (h, some bad) := by
  induction route with
  | nil => rfl
  | cons x rest ih =>
    unfold Hw.injectHops
    cases hopLink x <;> simp only [Hw.linkHop_of_calm calm, Hw.inject_of_calm calm, ih, ite_self]

theorem Hw.calm_updC {h : Hw} (calm : h.calm) (c : Nat) (f : Core → Core) : (h.updC c f).calm :=
  Hw.calm_of_same_regs rfl rfl calm

theorem Hw.calm_dropOut {h : Hw} (calm : h.calm) (c : CoreId) (id : Nat) : (h.dropOut c id).calm := Hw.calm_updC calm _ _

/-- A request into the mesh arms nothing. -/
theorem Hw.calm_request {h : Hw} (calm : h.calm) (c : CoreId) (t : Tid) (kind : OutKind) (write : Bool) (addr len : Nat)
    (data : List (Nat × Byte)) (poison : Bool) : (h.request c t kind write addr len data poison).calm := by
  have asked : (({ h with nextId := h.nextId + 1 } : Hw).updC c.val fun k =>
      { k with outs := k.outs ++ [{ id := h.nextId, thread := t, kind := kind }] }).calm :=
    Hw.calm_of_same_regs rfl rfl calm
  simp only [Hw.request, Hw.injectHops_of_calm asked]
  exact Hw.calm_of_same_regs rfl rfl calm

theorem Hw.calm_writeBack {h : Hw} (calm : h.calm) (c : CoreId) (t : Tid) (l : DLine) (poison : Bool) :
    (h.writeBack c t l poison).calm := Hw.calm_request calm c t _ _ _ _ _ poison

end Sys2Proof.Machine
end

section
/-! What the answers to a core's requests do (R146, R147, R160, R423): one lemma per way an answer can end. -/

namespace Sys2Proof.Machine

/-- An answer leaves the network and nothing else changes. -/
theorem Hw.takeRsp_keeps {h g : Hw} {c : CoreId} {id : Nat} {r : MRsp} (taken : h.takeRsp c id = some (r, g)) :
    ∃ rest, g = { h with rsps := rest } := by
  obtain ⟨_, -, same⟩ := Option.map_eq_some_iff.mp taken
  obtain ⟨-, rfl⟩ := Prod.mk.inj same
  exact ⟨_, rfl⟩

section Answers
variable {h g : Hw} {c : CoreId} {id : Nat} {r : MRsp} {o : OutReq}

/-- An expected answer that is no line joins what its thread has received (R147, R426). -/
theorem Hw.globalResponse_of_expected (taken : h.takeRsp c id = some (r, g)) (expected : (h.core c.val).out id = some o)
    (noFill : o.kind.isFill = false) :
    h.globalResponse c id = ((g.dropOut c id).updT c o.thread fun x =>
      { x with resp := if o.kind = .read then some (x.resp.getD [] ++ r.data) else x.resp
               respErr := r.err <|> x.respErr }).retryAll c := by
  simp only [Hw.globalResponse, taken, expected, noFill, Bool.false_eq_true, if_false]
  cases r.err <;> rfl

/-- For a thread in a tile transfer TILE_ROW_DONE is the answer's arrival (R160). -/
theorem Hw.tileRowDone_of_transfer (expected : (h.core c.val).out id = some o) {op : TileOp} {f : RF} {row : Nat} {cfg : Word}
    {n : Nat} (waits : (h.thr c o.thread).pend = some (.tile op f row cfg n)) : h.tileRowDone c id = h.globalResponse c id := by
  simp only [Hw.tileRowDone, expected, waits]

/-- The lines of the set of `pl` in way `w`: what a fill of `pl` into that way evicts (R146). -/
def DLine.evictedBy (pl : Nat) (w : Fin 4) (l : DLine) : Bool := decide (l.pline % 128 = pl % 128) && l.way == w

/-- A fill without error and injection, its way free of dirty lines: the line is in the cache, the request done. -/
def Hw.lineLands (h : Hw) (c : CoreId) (id pl : Nat) (w : Fin 4) (data : List Byte) : Hw :=
  ((h.dropOut c id).updC c.val fun k => k.dcPut { pline := pl, way := w, bytes := sub data 0 128, dirty := 0 }).retryAll c

variable {pl : Nat} {way : Fin 4}

theorem Hw.dcFill_of_error (taken : h.takeRsp c id = some (r, g)) (expected : (h.core c.val).out id = some o)
    (fill : o.kind = .fill pl) {e : BitVec 4} (bad : r.err = some e) :
    h.dcFill c id way = ((g.dropOut c id).updT c o.thread fun x => { x with respErr := some e }).retryAll c := by
  simp only [Hw.dcFill, taken, expected, fill, bad]

/-- A fill whose victim, if it has one, is clean (R146). -/
theorem Hw.dcFill_of_clean_victim (taken : h.takeRsp c id = some (r, g)) (expected : (h.core c.val).out id = some o)
    (fill : o.kind = .fill pl) (good : r.err = none) (calm : g.calm)
    (clean : ∀ l ∈ (h.core c.val).dcache, l.evictedBy pl ((h.core c.val).fillWay pl way) = true → l.dirty = 0) :
    h.dcFill c id way = g.lineLands c id pl ((h.core c.val).fillWay pl way) r.data := by
  simp only [Hw.dcFill, taken, expected, fill, good, Hw.inject_of_calm (Hw.calm_dropOut calm c id)]
  split
  case h_1 l found =>
    rw [if_pos (clean l (List.mem_of_find?_eq_some found) (List.find?_some found))]
    rfl
  case h_2 => rfl

/-- A fill whose victim is dirty, with a write-back slot free (R146). -/
theorem Hw.dcFill_of_dirty_victim (taken : h.takeRsp c id = some (r, g)) (expected : (h.core c.val).out id = some o)
    (fill : o.kind = .fill pl) (good : r.err = none) (calm : g.calm) {l : DLine}
    (found : (h.core c.val).dcache.find? (DLine.evictedBy pl ((h.core c.val).fillWay pl way)) = some l) (dirty : l.dirty ≠ 0)
    (slot : (h.core c.val).wbacks < 8) :
    h.dcFill c id way = (g.writeBack c o.thread l (decide (2 ≤ l.bad.toNat))).lineLands c id pl
      ((h.core c.val).fillWay pl way) r.data := by
  have calmBehind := Hw.calm_dropOut (Hw.calm_writeBack calm c o.thread l (decide (2 ≤ l.bad.toNat))) c id
  unfold DLine.evictedBy at found
  simp only [Hw.dcFill, taken, expected, fill, good, found, if_neg dirty, if_neg (Nat.not_le.mpr slot),
    Hw.inject_of_calm calmBehind]
  rfl

/-- A request that neither a queue nor a memory holds any more ends with error kind 5 (R423). -/
theorem Hw.requestTimeout_of_lost (noReq : h.reqs.any (fun r => r.id == id) = false)
    (noRsp : h.rsps.any (fun r => r.id == id) = false)
    (noMem : (h.mems.any fun m => m.2.combines.any fun w => (w.joined ++ w.held ++ w.queued).any fun r => r.id == id) = false)
    (asker : h.cores.find? (fun p => (p.2.out id).isSome) = some (c.val, h.core c.val))
    (expected : (h.core c.val).out id = some o) :
    h.requestTimeout id = ((h.dropOut c id).updT c o.thread fun x => { x with respErr := some 5 }).retryAll c := by
  simp only [Hw.requestTimeout, noReq, noRsp, noMem, asker, expected, c.isLt, Bool.or_false, Bool.false_eq_true, if_false,
    dif_pos]

end Answers

/-- Settles O46: each kind of answer by its own lemma, its hardware calm because an answer that leaves the network touches
no register. -/
theorem globalAnswersReachCores : Obligations.GlobalAnswersReachCores := by
  unfold Obligations.GlobalAnswersReachCores
  intro c id s
  refine ⟨fun r h o taken expected noFill => ?_, fun r h o pl way taken expected fill => ?_,
    fun o noReq noRsp noMem asker expected => ?_⟩
  · have arrives := Hw.globalResponse_of_expected taken expected noFill
    exact ⟨congrArg s.leaves arrives, fun _ _ _ _ _ waits =>
      congrArg s.leaves ((Hw.tileRowDone_of_transfer expected waits).trans arrives)⟩
  · have calm (calm : s.hw.calm) : h.calm := by
      obtain ⟨_, rfl⟩ := Hw.takeRsp_keeps taken
      exact Hw.calm_of_same_regs rfl rfl calm
    exact ⟨fun _ bad => congrArg s.leaves (Hw.dcFill_of_error taken expected fill bad),
      fun good quiet clean => congrArg s.leaves (Hw.dcFill_of_clean_victim taken expected fill good (calm quiet) clean),
      fun _ good quiet found dirty slot =>
        congrArg s.leaves (Hw.dcFill_of_dirty_victim taken expected fill good (calm quiet) found dirty slot)⟩
  · exact congrArg s.leaves (Hw.requestTimeout_of_lost noReq noRsp noMem asker expected)

end Sys2Proof.Machine
end

section
/-! Tile transfers and configuration (R157–R165): what one row leaves, and how a transfer comes to its next row. -/

namespace Sys2Proof.Machine

theorem Hw.updTile_congr (h : Hw) (c : CoreId) (n : Fin 8) {f g : Tile → Tile}
    (same : f ((h.core c.val).tile n) = g ((h.core c.val).tile n)) : h.updTile c n f = h.updTile c n g := by
  simp only [Hw.updTile, Hw.updC, same]

@[simp] theorem Hw.thr_updTile (h : Hw) (c : CoreId) (n : Fin 8) (f : Tile → Tile) (t : Tid) :
    (h.updTile c n f).thr c t = h.thr c t := by
  simp [Hw.updTile, Hw.thr, Core.thr]

@[simp] theorem Hw.thr_dropLatches (h : Hw) (c : CoreId) (n : Fin 8) (t : Tid) :
    (h.updC c.val fun k => k.dropLatches n).thr c t = h.thr c t := by
  simp [Hw.thr, Core.thr, Core.dropLatches]

/-! ### One row -/

section Row
variable {op : TileOp} {f : RF} {cfg : Word} {base : TWord} {stride : Word} {r id : Nat} {h g : Hw} {c : CoreId} {t : Tid}

/-- The last row ends the instruction and clears the record that is still the transfer's (R160, R162). -/
theorem Hw.tileRow_last (moved : h.moveRow c t op (tileOf f.rd) cfg r base stride = .done g) (last : tileRows op cfg ≤ r + 1) :
    Hw.tileRow op f cfg base stride r id h c t = .ok (g.updTile c (tileOf f.rd) fun x => x.record id fun _ => none) .seq := by
  simp only [Hw.tileRow, moved, if_neg (Nat.not_lt.mpr last)]

/-- Behind an earlier row the thread stays at the transfer, with the row behind as the next one (R160, R161). -/
theorem Hw.tileRow_more (moved : h.moveRow c t op (tileOf f.rd) cfg r base stride = .done g) (more : r + 1 < tileRows op cfg)
    (free : (g.thr c t).stepping = false) :
    Hw.tileRow op f cfg base stride r id h c t =
      .ok ((g.updTile c (tileOf f.rd) fun x => x.record id fun p => some { p with next := r + 1 }).updT c t fun x =>
        { x with wait := .req (.tile op f (r + 1) cfg id) }) .stay := by
  simp only [Hw.tileRow, moved, if_pos more, Hw.thr_updTile, free, Bool.false_eq_true, if_false]

/-- A command whose row ends or stays as `tileRow` says moves its row as the statements say. -/
theorem State.rowMoves_of_tileRow {s : State} {i : Instr}
    (ends : ∀ u, Hw.tileRow op f cfg base stride r id h c t = .ok u .seq → exec i s = s.did c t 4 u)
    (stays : ∀ u, Hw.tileRow op f cfg base stride r id h c t = .ok u .stay → exec i s = s.leaves u) :
    s.rowMoves i op f cfg base stride c t r id h := fun _ moved =>
  ⟨fun last => ends _ (Hw.tileRow_last moved last),
   fun more free => stays _ (Hw.tileRow_more moved more (by simpa using free))⟩

end Row

/-! ### How a transfer comes to a row -/

section Offer
variable {op : TileOp} {f : RF} {h : Hw} {c : CoreId} {t : Tid} {s : State}

/-- A transfer whose record names it goes on at the record's row (R160). -/
theorem Hw.tileIns_of_record (ok : tileCheck op f (h.thr c t) ((h.core c.val).tile (tileOf f.rd)) = .ok ()) {r : Nat}
    (record : ((h.core c.val).tile (tileOf f.rd)).prog =
      some { kind := op, next := r, addr := (h.thr c t).rd f.ra, stride := ((h.thr c t).rd f.rb).val }) :
    Hw.tileIns op f h c t = Hw.tileRow op f ((h.core c.val).tile (tileOf f.rd)).cfg ((h.thr c t).rd f.ra)
      ((h.thr c t).rd f.rb).val r ((h.core c.val).tile (tileOf f.rd)).records h c t := by
  simp [Hw.tileIns, ok, record, Hw.tileResume]

/-- The hardware in which a transfer moves its row 0: a load has invalidated the tile, and there is a new record (R160). -/
def Hw.transferBegun (h : Hw) (c : CoreId) (op : TileOp) (n : Fin 8) (a : TWord) (d : Word) : Hw :=
  (if op = .load then (h.updC c.val fun k => k.dropLatches n).updTile c n fun x => { x with valid := 0 } else h).updTile c n
    fun x => x.newRecord op a d

theorem Hw.thr_transferBegun (h : Hw) (c : CoreId) (op : TileOp) (n : Fin 8) (a : TWord) (d : Word) (t : Tid) :
    (h.transferBegun c op n a d).thr c t = h.thr c t := by
  unfold Hw.transferBegun
  split <;> simp

/-- A transfer that no record names begins with row 0, a load only once no queued instruction reads the tile (R160, R163). -/
theorem Hw.tileIns_of_new (ok : tileCheck op f (h.thr c t) ((h.core c.val).tile (tileOf f.rd)) = .ok ())
    (new : ∀ p, ((h.core c.val).tile (tileOf f.rd)).prog = some p →
      ¬(p.kind = op ∧ p.addr = (h.thr c t).rd f.ra ∧ p.stride = ((h.thr c t).rd f.rb).val))
    (unread : op = .load → (h.core c.val).tileRead (tileOf f.rd) = false) :
    Hw.tileIns op f h c t = Hw.tileRow op f ((h.core c.val).tile (tileOf f.rd)).cfg ((h.thr c t).rd f.ra)
      ((h.thr c t).rd f.rb).val 0 (((h.core c.val).tile (tileOf f.rd)).records + 1)
      (h.transferBegun c op (tileOf f.rd) ((h.thr c t).rd f.ra) ((h.thr c t).rd f.rb).val) c t := by
  have go : (decide (op = .load) && (h.core c.val).tileRead (tileOf f.rd)) = false := by
    by_cases load : op = .load
    · simp [unread load]
    · simp [load]
  have resumed : Hw.tileIns op f h c t = Hw.tileResume op f 0 ((h.core c.val).tile (tileOf f.rd)).cfg
      (((h.core c.val).tile (tileOf f.rd)).records + 1)
      (h.transferBegun c op (tileOf f.rd) ((h.thr c t).rd f.ra) ((h.thr c t).rd f.rb).val) c t := by
    cases record : ((h.core c.val).tile (tileOf f.rd)).prog with
    | none => simp [Hw.tileIns, ok, record, go, Hw.transferBegun]
    | some p => simp [Hw.tileIns, ok, record, go, Hw.transferBegun, if_neg (new p record)]
  rw [resumed, Hw.tileResume, Hw.thr_transferBegun]

/-- A thread that issues is in the middle of no transfer. -/
theorem State.transfer_of_ready (ready : s.hw.slotReady c t 4 = true) :
    s.transfer op f c t = s.issue c t 4 [f.ra, f.rb] (Hw.tileIns op f) := by
  obtain ⟨issues, -⟩ := (s.hw.slotReady_iff c t 4).mp ready
  have atIssue : (s.hw.thr c t).wait = .none := by
    simp only [Hw.canIssue, Bool.and_eq_true, decide_eq_true_eq] at issues
    exact issues.2
  have notMidway : (s.hw.thr c t).midway op f = none := by
    unfold Thread.midway
    rw [atIssue]
    cases (s.hw.thr c t).state <;> rfl
  simp only [State.transfer, notMidway]

/-- Without single-step an instruction that goes on moves the PC behind itself and traps nowhere (R123). -/
theorem Hw.finish_seq_of_no_step {u : Hw} {len : Nat} (noStep : (h.thr c t).st.ss = false) :
    h.finish c t len (.ok u .seq) = u.pcTo c t ⟨(h.thr c t).pc.tag, (h.thr c t).pc.val + BitVec.ofNat 64 len⟩ := by
  simp only [Hw.finish, Hw.pcTo, noStep, Bool.false_and, Bool.false_eq_true, if_false]

/-- A thread in the middle of a transfer, at a boundary where nothing is due: the next row moves (R160, R161). -/
theorem State.transfer_of_midway {r : Nat} {cfg : Word} {id : Nat} (run : (s.hw.thr c t).state = .run)
    (wait : (s.hw.thr c t).wait = .req (.tile op f r cfg id)) {g : Hw} (hg : g = s.hw.updT c t fun x => { x with wait := .none })
    (issues : g.canIssue c t = true) (noEvent : g.dueEvent c t = none) (noHalt : g.haltDue c t = none) {u : Hw} {n : Nxt}
    (row : Hw.tileResume op f r cfg id g c t = .ok u n) : s.transfer op f c t = s.leaves (g.finish c t 4 (.ok u n)) := by
  have midway : (s.hw.thr c t).midway op f = some (r, cfg, id) := by simp [Thread.midway, run, wait]
  have runs : s.hw.coreRuns c.val = true := by
    simp only [Hw.canIssue, Bool.and_eq_true] at issues
    rw [hg] at issues
    exact issues.1.1
  simp only [State.transfer, midway, State.run_eq, runs, if_true, ← hg, Hw.nextRow, issues, Bool.not_true, Bool.false_eq_true,
    if_false, noEvent, noHalt, row]

end Offer

/-- The three transfers differ in their commands only: each of them is `State.transfer` (R159, R164). -/
theorem transfers_of_exec {mk : CoreId → Tid → RF → Instr} {op : TileOp}
    (meaning : ∀ c t f s, exec (mk c t f) s = s.transfer op f c t) : Transfers mk op := by
  intro c t f s n a d
  constructor
  · intro ready h x ok
    have sameA : (h.thr c t).rd f.ra = a := Hw.begun_rd ..
    have sameD : ((h.thr c t).rd f.rb).val = d := congrArg TWord.val (Hw.begun_rd ..)
    have offered : exec (mk c t f) s = s.issue c t 4 [f.ra, f.rb] (Hw.tileIns op f) :=
      (meaning c t f s).trans (State.transfer_of_ready ready)
    have moves {r id : Nat} {g : Hw} (row : Hw.tileIns op f h c t = Hw.tileRow op f x.cfg a d r id g c t) :
        s.rowMoves (mk c t f) op f x.cfg a d c t r id g :=
      State.rowMoves_of_tileRow (fun _ e => offered.trans (State.issue_did ready _ (row.trans e)))
        fun _ e => offered.trans (State.issue_parked ready _ (row.trans e))
    rw [← sameA, ← sameD] at moves ⊢
    exact ⟨fun r record => moves (Hw.tileIns_of_record ok record), fun new unread => moves (Hw.tileIns_of_new ok new unread)⟩
  · intro r cfg id run wait g issues noEvent noHalt noStep
    have regs (q : Reg) : (g.thr c t).rd q = s.reg c t q := by simp [g, State.reg, Thread.rd]
    have resumed : Hw.tileResume op f r cfg id g c t = Hw.tileRow op f cfg a d r id g c t := by
      simp only [Hw.tileResume, regs, a, d]
    have samePc : (g.thr c t).pc = (s.hw.thr c t).pc := by simp [g]
    refine State.rowMoves_of_tileRow (fun u e => ?_) fun u e => ?_
    · rw [meaning, State.transfer_of_midway run wait rfl issues noEvent noHalt (resumed.trans e)]
      rw [Hw.finish_seq_of_no_step noStep, samePc]
      rfl
    · rw [meaning, State.transfer_of_midway run wait rfl issues noEvent noHalt (resumed.trans e)]
      rfl

/-! ### TZERO and TCFGn -/

/-- TZERO of a configured tile that no queued instruction reads (R165). -/
theorem Hw.tzeroIns_of_free {f : RF} {h : Hw} {c : CoreId} (t : Tid) (tile : f.rd.val < 8) (ra : f.ra = 0) (rb : f.rb = 0)
    (configured : ((h.core c.val).tile (tileOf f.rd)).cfg.getLsbD 31 = true)
    (unread : (h.core c.val).tileRead (tileOf f.rd) = false) :
    Hw.tzeroIns f h c t = .ok ((h.updTile c (tileOf f.rd) fun x =>
      { x with bytes := x.bytes.filter fun p => decide (trows x.cfg ≤ p.1 / 256)
               valid := x.valid ||| BitVec.ofNat 32 (2 ^ trows x.cfg - 1), prog := none
               bad := x.bad.filter fun r => decide (trows x.cfg ≤ r.val) }).rowWritten c (tileOf f.rd) 0) .seq := by
  have checked : mbz 0x24 (decide (f.rd.val < 8) && f.ra = 0 && f.rb = 0) = .ok () := by simp [mbz, tile, ra, rb]
  simp only [Hw.tzeroIns, checked, tcv, configured, unread]
  exact congrArg (fun g => IRes.ok (Hw.rowWritten g c (tileOf f.rd) 0) .seq) (Hw.updTile_congr h c _ rfl)

theorem needInt_of_isInt {operand : Nat} {w : TWord} (int : w.tag.isInt = true) : needInt operand w = .ok w.val := by
  simp [needInt, need, int]

/-- A TCFGn value that R157 accepts, for a tile that no queued instruction reads. -/
theorem Hw.tcfgIns_of_accepted {n : Fin 8} {ra : Reg} {h : Hw} {c : CoreId} {t : Tid}
    (int : ((h.thr c t).rd ra).tag.isInt = true) (accepted : tcfgOk ((h.thr c t).rd ra).val = true)
    (unread : (h.core c.val).tileRead n = false) :
    Hw.tcfgIns n ra h c t = .ok ((h.updC c.val fun k => k.dropLatches n).updTile c n fun x =>
      { x with cfg := ((h.thr c t).rd ra).val &&& tcfgMask, valid := 0, prog := none }) .seq := by
  simp [Hw.tcfgIns, needInt_of_isInt int, accepted, unread]

/-- A TCFGn value that R157 refuses. -/
theorem Hw.tcfgIns_of_refused {n : Fin 8} {ra : Reg} {h : Hw} {c : CoreId} {t : Tid}
    (int : ((h.thr c t).rd ra).tag.isInt = true) (refused : tcfgOk ((h.thr c t).rd ra).val = false) :
    Hw.tcfgIns n ra h c t = .exc h (srExc (0x090 + n.val) (illegal 0x05 4)) := by
  simp [Hw.tcfgIns, needInt_of_isInt int, refused]

/-- Settles O30: the three transfers share `transfers_of_exec`; TZERO and TCFGn writes commit or fault by their own lemmas. -/
theorem tileTransfersAndConfiguration : Obligations.TileTransfersAndConfiguration := by
  unfold Obligations.TileTransfersAndConfiguration
  refine ⟨transfers_of_exec fun _ _ _ _ => rfl, transfers_of_exec fun _ _ _ _ => rfl, transfers_of_exec fun _ _ _ _ => rfl,
    ?_, ?_⟩
  · intro c t f s ready tile ra rb h n x configured unread
    exact State.issue_did ready [] (Hw.tzeroIns_of_free t tile ra rb configured unread)
  · intro c t n ra s ready int
    rw [show s.reg c t ra = ((s.hw.begun c t).thr c t).rd ra from (Hw.begun_rd ..).symm] at int ⊢
    exact ⟨fun accepted unread => State.issue_did ready [ra] (Hw.tcfgIns_of_accepted int accepted unread),
      fun refused => State.issue_faulted ready [ra] (Hw.tcfgIns_of_refused int refused)⟩

end Sys2Proof.Machine
end

section
/-! The backward pass (R207–R219): ROWRED2 joins and leaves the back queue, the derivatives' lanes, and RR2_CLR. -/

namespace Sys2Proof.Machine

/-! ### Errors counted at a block leave the cores alone -/

@[simp] theorem Hw.cores_sendRaw (h : Hw) (route : List (Nat × Nat × Nat)) (p : Pkt) : (h.sendRaw route p).cores = h.cores := by
  have counted : (route.foldl (fun h x => h.countFlits p.flits x) h).cores = h.cores :=
    List.foldlRecOn (motive := fun g : Hw => g.cores = h.cores) route _ rfl fun _ same _ _ => same
  exact counted

@[simp] theorem Hw.cores_blkEvt (h : Hw) (d b i : Nat) : (h.blkEvt d b i).cores = h.cores := by
  unfold Hw.blkEvt
  split
  · rfl
  · dsimp only
    split <;> simp

@[simp] theorem Hw.cores_blkErr (h : Hw) (d b i : Nat) : (h.blkErr d b i).cores = h.cores := by
  simp only [Hw.blkErr]
  split <;> simp

@[simp] theorem Hw.cores_corrected (h : Hw) (d b : Nat) : (h.corrected d b).cores = h.cores := by simp [Hw.corrected]

/-- A scrub rewrites memory words, and no queue (R422). -/
@[simp] theorem Hw.back_lmScrub (h : Hw) (c a n : Nat) : ((h.lmScrub c a n).core c).back = (h.core c).back := by
  unfold Hw.lmScrub
  split
  · rw [Hw.core, Hw.cores_corrected, ← Hw.core, Hw.core_updC_self]
  · rfl

/-! ### ROWRED2 at issue (R209, R212) -/

/-- Two steps that succeed one after the other each succeed. -/
theorem ok_of_bind {ε α β : Type} {x : Except ε α} {f : α → Except ε β} {b : β} (passed : x >>= f = .ok b) :
    ∃ a, x = .ok a ∧ f a = .ok b := by
  cases x with
  | error e => cases passed
  | ok a => exact ⟨a, rfl, passed⟩

theorem eq_of_needAddr_ok {operand : Nat} {w a : TWord} (passed : needAddr operand w = .ok a) : a = w := by
  unfold needAddr at passed
  split at passed
  · exact (Except.ok.inj passed).symm
  · cases passed

theorem eq_true_of_assigned_ok {op : Nat} {ok : Bool} {u : Unit} (passed : assigned op ok = .ok u) : ok = true := by
  unfold assigned at passed
  split at passed
  · assumption
  · cases passed

/-- A descriptor that passes is that of an assigned mode, as the 64 bytes at ra spell it (R207, R208). -/
theorem Hw.rowredCheck_ok {h : Hw} {c : CoreId} {x : Thread} {f : RF} {fn : Nat} {d : RDesc}
    (passed : h.rowredCheck c x f fn = .ok d) :
    fn < 3 ∧ rdescOf fn ((h.core c.val).lmem.readN (x.rd f.ra).val.toNat 64) = d := by
  unfold Hw.rowredCheck at passed
  obtain ⟨_, mode, passed⟩ := ok_of_bind passed
  obtain ⟨_, _, passed⟩ := ok_of_bind passed
  obtain ⟨a, address, passed⟩ := ok_of_bind passed
  obtain ⟨_, _, passed⟩ := ok_of_bind passed
  obtain ⟨_, _, passed⟩ := ok_of_bind passed
  obtain ⟨_, _, passed⟩ := ok_of_bind passed
  dsimp only at passed
  split at passed
  · cases passed
  · obtain ⟨_, _, passed⟩ := ok_of_bind passed
    obtain ⟨_, _, passed⟩ := ok_of_bind passed
    rw [eq_of_needAddr_ok address] at passed
    exact ⟨of_decide_eq_true (eq_true_of_assigned_ok mode), Except.ok.inj passed⟩

theorem Hw.back_enqueue (h : Hw) (c : CoreId) (i : ArrIns) :
    ((h.enqueue c true i).core c.val).back = (h.core c.val).back ++ [{ i with seq := (h.core c.val).seq }] := by
  simp [Hw.enqueue]

/-- A descriptor that passes joins the back queue while it has room, as the entry that R209 and R212 describe. -/
theorem Hw.rowredIns_of_room {h : Hw} {c : CoreId} {t : Tid} {f : RF} {fn : BitVec 11} {d : RDesc}
    (passed : h.rowredCheck c (h.thr c t) f fn.toNat = .ok d) (room : (h.core c.val).back.length < 4) :
    ∃ i g, Hw.rowredIns f fn h c t = .ok g .seq ∧ (g.core c.val).back = (h.core c.val).back ++ [i] ∧
      i.kind = .rowred2 ∧ i.thread = t ∧ i.mode.val = fn.toNat ∧ rdescOf i.mode.val i.desc = d ∧ i.occ = d.occ ∧
      i.started = none := by
  obtain ⟨assigned, copied⟩ := Hw.rowredCheck_ok passed
  have mode : fn.toNat % 3 = fn.toNat := Nat.mod_eq_of_lt assigned
  simp only [Hw.rowredIns, passed, if_neg (Nat.not_le.mpr room)]
  refine ⟨_, _, rfl, (Hw.back_enqueue ..).trans (congrArg (· ++ _) (Hw.back_lmScrub ..)), rfl, rfl, mode, ?_, rfl, rfl⟩
  simpa only [mode] using copied

/-! ### A core whose local memory reads without error (R136, R215, R432) -/

/-- Every word of the core's local memory reads well, and no injection waits to strike one. -/
def Hw.lmClean (h : Hw) (c : CoreId) : Prop := (h.core c.val).lbad = [] ∧ (h.cpg c.val 0x020).getLsbD 31 = false

section Clean
variable {h : Hw} {c : CoreId} (clean : h.lmClean c)
include clean

theorem Hw.lmClean.lmErr_eq (a n : Nat) : (h.core c.val).lmErr a n = 0 := by
  unfold Core.lmErr
  rw [clean.1]
  exact List.foldlRecOn (motive := fun e => e = 0) _ _ rfl fun _ zero _ _ => by simp [zero, lookD, look]

theorem Hw.lmClean.lmScrub_eq (a n : Nat) : h.lmScrub c.val a n = h := by
  simp [Hw.lmScrub, clean.lmErr_eq]

/-- With nothing armed in the core's page no write is struck. -/
theorem Hw.lmClean.lmInject_eq (a : Nat) : h.lmInject c.val a = h := by
  have unarmed : (h.pg (dieOf c.val) (siteIx c.val) 0x020).getLsbD 31 = false := clean.2
  simp only [Hw.lmInject, Hw.inject, unarmed, Bool.false_and, Bool.false_eq_true, if_false]

theorem Hw.lmClean.lmWrite (a : Nat) (bs : List Byte) : (h.lmWrite c.val a bs).lmClean c := by
  have kept : (h.updC c.val fun k => k.lmWrite a bs).lmClean c := by
    refine ⟨?_, clean.2⟩
    rw [Hw.core_updC_self, Core.lmWrite, clean.1]
    exact List.foldlRecOn (motive := fun t => t = []) _ _ rfl fun _ empty _ _ => by simp [empty, del]
  unfold Hw.lmWrite
  split
  · exact clean
  · rwa [kept.lmInject_eq]

theorem Hw.lmClean.arrFlags (nv of ns : Bool) : (h.arrFlags c.val nv of ns).lmClean c := by
  unfold Hw.arrFlags
  split
  · exact ⟨clean.1, (congrArg (·.getLsbD 31) (Hw.cpg_updCpg_offset _ _ _ _ _ (by decide))).trans clean.2⟩
  · exact clean

theorem Hw.lmClean.anyOf {α : Type} (ks : List Core) (f : Core → α) : (h.anyOf c ks f).2.lmClean c := clean

theorem Hw.lmClean.putElem (size a v : Nat) : (h.putElem c size a v).lmClean c := clean.lmWrite ..

theorem Hw.lmClean.putElems (out : List (Nat × Nat × List Nat)) : (out.foldl (fun h p => h.putElems c p) h).lmClean c :=
  List.foldlRecOn (motive := fun g : Hw => g.lmClean c) out _ clean fun _ kept _ _ => kept.lmWrite ..

/-! ### The rows of a ROWRED2 on such a core (R210, R214) -/

/-- The reads of y, d and γ of one element. -/
theorem Hw.lmClean.anyElem (d : RDesc) (ks : List Core) (r i : Nat) :
    (((h.anyOf c ks fun k => (k.rowElem d r i).1).2.anyOf c ks fun k => (k.rowElem d r i).2.1).2.anyOf c ks
      fun k => (k.rowElem d r i).2.2).2.lmClean c :=
  ((clean.anyOf ..).anyOf ..).anyOf ..

/-- A sum of dγ or dβ read and written back. -/
theorem Hw.lmClean.accumulate (ks : List Core) (base i v : Nat) :
    ((h.anyOf c ks fun k => k.rval false base i).2.putElem c 4 (base + 4 * i) v).lmClean c :=
  (clean.anyOf ..).putElem ..

theorem Hw.lmClean.mixed1 (d : RDesc) (ks : List Core) (r i : Nat) : (Hw.mixed1 d c ks r i h).2.2.lmClean c := by
  have read := clean.anyElem d ks r i
  unfold Hw.mixed1
  cases d.dgEn
  · cases d.dbEn
    · exact read
    · exact read.accumulate ks d.db i _
  · have gamma (v : Nat) := read.accumulate ks d.dg i v
    cases d.dbEn
    · exact gamma _
    · exact (gamma _).accumulate ks d.db i _

theorem Hw.lmClean.mixed2 (d : RDesc) (ks : List Core) (m : RSums) (rho r i : Nat) :
    (Hw.mixed2 d c ks m rho r i h).2.lmClean c :=
  (clean.anyElem d ks r i).putElem ..

theorem Hw.lmClean.mixedRow (d : RDesc) (old : Core) (r : Nat) : (Hw.mixedRow d c old r h).2.lmClean c := by
  unfold Hw.mixedRow
  refine List.foldlRecOn (motive := fun a : RFlags × Hw => a.2.lmClean c) _ _ ?_ fun _ kept _ _ => kept.mixed2 ..
  exact List.foldlRecOn (motive := fun a : List (Nat × Nat × Option Nat) × RFlags × Hw => a.2.2.lmClean c) _ _
    (clean.anyOf [old, h.core c.val] fun k => k.rho d r) fun _ kept _ _ => kept.mixed1 ..

theorem Hw.lmClean.rowBad_eq (d : RDesc) (r : Nat) : (h.core c.val).rowBad d r = false := by
  simp [Core.rowBad, clean.lmErr_eq]

/-- The rows all complete, without an error (R213). -/
theorem Hw.lmClean.rowredGo_eq (d : RDesc) (old : Option Core) (n r : Nat) : (Hw.rowredGo d old c n r h).2 = (r + n, false) := by
  induction n generalizing h r with
  | zero => rfl
  | succ n ih =>
    unfold Hw.rowredGo
    simp only [clean.rowBad_eq, Bool.false_eq_true, if_false]
    rw [Nat.add_comm n 1, ← Nat.add_assoc]
    cases old with
    | none => exact ih ((clean.putElems _).arrFlags ..) (r + 1)
    | some o => exact ih ((clean.mixedRow d o r).arrFlags ..) (r + 1)

end Clean

/-! ### Completion (R213, R219) -/

/-- What a ROWRED2 wrote changes nothing of an entry behind it but the bytes that later writes are told by (R212, R214). -/
theorem Core.seenBy_eq (k : Core) (d : RDesc) (j : ArrIns) : { k.seenBy d j with snap := [] } = { j with snap := [] } := by
  unfold Core.seenBy
  split <;> rfl

@[simp] theorem Hw.core_updCpg (h : Hw) (c o : Nat) (f : W32 → W32) (d : Nat) : (h.updCpg c o f).core d = h.core d := rfl

/-- Cycles are counted in the core's page. -/
@[simp] theorem Hw.core_busy (h : Hw) (c : CoreId) (back : Bool) (occ d : Nat) : (h.busy c back occ).core d = h.core d := rfl

/-- The started ROWRED2 at the head leaves the back queue and stands in RR2_STAT with all its rows and no error. -/
theorem Hw.rowredComplete_of_clean {h : Hw} {c : CoreId} (clean : h.lmClean c) {i : ArrIns} {rest : List ArrIns} {d : RDesc}
    (head : (h.core c.val).back = i :: rest) (kind : i.kind = .rowred2) (started : i.started ≠ none)
    (desc : rdescOf i.mode.val i.desc = d) :
    let k := (h.rowredComplete c).core c.val
    k.back.map (fun j => { j with snap := [] }) = rest.map (fun j => { j with snap := [] }) ∧
      k.rr2Rows = BitVec.ofNat 13 d.rows ∧ k.rr2Ecc = false ∧ k.rr2Mode = BitVec.ofNat 2 i.mode.val := by
  have scrubbed : (d.spans.filter fun s => !s.2.2).foldl (fun h s => h.lmScrub c.val s.1 s.2.1) h = h :=
    List.foldlRecOn (motive := fun g : Hw => g = h) _ _ rfl fun _ same _ _ => by rw [same, clean.lmScrub_eq]
  obtain ⟨g, rows⟩ : ∃ g, Hw.rowredGo d ((h.core c.val).mixes i d) c d.rows 0 h = (g, d.rows, false) :=
    ⟨_, Prod.ext rfl ((clean.rowredGo_eq ..).trans (by rw [Nat.zero_add]))⟩
  have behind (k : Core) : (rest.map (k.seenBy d)).map (fun j => { j with snap := [] }) =
      rest.map fun j => { j with snap := [] } := by
    rw [List.map_map]
    exact List.map_congr_left fun j _ => k.seenBy_eq d j
  simp only [Hw.rowredComplete, head, kind, started, ne_eq, not_true_eq_false, or_self, if_false, desc, scrubbed, rows,
    Bool.false_eq_true]
  cases d.evEn
  · simp [behind]
  · simp [behind, Hw.setEv]

/-! ### The derivatives' lanes (R216, R217) and the end of a floating-point instruction (R56) -/

section Lanes
variable {s : State} {c : CoreId} {t : Tid}

theorem Hw.begun_rm (h : Hw) (c : CoreId) (t : Tid) : ((h.begun c t).thr c t).rm = (h.thr c t).rm := by simp [Thread.rm]

theorem Hw.begun_ufTrap (h : Hw) (c : CoreId) (t : Tid) : ((h.begun c t).thr c t).ufTrap = (h.thr c t).ufTrap := by
  simp [Thread.ufTrap]

theorem Hw.begun_kmask (h : Hw) (c : CoreId) (t : Tid) (km : BitVec 3) :
    ((h.begun c t).thr c t).kmask km = (h.thr c t).kmask km := by
  simp [Thread.kmask]

theorem FFlags.quiet_begun (fl : FFlags) (h : Hw) (c : CoreId) (t : Tid) :
    fl.quiet ((h.begun c t).thr c t) = fl.quiet (h.thr c t) := by
  simp [FFlags.quiet, Hw.begun_ufTrap]

/-- An update of a thread is determined by what it makes of that thread. -/
theorem Hw.updT_congr (h : Hw) (c : CoreId) (t : Tid) {f g : Thread → Thread} (same : f (h.thr c t) = g (h.thr c t)) :
    h.updT c t f = h.updT c t g := by
  have same : f ((h.core c.val).thr t) = g ((h.core c.val).thr t) := same
  simp only [Hw.updT, Hw.updC, Core.updT, same]

/-- Only an XLATE counts a miss of the translation buffer (R172). -/
theorem Hw.countMiss_of_cause_ne (h : Hw) (c : CoreId) {e : Exc} (cause : e.cause ≠ 8) : h.countMiss c e = h := by
  simp only [Hw.countMiss, tbMiss, cause, decide_false, Bool.false_and, Bool.false_eq_true, if_false]

/-- The flags `fl` set in FPCSR (R56). -/
def Hw.raised (h : Hw) (c : CoreId) (t : Tid) (fl : FFlags) : Hw :=
  h.updT c t fun x => { x with fpcsr := x.fpcsr ||| BitVec.ofNat 64 (fl.bits x.ufTrap) }

/-- The FPX trap for the flags among `fl` that a thread has enabled (R56). -/
def fpxExc (x : Thread) (fl : FFlags) : Exc := ⟨13, BitVec.ofNat 16 (fl.bits x.ufTrap &&& fld x.fpcsr 12 8), none⟩

theorem Hw.fpDone_eq (h : Hw) (c : CoreId) (t : Tid) (fl : FFlags) (commit : Hw → Hw) : h.fpDone c t fl commit =
    if fl.quiet (h.thr c t) then .ok (commit (h.raised c t fl)) .seq else .exc (h.raised c t fl) (fpxExc (h.thr c t) fl) := by
  have flags : (h.updT c t fun x => { x with fpcsr := x.fpcsr ||| BitVec.ofNat 64 (fl.bits (h.thr c t).ufTrap) }) =
      h.raised c t fl := h.updT_congr c t rfl
  simp only [Hw.fpDone, flags, FFlags.quiet, decide_eq_true_eq, fpxExc, ite_not]

/-- An instruction that ends in `fpDone` sets its flags and commits, or traps with FPX. -/
theorem State.fpEnds_of_fpDone (ready : s.hw.slotReady c t 4 = true) {i : Instr} {srcs : List Reg}
    {ins : Hw → CoreId → Tid → IRes} {fl : FFlags} {g : Thread → Thread} (meaning : exec i s = s.issue c t 4 srcs ins)
    (done : ins (s.hw.begun c t) c t = (s.hw.begun c t).fpDone c t fl fun h => h.updT c t g) : s.fpEnds i c t fl g := by
  rw [Hw.fpDone_eq, FFlags.quiet_begun] at done
  constructor
  · intro quiet
    rw [if_pos quiet] at done
    exact meaning.trans (State.issue_did ready srcs done)
  · intro trapped
    have trap : fpxExc ((s.hw.begun c t).thr c t) fl = fpxExc (s.hw.thr c t) fl := by simp [fpxExc, Hw.begun_ufTrap]
    rw [if_neg (by simp [trapped]), trap] at done
    rw [meaning, State.issue_exc ready srcs done, Hw.countMiss_of_cause_ne _ _ (by simp [fpxExc])]
    rfl

/-- DERIVO and DERIVI of an assigned function on FP32 or BF16 lanes. -/
theorem Hw.derivIns_of_assigned (inp : Bool) {f : VF} {fn : BitVec 5} (format : f.et.toNat < 2)
    (function : fn.toNat < if inp then 3 else 5) :
    let x := s.hw.thr c t
    let fmt := vfFmt f.et
    let m := x.kmask f.km
    let r := ((lanes fmt.width (x.vec f.va)).zip (lanes fmt.width (x.vec f.vb))).map fun p =>
      derivLane fmt x.rm inp fn.toNat p.1 p.2
    Hw.derivIns inp f fn (s.hw.begun c t) c t = (s.hw.begun c t).fpDone c t (laneFlags fmt.width m (r.map (·.2))) fun h =>
      h.updT c t fun x => x.setVec f.vd (mergeLanes fmt.width m f.z (x.vec f.vd) (r.map (·.1))) := by
  simp only [Hw.derivIns, assigned, format, function, decide_true, Bool.and_self, if_true, Hw.begun_kmask, Hw.begun_rm,
    Hw.begun_vec]

end Lanes

/-! ### RR2_CLR (R219) -/

theorem Hw.rr2ClrIns_of_set {h : Hw} {c : CoreId} {t : Tid} {ra : Reg} (int : ((h.thr c t).rd ra).tag.isInt = true)
    (set : ((h.thr c t).rd ra).val.getLsbD 0 = true) :
    Hw.rr2ClrIns ra h c t = .ok (h.updC c.val fun k => { k with rr2Ecc := false }) .seq := by
  simp only [Hw.rr2ClrIns, needInt_of_isInt int]
  exact congrArg (fun g => IRes.ok g .seq) (if_pos set)

/-- Settles O36: ROWRED2 by the checks it passed and by its rows on a core that reads well, the lanes by `fpDone`. -/
theorem backwardPassInstructions : Obligations.BackwardPassInstructions := by
  unfold Obligations.BackwardPassInstructions
  refine ⟨?_, ?_, ?_, ?_⟩
  · intro c t f fn s d ready h passed room
    have unchanged : (h.core c.val).back = (s.hw.core c.val).back := by simp [h, Hw.begun]
    rw [← unchanged] at room ⊢
    obtain ⟨i, g, run, entry⟩ := Hw.rowredIns_of_room passed room
    exact ⟨i, g, State.issue_did ready [f.ra] run, entry⟩
  · intro c s i rest head kind started few lbad unarmed
    obtain ⟨queue, rows, ecc, mode⟩ := Hw.rowredComplete_of_clean ⟨lbad, unarmed⟩ head kind started rfl
    refine ⟨s.hw.rowredComplete c, State.run_eq s fun h => h.rowredComplete c, queue, ?_, ecc, ?_⟩
    · rw [rows, BitVec.toNat_ofNat, Nat.mod_eq_of_lt few]
    · rw [mode, BitVec.toNat_ofNat, Nat.mod_eq_of_lt (Nat.lt_trans i.mode.isLt (by decide))]
  · intro inp c t f fn s ready format function
    refine State.fpEnds_of_fpDone ready (srcs := []) ?_ (Hw.derivIns_of_assigned inp format function)
    cases inp <;> rfl
  · intro c t ra s ready int set
    rw [show s.reg c t ra = ((s.hw.begun c t).thr c t).rd ra from (Hw.begun_rd ..).symm] at int set
    exact State.issue_did ready [ra] (Hw.rr2ClrIns_of_set int set)

end Sys2Proof.Machine
end


section
/-! Memory at its home with no injection armed (R223–R233): what an access finds in the memory-side cache, and what it leaves. -/

namespace Sys2Proof.Machine

/-! ### Calm hardware under the updates of an access (R432) -/

theorem Hw.calm_setPg {h : Hw} (calm : h.calm) (d b : Nat) {o : Nat} (v : W32) (other : o % 4096 ≠ 0x020) :
    (h.setPg d b o v).calm := by
  intro e k
  have apart : regKey e k 0x020 ≠ regKey d b o := by simp only [regKey]; omega
  rw [h.pg_setPg_of_ne d b o v e k 0x020 apart]
  exact calm e k

theorem Hw.calm_updMem {h : Hw} (calm : h.calm) (m : Nat) (f : MemDie → MemDie) : (h.updMem m f).calm :=
  Hw.calm_of_same_regs rfl rfl calm

theorem Hw.calm_dropReq {h : Hw} (calm : h.calm) (id : Nat) : (h.dropReq id).calm := Hw.calm_of_same_regs rfl rfl calm

/-- An answer without error through calm hardware arrives as it was sent. -/
theorem Hw.answer_of_calm {h : Hw} (calm : h.calm) (r : MReq) (data : List Byte) :
    h.answer r data none = { h with rsps := h.rsps ++ [r.answered data] } := by
  simp only [Hw.answer, Hw.injectHops_of_calm calm]
  rfl

/-! ### The memory-side cache (R229, R232) -/

theorem Hw.toGddr_of_calm {h : Hw} (calm : h.calm) (l : MLine) :
    h.toGddr l = (h.setLine l.line l.bytes).bump (20 + h.home l.line) 0x011 0x050 := by
  have stored : (h.setLine l.line l.bytes).calm := Hw.calm_of_same_regs rfl rfl calm
  have counted : ((h.setLine l.line l.bytes).bump (20 + h.home l.line) 0x011 0x050).calm :=
    Hw.calm_setPg stored _ _ _ (by decide)
  simp only [Hw.toGddr, Hw.inject_of_calm counted]

/-- What an access of the memory-side cache leaves as it was: no injection armed, and the requests and answers under way. -/
structure Hw.Quiet (h g : Hw) : Prop where
  calm : g.calm
  rsps : g.rsps = h.rsps
  reqs : g.reqs = h.reqs

theorem Hw.Quiet.trans {h g k : Hw} (a : h.Quiet g) (b : g.Quiet k) : h.Quiet k :=
  ⟨b.calm, b.rsps.trans a.rsps, b.reqs.trans a.reqs⟩

theorem Hw.quiet_updMem {h : Hw} (calm : h.calm) (m : Nat) (f : MemDie → MemDie) : h.Quiet (h.updMem m f) :=
  ⟨Hw.calm_updMem calm m f, rfl, rfl⟩

theorem Hw.quiet_bump {h : Hw} (calm : h.calm) (d b : Nat) {o : Nat} (other : o % 4096 ≠ 0x020) : h.Quiet (h.bump d b o) :=
  ⟨Hw.calm_setPg calm d b _ other, rfl, rfl⟩

theorem Hw.quiet_toGddr {h : Hw} (calm : h.calm) (l : MLine) : h.Quiet (h.toGddr l) := by
  have stored : h.Quiet (h.setLine l.line l.bytes) := ⟨Hw.calm_of_same_regs rfl rfl calm, rfl, rfl⟩
  rw [Hw.toGddr_of_calm calm]
  exact stored.trans (Hw.quiet_bump stored.calm _ _ (by decide))

/-- A write-back changes no memory die's own state. -/
theorem Hw.mems_toGddr {h : Hw} (calm : h.calm) (l : MLine) : (h.toGddr l).mems = h.mems := by
  rw [Hw.toGddr_of_calm calm]
  rfl

/-- The line that a way held goes, written back if it is dirty (R229). -/
def Hw.evict (h : Hw) (m : Nat) (victim : Option MLine) : Hw :=
  match victim with
  | some v => (if v.dirty then h.toGddr v else h).updMem m fun x => x.drop v.line
  | none => h

theorem Hw.quiet_evict {h : Hw} (calm : h.calm) (m : Nat) (victim : Option MLine) : h.Quiet (h.evict m victim) := by
  cases victim with
  | none => exact ⟨calm, rfl, rfl⟩
  | some v =>
    by_cases dirty : v.dirty = true
    · have back := Hw.quiet_toGddr calm v
      simpa only [Hw.evict, if_pos dirty] using back.trans (Hw.quiet_updMem back.calm m _)
    · simpa only [Hw.evict, if_neg dirty] using Hw.quiet_updMem calm m _

theorem Hw.mem_evict {h : Hw} (calm : h.calm) (m : Nat) (victim : Option MLine) :
    ∃ lines, (h.evict m victim).mem m = { h.mem m with lines := lines } := by
  cases victim with
  | none => exact ⟨_, rfl⟩
  | some v =>
    have same : (if v.dirty then h.toGddr v else h).mem m = h.mem m := by
      split
      · rw [Hw.mem, Hw.mems_toGddr calm, ← Hw.mem]
      · rfl
    refine ⟨((h.mem m).drop v.line).lines, ?_⟩
    rw [Hw.evict, Hw.mem_updMem_self, same]
    rfl

theorem Hw.mscPut_eq (h : Hw) (l : MLine) (w : Fin 16) :
    ∃ victim way, h.mscPut l w = ((h.updMem (h.home l.line) fun x => x.drop l.line).evict (h.home l.line) victim).updMem
      (h.home l.line) fun x => { x with lines := { l with way := way } :: x.lines } := ⟨_, _, rfl⟩

theorem Hw.quiet_mscPut {h : Hw} (calm : h.calm) (l : MLine) (w : Fin 16) : h.Quiet (h.mscPut l w) := by
  obtain ⟨victim, way, put⟩ := h.mscPut_eq l w
  have dropped := Hw.quiet_updMem calm (h.home l.line) fun x => x.drop l.line
  have gone := Hw.quiet_evict dropped.calm (h.home l.line) victim
  rw [put]
  exact (dropped.trans gone).trans (Hw.quiet_updMem gone.calm _ _)

/-- A line put in a way is the first that its die lists; other lines may go, and the rest of the die is as it was (R229). -/
theorem Hw.mem_mscPut {h : Hw} (calm : h.calm) (l : MLine) (w : Fin 16) : ∃ way lines,
    (h.mscPut l w).mem (h.home l.line) = { h.mem (h.home l.line) with lines := { l with way := way } :: lines } := by
  obtain ⟨victim, way, put⟩ := h.mscPut_eq l w
  obtain ⟨lines, die⟩ := Hw.mem_evict (Hw.calm_updMem calm (h.home l.line) fun x => x.drop l.line) (h.home l.line) victim
  refine ⟨way, lines, ?_⟩
  rw [put, Hw.mem_updMem_self, die, Hw.mem_updMem_self]
  rfl

/-! ### What a read of a line finds (R229, R425) -/

section Line
variable {h : Hw} {line : Nat} {l : MLine} (w : Fin 16)

theorem MemDie.find_cons_self {x : MemDie} {l : MLine} {lines : List MLine} :
    ({ x with lines := l :: lines } : MemDie).find l.line = some l := by
  simp [MemDie.find]

/-- A good line of a live device: its bytes, with the access counted. -/
theorem Hw.mscRead_of_hit (alive : h.lineDead line = false) (unlisted : (h.mem (h.home line)).poison.contains line = false)
    (found : (h.mem (h.home line)).find line = some l) (good : l.bad = 0) (alloc : Bool) :
    h.mscRead line alloc w = (h.bump (20 + h.home line) 0x011 0x048, .ok l.bytes) := by
  simp only [Hw.mscRead, alive, unlisted, found, good, Bool.false_eq_true, if_false, if_true]

/-- A line that is not cached: its bytes in the devices, which the cache takes. -/
theorem Hw.mscRead_of_absent (calm : h.calm) (alive : h.lineDead line = false)
    (unlisted : (h.mem (h.home line)).poison.contains line = false) (absent : (h.mem (h.home line)).find line = none) :
    h.mscRead line true w = ((h.bump (20 + h.home line) 0x011 0x04C).mscPut
      { line := line, way := w, bytes := h.gddrLine line, dirty := false } w, .ok (h.gddrLine line)) := by
  have counted := (Hw.quiet_bump calm (20 + h.home line) 0x011 (o := 0x04C) (by decide)).calm
  simp only [Hw.mscRead, alive, unlisted, absent, Hw.inject_of_calm counted, Bool.false_eq_true, if_false, if_true]
  rfl

theorem Hw.misses_of_hit (found : (h.mem (h.home line)).find line = some l) (good : l.bad = 0) : h.misses line = false := by
  simp [Hw.misses, found, good]

/-- Part of a good line is written: its bytes are merged, and the line is dirty (R230). -/
theorem Hw.mscWrite_of_hit (calm : h.calm) (alive : h.lineDead line = false)
    (unlisted : (h.mem (h.home line)).poison.contains line = false) (found : (h.mem (h.home line)).find line = some l)
    (good : l.bad = 0) {data : List (Nat × Byte)} (part : data.length ≠ 128) :
    h.mscWrite line data false w = ((h.bump (20 + h.home line) 0x011 0x048).mscPut
      { line := line, way := l.way, bytes := mergeLine line l.bytes data, dirty := true } l.way, none) := by
  have counted := (Hw.quiet_bump calm (20 + h.home line) 0x011 (o := 0x048) (by decide)).calm
  have cached : ((h.bump (20 + h.home line) 0x011 0x048).mem (h.home line)).find line = some l := found
  simp only [Hw.mscWrite, alive, part, unlisted, Hw.mscRead_of_hit w alive unlisted found good, Hw.inject_of_calm counted, cached,
    decide_false, false_and, Bool.false_eq_true, if_false]

end Line

end Sys2Proof.Machine
end

section
/-! Requests at the home of their line (R231, R233): reads that hit, miss, join and queue, writes that merge and are held, fills,
and page reads. -/

namespace Sys2Proof.Machine

theorem Hw.ready1_of_mayServe {s : State} {r : MReq} {id : Nat} {write : Bool} (serve : s.mayServe r id) (kind : r.write = write) :
    s.hw.ready1 id write = some r := by
  obtain ⟨found, first, way⟩ := serve
  simp [Hw.ready1, found, first, way, kind, Option.filter]

section Home
variable {h : Hw} {r : MReq} {id : Nat}

theorem Hw.readArrives_of_gddr (ready : h.ready1 id false = some r) (gddr : r.addr < cxlBase)
    (awake : h.awake (20 + h.home (r.addr / 128)) = true) : h.readArrives id = h.readAtHome r := by
  simp only [Hw.readArrives, ready, gddr, awake, if_true]

theorem Hw.readArrives_of_page (calm : h.calm) (ready : h.ready1 id false = some r) (page : regBase ≤ r.addr)
    (awake : h.awake (pageOf r.addr).1 = true) : h.readArrives id = { h.dropReq id with
      rsps := (h.dropReq id).rsps ++ [r.answered (leBytes r.len
        (h.pageRead (pageOf r.addr).1 (pageOf r.addr).2.1 (pageOf r.addr).2.2).toNat)] } := by
  have noGddr : ¬r.addr < cxlBase := Nat.not_lt.mpr (Nat.le_trans (by decide) page)
  simp only [Hw.readArrives, ready, noGddr, page, awake, Hw.answer_of_calm (Hw.calm_dropReq calm id), if_true, if_false]

theorem Hw.writeArrives_of_gddr (ready : h.ready1 id true = some r) (gddr : r.addr < cxlBase)
    (awake : h.awake (20 + h.home (r.addr / 128)) = true) (w : Fin 16) : h.writeArrives id w = h.writeAtHome r w := by
  simp only [Hw.writeArrives, ready, gddr, awake, if_true]

/-- A read that hits is answered from its line. -/
theorem Hw.readAtHome_of_hit (noWindow : (h.mem (h.home (r.addr / 128))).combine (r.addr / 128) = none)
    (unlisted : (h.mem (h.home (r.addr / 128))).poison.contains (r.addr / 128) = false)
    (alive : h.lineDead (r.addr / 128) = false) {l : MLine}
    (found : (h.mem (h.home (r.addr / 128))).find (r.addr / 128) = some l) (good : l.bad = 0) :
    h.readAtHome r = ((h.dropReq r.id).anyWay.2.bump (20 + h.home (r.addr / 128)) 0x011 0x048).answer r
      (lineSlice r l.bytes) none := by
  have hits : (h.dropReq r.id).misses (r.addr / 128) = false := Hw.misses_of_hit (h := h.dropReq r.id) found good
  have read := Hw.mscRead_of_hit (h := (h.dropReq r.id).anyWay.2) (h.dropReq r.id).anyWay.1 alive unlisted found good true
  have window : ((h.dropReq r.id).mem (h.home (r.addr / 128))).combine (r.addr / 128) = none := noWindow
  simp only [Hw.readAtHome, window, hits, Hw.serveRead, read, Bool.not_false, if_true]
  rfl

theorem Hw.readAtHome_of_miss (noWindow : (h.mem (h.home (r.addr / 128))).combine (r.addr / 128) = none)
    (misses : h.misses (r.addr / 128) = true) :
    h.readAtHome r = (h.dropReq r.id).updMem (h.home (r.addr / 128)) fun x => { x with combines := x.combines ++
      [{ line := r.addr / 128, issued := decide (fld (gddrPg h (h.home (r.addr / 128)) 0x048) 8 0 = 0), joined := [r] }] } := by
  have window : ((h.dropReq r.id).mem (h.home (r.addr / 128))).combine (r.addr / 128) = none := noWindow
  have miss : (h.dropReq r.id).misses (r.addr / 128) = true := misses
  simp only [Hw.readAtHome, window, miss, Bool.not_true, Bool.false_eq_true, if_false]
  rfl

/-- A read of a line with a window joins it, or queues behind its held writes. -/
theorem Hw.readAtHome_of_window {c : Combine} (window : (h.mem (h.home (r.addr / 128))).combine (r.addr / 128) = some c) :
    h.readAtHome r = if c.held = [] then
      ((h.dropReq r.id).updMem (h.home (r.addr / 128)) fun x => x.setCombine { c with joined := c.joined ++ [r] }).bumpSat
        (20 + h.home (r.addr / 128)) 0x010 0x050
      else (h.dropReq r.id).updMem (h.home (r.addr / 128)) fun x => x.setCombine { c with queued := c.queued ++ [r] } := by
  have waits : ((h.dropReq r.id).mem (h.home (r.addr / 128))).combine (r.addr / 128) = some c := window
  simp only [Hw.readAtHome, waits]

/-- A partial write of a good cached line with no window (R230, R231). -/
theorem Hw.writeAtHome_of_hit (calm : h.calm) (noWindow : (h.mem (h.home (r.addr / 128))).combine (r.addr / 128) = none)
    (ready : h.chanReady (r.addr / 128) = true) (alive : h.lineDead (r.addr / 128) = false) (clean : r.poison = false)
    (part : r.data.length ≠ 128) {l : MLine} (found : (h.mem (h.home (r.addr / 128))).find (r.addr / 128) = some l)
    (good : l.bad = 0) (unlisted : (h.mem (h.home (r.addr / 128))).poison.contains (r.addr / 128) = false) (w : Fin 16) :
    ∃ l', (h.writeAtHome r w).rsps = h.rsps ++ [r.answered []] ∧
      (h.writeAtHome r w).reqs = h.reqs.filter (fun x => x.id != r.id) ∧
      ((h.writeAtHome r w).mem (h.home (r.addr / 128))).find (r.addr / 128) = some l' ∧
      l'.bytes = mergeLine (r.addr / 128) l.bytes r.data ∧ l'.dirty = true ∧ l'.bad = 0 := by
  have calmDrop := Hw.calm_dropReq calm r.id
  have counted := Hw.quiet_bump calmDrop (20 + h.home (r.addr / 128)) 0x011 (o := 0x048) (by decide)
  have write := Hw.mscWrite_of_hit (h := h.dropReq r.id) w calmDrop alive unlisted found good part
  let new : MLine := { line := r.addr / 128, way := l.way, bytes := mergeLine (r.addr / 128) l.bytes r.data, dirty := true }
  have quiet := Hw.quiet_mscPut counted.calm new l.way
  obtain ⟨way, lines, die⟩ := Hw.mem_mscPut counted.calm new l.way
  have served : h.writeAtHome r w = (((h.dropReq r.id).bump (20 + h.home (r.addr / 128)) 0x011 0x048).mscPut new l.way).answer
      r [] none := by
    simp only [Hw.writeAtHome, noWindow, ready, Hw.serveWrite, clean]
    exact congrArg (fun x : Hw × Option Nat => x.1.answer r [] x.2) write
  rw [served, Hw.answer_of_calm quiet.calm]
  refine ⟨{ new with way := way }, ?_, quiet.reqs, ?_, rfl, rfl, rfl⟩
  · exact congrArg (· ++ [r.answered []]) quiet.rsps
  · exact (congrArg (fun x : MemDie => x.find (r.addr / 128)) die).trans
      (MemDie.find_cons_self (l := { new with way := way }))

/-- A write behind a window of its line closes it and is held (R233). -/
theorem Hw.writeAtHome_of_window {c : Combine} (window : (h.mem (h.home (r.addr / 128))).combine (r.addr / 128) = some c)
    (ready : h.chanReady (r.addr / 128) = true) (w : Fin 16) :
    (h.writeAtHome r w).mems = ((h.dropReq r.id).updMem (h.home (r.addr / 128)) fun x =>
      x.setCombine { c with issued := true, held := c.held ++ [r] }).mems ∧
    (h.writeAtHome r w).reqs = h.reqs.filter (fun x => x.id != r.id) ∧ (h.writeAtHome r w).rsps = h.rsps := by
  have waits : ((h.dropReq r.id).mem (h.home (r.addr / 128))).combine (r.addr / 128) = some c := window
  have held : h.writeAtHome r w = h.holdWrite r := by
    simp only [Hw.writeAtHome, window, ready, Option.isSome_some, Bool.true_or, if_true, Bool.true_eq_false, false_and, if_false]
  rw [held]
  simp only [Hw.holdWrite, waits]
  exact ⟨rfl, rfl, rfl⟩

end Home

/-- The window of a line is gone from its die. -/
def MemDie.dropWindow (x : MemDie) (line : Nat) : MemDie := { x with combines := x.combines.filter fun d => d.line != line }

theorem MemDie.combine_dropWindow (x : MemDie) (line : Nat) : (x.dropWindow line).combine line = none := by
  simp [MemDie.combine, MemDie.dropWindow]

theorem Hw.windowClose_of_window {h : Hw} {m : Fin 16} {line : Nat} {c : Combine} (window : (h.mem m.val).combine line = some c) :
    h.windowClose m line = h.updMem m.val fun x => x.setCombine { c with issued := true } := by
  simp only [Hw.windowClose, window]

section Fill
variable {h : Hw} {m : Fin 16} {line : Nat} {c : Combine} {r : MReq} {w : Fin 16}

/-- A fill that one read waits for: the window goes, the line is read, and the read is answered. -/
theorem Hw.fillLands_of_joined (window : (h.mem m.val).combine line = some c) (issued : c.issued = true) (one : c.joined = [r])
    (noHeld : c.held = []) (noQueued : c.queued = []) (ready : h.chanReady line = true) {g : Hw} {bs : List Byte}
    (read : (h.updMem m.val fun x => x.dropWindow line).mscRead line true w = (g, .ok bs)) :
    h.fillLands m line w = g.answer r (lineSlice r bs) none := by
  unfold MemDie.dropWindow at read
  simp only [Hw.fillLands, window, issued, one, noHeld, noQueued, ready, read, Bool.not_true, Bool.or_self, Bool.false_eq_true,
    if_false, List.foldl_cons, List.foldl_nil]

/-- The fill of an uncached line for one joined read: the line is cached and the read answered from it (R233). -/
theorem Hw.fillLands_of_absent (calm : h.calm) (window : (h.mem m.val).combine line = some c) (home : m.val = h.home line)
    (issued : c.issued = true) (one : c.joined = [r]) (noHeld : c.held = []) (noQueued : c.queued = [])
    (ready : h.chanReady line = true) (alive : h.lineDead line = false) (absent : (h.mem m.val).find line = none)
    (unlisted : (h.mem m.val).poison.contains line = false) :
    ∃ l, (h.fillLands m line w).rsps = h.rsps ++ [r.answered (lineSlice r (h.gddrLine line))] ∧
      ((h.fillLands m line w).mem m.val).combine line = none ∧ ((h.fillLands m line w).mem m.val).find line = some l ∧
      l.bytes = h.gddrLine line ∧ l.dirty = false := by
  rw [home] at absent unlisted
  let g := h.updMem m.val fun x => x.dropWindow line
  let counted := g.bump (20 + h.home line) 0x011 0x04C
  let new : MLine := { line := line, way := w, bytes := h.gddrLine line, dirty := false }
  have calmBehind : g.calm := Hw.calm_updMem calm m.val _
  have die : g.mem (h.home line) = (h.mem (h.home line)).dropWindow line := by rw [← home, Hw.mem_updMem_self]
  have read : g.mscRead line true w = (counted.mscPut new w, .ok (h.gddrLine line)) :=
    Hw.mscRead_of_absent w calmBehind ((congrArg (fun x : MemDie => x.chan (h.chanOf line) == .dead) die).trans alive)
      ((congrArg (fun x : MemDie => x.poison.contains line) die).trans unlisted)
      ((congrArg (fun x : MemDie => x.find line) die).trans absent)
  have calmCounted : counted.calm := (Hw.quiet_bump calmBehind _ _ (by decide)).calm
  have quiet := Hw.quiet_mscPut calmCounted new w
  obtain ⟨way, lines, put⟩ := Hw.mem_mscPut calmCounted new w
  have whole : (counted.mscPut new w).mem m.val =
      { (h.mem (h.home line)).dropWindow line with lines := { new with way := way } :: lines } :=
    (congrArg (counted.mscPut new w).mem home).trans
      (put.trans (congrArg (fun x : MemDie => { x with lines := { new with way := way } :: lines }) die))
  rw [Hw.fillLands_of_joined window issued one noHeld noQueued ready read, Hw.answer_of_calm quiet.calm]
  refine ⟨{ new with way := way }, ?_, ?_, ?_, rfl, rfl⟩
  · exact congrArg (· ++ [r.answered (lineSlice r (h.gddrLine line))]) quiet.rsps
  · exact (congrArg (fun x : MemDie => x.combine line) whole).trans (MemDie.combine_dropWindow _ line)
  · exact (congrArg (fun x : MemDie => x.find line) whole).trans (MemDie.find_cons_self (l := { new with way := way }))

end Fill

end Sys2Proof.Machine
end

section
/-! Tracking and retraining of the GDDR7 channels (R227, R228): which retrain starts next, and what its end leaves. -/

namespace Sys2Proof.Machine

/-! ### What K0's records of an event leave alone -/

/-- Nothing but K0 and its pages changed, of what the memory tiers consult: an entry of the record and a published site map. -/
structure Hw.OnlyK0 (h g : Hw) : Prop where
  variant : g.variant = h.variant
  mems : g.mems = h.mems
  units : g.units = h.units
  cxlPorts : g.cxlPorts = h.cxlPorts
  pages : ∀ d b o, regKey d b o < regKey 39 0 0 → g.pg d b o = h.pg d b o

theorem Hw.OnlyK0.refl (h : Hw) : h.OnlyK0 h := ⟨rfl, rfl, rfl, rfl, fun _ _ _ _ => rfl⟩

section OnlyK0
variable {h g : Hw} (only : h.OnlyK0 g)
include only

theorem Hw.OnlyK0.setPg (b o : Nat) (v : W32) : h.OnlyK0 (g.setPg 39 b o v) where
  variant := only.variant
  mems := only.mems
  units := only.units
  cxlPorts := only.cxlPorts
  pages d b' o' below := by
    have apart : regKey d b' o' ≠ regKey 39 b o := by simp only [regKey] at below ⊢; omega
    rw [g.pg_setPg_of_ne 39 b o v d b' o' apart, only.pages d b' o' below]

theorem Hw.OnlyK0.updPg (b o : Nat) (f : W32 → W32) : h.OnlyK0 (g.updPg 39 b o f) := only.setPg b o _

theorem Hw.OnlyK0.updK (f : K0 → K0) : h.OnlyK0 (g.updK f) :=
  ⟨only.variant, only.mems, only.units, only.cxlPorts, only.pages⟩

theorem Hw.OnlyK0.pf (code d b : Nat) (d0 d1 : W32) : h.OnlyK0 (g.pf code d b d0 d1) := by
  unfold Hw.pf
  split
  · exact only.updPg _ _ _
  · exact only.updK _

theorem Hw.OnlyK0.sendRaw (route : List (Nat × Nat × Nat)) (p : Pkt) : h.OnlyK0 (g.sendRaw route p) := by
  have counted : h.OnlyK0 (route.foldl (fun g x => g.countFlits p.flits x) g) :=
    List.foldlRecOn (motive := fun k : Hw => h.OnlyK0 k) route _ only fun _ same _ _ =>
      ⟨same.variant, same.mems, same.units, same.cxlPorts, same.pages⟩
  exact ⟨counted.variant, counted.mems, counted.units, counted.cxlPorts, counted.pages⟩

theorem Hw.OnlyK0.blkEvt (b i : Nat) : h.OnlyK0 (g.blkEvt 39 b i) := by
  unfold Hw.blkEvt
  split
  · exact only
  · dsimp only
    split
    · exact (only.updPg _ _ _).sendRaw _ _
    · exact only.updPg _ _ _

theorem Hw.OnlyK0.publish : h.OnlyK0 g.publish :=
  ((((((((((((only.updPg _ _ _).updK _).setPg _ _ _).setPg _ _ _).setPg _ _ _).setPg _ _ _).setPg _ _ _).setPg _ _ _).setPg
    _ _ _).updPg _ _ _).setPg _ _ _).blkEvt _ _)

theorem Hw.OnlyK0.failNow : h.OnlyK0 g.failNow := by
  unfold Hw.failNow
  split
  · exact only.updK _
  · exact only

theorem Hw.OnlyK0.leaveReady : h.OnlyK0 g.leaveReady := by
  unfold Hw.leaveReady
  split
  · exact only.updPg _ _ _
  · exact only

theorem Hw.OnlyK0.mem (m : Nat) : g.mem m = h.mem m := congrArg (fun t : Tab MemDie => lookD t m {}) only.mems

theorem Hw.OnlyK0.gddrPg (m : Fin 16) (o : Fin 4096) : gddrPg g m o = gddrPg h m o :=
  only.pages _ _ _ (by simp only [regKey]; omega)

theorem Hw.OnlyK0.unitDead (o : Nat) : g.unitDead o = h.unitDead o :=
  congrArg (fun t : Tab UnitSt => (lookD t o {}).dead) only.units

end OnlyK0

/-- Which units are FUSED the part number alone says (R36). -/
theorem Hw.unitFused_of_variant {h g : Hw} (same : g.variant = h.variant) (o : Nat) : g.unitFused o = h.unitFused o := by
  simp only [Hw.unitFused, same]

/-- What becomes DEAD with its entry in the record: one unit, and nothing else of the tiers (R46). -/
theorem Hw.killUnit_keeps (h : Hw) (o : Nat) (cause : BitVec 3) :
    ∃ units, ({ h with units := units } : Hw).OnlyK0 (h.killUnit o cause) ∧
      (h.unitFused o = false → (lookD units o {}).dead = true) := by
  unfold Hw.killUnit
  split
  case isTrue no =>
    exact ⟨h.units, .refl h, fun live => no.resolve_left (by simp [live])⟩
  case isFalse =>
    exact ⟨_, (Hw.OnlyK0.refl _).pf _ _ _ _ _, fun _ => by rw [lookD_put_self]⟩

/-! ### Channels -/

/-- The channels of a die whose retrain is requested, MEM_CTL.retrain_req (R227). -/
def Hw.asked (h : Hw) (m : Fin 16) : BitVec 8 := (gddrPg h m.val 0x040).setWidth 8

/-- A retrain of channel `c` starts, and is counted. -/
def Hw.retrains (h : Hw) (m : Fin 16) (c : Nat) : Hw := (h.setChan m c .retrain).bumpSat (20 + m.val) 0x010 0x058

section Channel
variable {h : Hw} {m : Fin 16}

theorem Hw.chan_setChan (h : Hw) (m : Fin 16) (c n : Nat) (st : ChanSt) :
    ((h.setChan m c st).mem m.val).chan n = if n = c then st else (h.mem m.val).chan n := by
  simp [Hw.setChan, MemDie.chan, lookD_put]

theorem Hw.combines_setChan (h : Hw) (m : Fin 16) (c : Nat) (st : ChanSt) :
    ((h.setChan m c st).mem m.val).combines = (h.mem m.val).combines := by
  simp [Hw.setChan]

theorem MemDie.not_paused {x : MemDie} (ready : ∀ n < 8, x.chan n = .ready) : x.paused = false := by
  rw [MemDie.paused, List.any_eq_false]
  intro n below
  simp [ready n (List.mem_range.mp below)]

theorem Hw.getLsbD_asked (h : Hw) (m : Fin 16) {c : Nat} (below : c < 8) :
    (gddrPg h m.val 0x040).getLsbD c = (h.asked m).getLsbD c := by
  simp [Hw.asked, below]

theorem Hw.startRetrain_of_none (unasked : h.asked m = 0) : h.startRetrain m = h := by
  have next : ((List.range 8).find? fun c => (gddrPg h m.val 0x040).getLsbD c && (h.mem m.val).chan c != .dead) = none := by
    rw [List.find?_eq_none]
    intro c below
    simp [h.getLsbD_asked m (List.mem_range.mp below), unasked]
  simp only [Hw.startRetrain, next, ite_self]

theorem getLsbD_two_pow (c n : Nat) : (BitVec.ofNat 8 (2 ^ c)).getLsbD n = decide (n < 8 ∧ c = n) := by
  rw [BitVec.getLsbD_ofNat, Nat.testBit_two_pow, Bool.decide_and]

/-- The one retrain requested of a die whose channels do not pause starts. -/
theorem Hw.startRetrain_of_one (free : (h.mem m.val).paused = false) {c : Fin 8} (one : h.asked m = BitVec.ofNat 8 (2 ^ c.val))
    (ready : (h.mem m.val).chan c.val = .ready) : h.startRetrain m = h.retrains m c.val := by
  have next : ((List.range 8).find? fun c => (gddrPg h m.val 0x040).getLsbD c && (h.mem m.val).chan c != .dead) = some c.val := by
    rw [List.find?_range_eq_some]
    refine ⟨?_, List.mem_range.mpr c.isLt, fun j before => ?_⟩
    · rw [h.getLsbD_asked m c.isLt, one, getLsbD_two_pow, ready]
      simp
    · have apart : c.val ≠ j := Nat.ne_of_gt before
      rw [h.getLsbD_asked m (Nat.lt_trans before c.isLt), one, getLsbD_two_pow]
      simp [apart]
  simp only [Hw.startRetrain, free, next, Bool.false_eq_true, if_false]
  rfl

/-- No request waits: a channel that is ready again has nothing to resume (R228). -/
theorem Hw.chanResumes_of_none (idle : (h.mem m.val).combines = []) (ch : Nat) : h.chanResumes m ch = h := by
  simp [Hw.chanResumes, idle]

/-- A request for one more retrain, with none pending. -/
theorem asked_or (v : W32) (unasked : v.setWidth 8 = (0 : BitVec 8)) (c : Fin 8) :
    (v ||| BitVec.ofNat 32 (2 ^ c.val)).setWidth 8 = BitVec.ofNat 8 (2 ^ c.val) := by
  have low : (BitVec.ofNat 32 (2 ^ c.val)).setWidth 8 = BitVec.ofNat 8 (2 ^ c.val) := by revert c; decide
  rw [BitVec.setWidth_or, unasked, low]
  exact BitVec.zero_or

/-- A bit set in a word is set in its low bits. -/
theorem setWidth_setBit (v : W32) (i : Nat) (b : Bool) : (setBit v i b).setWidth 8 = setBit (v.setWidth 8 : BitVec 8) i b := by
  simp [setBit, setFld, merge, BitVec.setWidth_or, BitVec.setWidth_and, BitVec.setWidth_not, BitVec.setWidth_ofNat_of_le]

/-- The request of the only retrain pending goes. -/
theorem asked_setBit (v : W32) (c : Fin 8) (one : v.setWidth 8 = BitVec.ofNat 8 (2 ^ c.val)) :
    (setBit v c.val false).setWidth 8 = (0 : BitVec 8) := by
  rw [setWidth_setBit, one]
  clear one
  revert c
  decide

theorem Hw.trackingEnd_of_none {ch : Fin 8} (tracks : (h.mem m.val).chan ch.val = .tracking) (idle : (h.mem m.val).combines = []) :
    h.trackingEnd m ch = (h.setChan m ch.val .ready).startRetrain m := by
  have idleBehind := (h.combines_setChan m ch.val .ready).trans idle
  simp only [Hw.trackingEnd, tracks, if_true, Hw.chanResumes_of_none idleBehind]

/-- With every other channel ready, the end of a pause starts the one retrain requested. -/
theorem Hw.trackingEnd_of_one {ch c : Fin 8} (tracks : (h.mem m.val).chan ch.val = .tracking)
    (idle : (h.mem m.val).combines = []) (ready : ∀ n < 8, n ≠ ch.val → (h.mem m.val).chan n = .ready)
    (one : h.asked m = BitVec.ofNat 8 (2 ^ c.val)) : h.trackingEnd m ch = (h.setChan m ch.val .ready).retrains m c.val := by
  have allReady : ∀ n < 8, ((h.setChan m ch.val .ready).mem m.val).chan n = .ready := by
    intro n below
    rw [Hw.chan_setChan]
    split
    case isTrue => rfl
    case isFalse other => exact ready n below other
  exact (Hw.trackingEnd_of_none tracks idle).trans
    (Hw.startRetrain_of_one (MemDie.not_paused allReady) one (allReady c.val c.isLt))

theorem Hw.tracking_of_turn {ch : Fin 8} (free : (h.mem m.val).paused = false) (turn : (h.mem m.val).toTrack = some ch.val)
    (awake : (h.mem m.val).selfRefresh = false) (live : h.fusedDie (20 + m.val) = false)
    (period : fld (gddrPg h m.val 0x040) 15 8 ≠ 0) :
    h.tracking m ch = ((h.updMem m.val fun x => { x with nextTrack := (ch.val + 1) % 8 }).setChan m ch.val .tracking).bumpSat
      (20 + m.val) 0x010 0x054 := by
  simp only [Hw.tracking, free, turn, awake, live, period, bne_self_eq_false, decide_false, Bool.or_self, Bool.false_eq_true,
    if_false]

/-- A retrain of one channel is requested of a die with no other pending and no channel that pauses. -/
theorem Hw.retrainReq_of_one {ch : Fin 8} (free : (h.mem m.val).paused = false) (ready : (h.mem m.val).chan ch.val = .ready)
    (live : h.fusedDie (20 + m.val) = false) (unasked : h.asked m = 0) :
    h.retrainReq m (BitVec.ofNat 8 (2 ^ ch.val)) =
      (h.updPg (20 + m.val) 0x010 0x040 fun v => v ||| BitVec.ofNat 32 (2 ^ ch.val)).retrains m ch.val := by
  let g := h.updPg (20 + m.val) 0x010 0x040 fun v => v ||| BitVec.ofNat 32 (2 ^ ch.val)
  have mask : (BitVec.ofNat 8 (2 ^ ch.val)).setWidth 32 = BitVec.ofNat 32 (2 ^ ch.val) := by clear ready; revert ch; decide
  have one : g.asked m = BitVec.ofNat 8 (2 ^ ch.val) := by
    rw [Hw.asked, gddrPg, Hw.pg_updPg_self]
    exact asked_or _ unasked ch
  simp only [Hw.retrainReq, live, mask, Bool.false_eq_true, if_false]
  exact Hw.startRetrain_of_one (h := g) free one ready

theorem Hw.crcThreshold_of_one {ch : Fin 8} (free : (h.mem m.val).paused = false) (ready : (h.mem m.val).chan ch.val = .ready)
    (live : h.fusedDie (20 + m.val) = false) (unasked : h.asked m = 0) :
    h.crcThreshold m ch = ((h.updPg (20 + m.val) 0x010 0x05C fun v => satAdd 32 v 65).updPg (20 + m.val) 0x010 0x040
      fun v => v ||| BitVec.ofNat 32 (2 ^ ch.val)).retrains m ch.val := by
  let g := h.updPg (20 + m.val) 0x010 0x05C fun v => satAdd 32 v 65
  have unaskedBehind : g.asked m = 0 := by
    rw [Hw.asked, gddrPg, Hw.pg_updPg_offset _ _ _ _ _ _ (by decide)]
    exact unasked
  simp only [Hw.crcThreshold, live, Bool.false_eq_true, if_false]
  exact Hw.retrainReq_of_one (h := g) free ready live unaskedBehind

/-! ### The end of a retrain (R227) -/

/-- The end of a retrain as recorded, and its request cleared. -/
def Hw.retrainEnds (h : Hw) (m : Fin 16) (ch : Fin 8) (pass : Bool) : Hw :=
  (h.pf 0x23 (20 + m.val) 0x010 (BitVec.ofNat 32 ch.val) (bit 32 !pass)).updPg (20 + m.val) 0x010 0x040 fun v =>
    setBit v ch.val false

theorem Hw.mem_retrainEnds (h : Hw) (m : Fin 16) (ch : Fin 8) (pass : Bool) (n : Nat) :
    (h.retrainEnds m ch pass).mem n = h.mem n :=
  ((Hw.OnlyK0.refl h).pf 0x23 (20 + m.val) 0x010 (BitVec.ofNat 32 ch.val) (bit 32 !pass)).mem n

theorem Hw.asked_retrainEnds {ch : Fin 8} (one : h.asked m = BitVec.ofNat 8 (2 ^ ch.val)) (pass : Bool) :
    (h.retrainEnds m ch pass).asked m = 0 := by
  have page := ((Hw.OnlyK0.refl h).pf 0x23 (20 + m.val) 0x010 (BitVec.ofNat 32 ch.val) (bit 32 !pass)).gddrPg m 0x040
  rw [Hw.asked, gddrPg, Hw.retrainEnds, Hw.pg_updPg_self]
  exact asked_setBit _ ch ((congrArg (BitVec.setWidth 8) page).trans one)

/-- A retrain that passes makes its channel ready. -/
theorem Hw.retrainDone_of_pass {ch : Fin 8} (runs : (h.mem m.val).chan ch.val = .retrain) (idle : (h.mem m.val).combines = [])
    (one : h.asked m = BitVec.ofNat 8 (2 ^ ch.val)) :
    h.retrainDone m ch true = (h.retrainEnds m ch true).setChan m ch.val .ready := by
  let g := (h.retrainEnds m ch true).setChan m ch.val .ready
  have idleBehind : (g.mem m.val).combines = [] := by
    rw [Hw.combines_setChan, Hw.mem_retrainEnds, idle]
  have rest : (g.chanResumes m ch.val).startRetrain m = g := by
    rw [Hw.chanResumes_of_none idleBehind]
    exact Hw.startRetrain_of_none (Hw.asked_retrainEnds one true)
  simp only [Hw.retrainDone, runs, ne_eq, not_true_eq_false, if_false, if_true]
  exact rest

theorem Hw.chan_retrainDone_of_pass {ch : Fin 8} (runs : (h.mem m.val).chan ch.val = .retrain)
    (idle : (h.mem m.val).combines = []) (one : h.asked m = BitVec.ofNat 8 (2 ^ ch.val)) :
    ((h.retrainDone m ch true).mem m.val).chan ch.val = .ready := by
  rw [Hw.retrainDone_of_pass runs idle one, Hw.chan_setChan, if_pos rfl]

/-- The device of a channel, by its offset in block 0x023 (R46): two channels each. -/
def deviceOf (m : Fin 16) (ch : Fin 8) : Nat := 0x100 + 4 * (4 * m.val + ch.val / 2)

/-- Both channels of a device DEAD. -/
def Hw.deviceDies (h : Hw) (m : Fin 16) (ch : Fin 8) : Hw :=
  (h.setChan m (2 * (ch.val / 2)) .dead).setChan m (2 * (ch.val / 2) + 1) .dead

/-- A retrain that fails leaves its device DEAD, which K0 records and publishes. -/
theorem Hw.retrainDone_of_fail {ch : Fin 8} (runs : (h.mem m.val).chan ch.val = .retrain) (idle : (h.mem m.val).combines = [])
    (one : h.asked m = BitVec.ofNat 8 (2 ^ ch.val)) :
    h.retrainDone m ch false =
      ((((h.retrainEnds m ch false).deviceDies m ch).killUnit (deviceOf m ch) 3).failNow.leaveReady.publish) := by
  let g := (h.retrainEnds m ch false).deviceDies m ch
  obtain ⟨units, killed, -⟩ := g.killUnit_keeps (deviceOf m ch) 3
  have only := killed.failNow.leaveReady.publish
  let k := (g.killUnit (deviceOf m ch) 3).failNow.leaveReady.publish
  have idleBehind : (k.mem m.val).combines = [] := by
    rw [only.mem]
    exact ((Hw.combines_setChan _ m _ .dead).trans (Hw.combines_setChan _ m _ .dead)).trans
      ((congrArg MemDie.combines (h.mem_retrainEnds m ch false m.val)).trans idle)
  have unasked : k.asked m = 0 :=
    (congrArg (BitVec.setWidth 8) (only.gddrPg m 0x040)).trans (Hw.asked_retrainEnds one false)
  have rest : ((k.chanResumes m (2 * (ch.val / 2))).chanResumes m (2 * (ch.val / 2) + 1)).startRetrain m = k := by
    rw [Hw.chanResumes_of_none idleBehind, Hw.chanResumes_of_none idleBehind]
    exact Hw.startRetrain_of_none unasked
  simp only [Hw.retrainDone, runs, ne_eq, not_true_eq_false, Bool.false_eq_true, if_false]
  exact rest

/-- What a failed retrain leaves of the device: its channels and its unit DEAD. -/
theorem Hw.device_retrainDone {ch : Fin 8} (runs : (h.mem m.val).chan ch.val = .retrain) (idle : (h.mem m.val).combines = [])
    (one : h.asked m = BitVec.ofNat 8 (2 ^ ch.val)) (live : h.unitFused (deviceOf m ch) = false) :
    ((h.retrainDone m ch false).mem m.val).chan (2 * (ch.val / 2)) = .dead ∧
      ((h.retrainDone m ch false).mem m.val).chan (2 * (ch.val / 2) + 1) = .dead ∧
      (h.retrainDone m ch false).unitDead (deviceOf m ch) = true := by
  obtain ⟨units, killed, dead⟩ := ((h.retrainEnds m ch false).deviceDies m ch).killUnit_keeps (deviceOf m ch) 3
  have only := killed.failNow.leaveReady.publish
  have variant := ((Hw.OnlyK0.refl h).pf 0x23 (20 + m.val) 0x010 (BitVec.ofNat 32 ch.val) (bit 32 !false)).variant
  have liveBehind : ((h.retrainEnds m ch false).deviceDies m ch).unitFused (deviceOf m ch) = false :=
    (Hw.unitFused_of_variant variant _).trans live
  have chans (n : Nat) : (((h.retrainEnds m ch false).deviceDies m ch).mem m.val).chan n =
      if n = 2 * (ch.val / 2) + 1 then .dead else if n = 2 * (ch.val / 2) then .dead else (h.mem m.val).chan n := by
    rw [Hw.deviceDies, Hw.chan_setChan, Hw.chan_setChan, Hw.mem_retrainEnds]
  rw [Hw.retrainDone_of_fail runs idle one, only.mem, only.unitDead]
  refine ⟨(chans _).trans ?_, (chans _).trans ?_, dead liveBehind⟩
  · rw [if_pos rfl, ite_self]
  · rw [if_pos rfl]

end Channel

end Sys2Proof.Machine
end

section
/-! The write-back of a cache and the CXL tier (R232, R237–R239): accesses at X0, enumeration, and a port that goes down. -/

namespace Sys2Proof.Machine

/-! ### MSC_FLUSH (R232) -/

theorem Hw.mems_writeBacks {h : Hw} (calm : h.calm) (lines : List MLine) :
    (lines.foldl (fun g l => g.toGddr l) h).mems = h.mems := by
  induction lines generalizing h with
  | nil => rfl
  | cons l rest ih => exact (ih (Hw.quiet_toGddr calm l).calm).trans (Hw.mems_toGddr calm l)

theorem Hw.lines_mscFlush {h : Hw} (calm : h.calm) (m : Nat) :
    ((h.mscFlush m).mem m).lines = (h.mem m).lines.map fun l => { l with dirty := false } := by
  rw [Hw.mscFlush, Hw.mem_updMem_self, Hw.mem, Hw.mems_writeBacks calm, ← Hw.mem]

theorem Hw.gddr_mscFlush_of_one {h : Hw} (calm : h.calm) {m : Nat} {l : MLine}
    (one : (h.mem m).lines.filter (fun l => l.dirty) = [l]) :
    (h.mscFlush m).gddr = h.gddr.writeN (128 * l.line) (h.padN (128 * l.line) l.bytes) := by
  simp only [Hw.mscFlush, one, List.foldl_cons, List.foldl_nil, Hw.toGddr_of_calm calm]
  rfl

/-! ### Accesses of the CXL tier (R238, R239, R260) -/

/-- `n` link replays counted at port `p` of X0. -/
def Hw.replayed (h : Hw) (p n : Nat) : Hw := h.updPg 38 (0x020 + p) 0x044 fun v => satAdd 32 v n

section Cxl
variable {h : Hw}

/-- The count of replays is no other register of its page, and no register of the tier's own page. -/
theorem Hw.pg_replayed (h : Hw) (p n : Nat) {b o : Nat} (small : o < 4096) (other : o ≠ 0x044 ∨ b < 0x020) :
    (h.replayed p n).pg 38 b o = h.pg 38 b o := by
  have apart : regKey 38 b o ≠ regKey 38 (0x020 + p) 0x044 := by simp only [regKey]; omega
  exact h.pg_setPg_of_ne _ _ _ _ _ _ _ apart

theorem Hw.cxlSeq_of_ports {g : Hw} (same : g.cxlPorts = h.cxlPorts) (o : Nat) (ps : List Nat) : g.cxlSeq o ps = h.cxlSeq o ps := by
  induction ps generalizing o with
  | nil => rfl
  | cons p ps ih =>
    have port : g.cxlPort p = h.cxlPort p := congrArg (fun t : Tab CxlPort => lookD t p {}) same
    rw [Hw.cxlSeq, Hw.cxlSeq, port, ih]

/-- Where a tier offset lies the mapped ports and two registers of X0 say (R238). -/
theorem Hw.cxlLoc_of_ports {g : Hw} (ports : g.cxlPorts = h.cxlPorts) (top : g.pg 38 0x010 0x048 = h.pg 38 0x010 0x048)
    (ctl : g.pg 38 0x010 0x044 = h.pg 38 0x010 0x044) (o : Nat) : g.cxlLoc o = h.cxlLoc o := by
  rw [Hw.cxlLoc, Hw.cxlLoc, Hw.cxlTop, Hw.cxlTop, top, ctl, Hw.cxlSeq_of_ports ports]

theorem Hw.cxlLoc_replayed (h : Hw) (p n o : Nat) : (h.replayed p n).cxlLoc o = h.cxlLoc o := by
  have top : (h.replayed p n).pg 38 0x010 0x048 = h.pg 38 0x010 0x048 := h.pg_replayed p n (by decide) (.inr (by decide))
  have ctl : (h.replayed p n).pg 38 0x010 0x044 = h.pg 38 0x010 0x044 := h.pg_replayed p n (by decide) (.inr (by decide))
  exact Hw.cxlLoc_of_ports (g := h.replayed p n) (h := h) rfl top ctl o

theorem Hw.cxlLoc_dropReq (h : Hw) (id o : Nat) : (h.dropReq id).cxlLoc o = h.cxlLoc o :=
  Hw.cxlLoc_of_ports (g := h.dropReq id) (h := h) rfl rfl rfl o

theorem Hw.cxlRefuses_replayed (h : Hw) (p n q : Nat) : (h.replayed p n).cxlRefuses q = h.cxlRefuses q := by
  have service : (h.replayed p n).svc 38 (0x020 + q) = h.svc 38 (0x020 + q) := by
    simp only [Hw.svc, h.pg_replayed p n (b := 0x020 + q) (o := 0x024) (by decide) (.inl (by decide))]
    rfl
  simp only [Hw.cxlRefuses, service, h.pg_replayed p n (b := 0x010) (o := 0x044) (by decide) (.inr (by decide))]
  rfl

theorem Hw.calm_replayed (calm : h.calm) (p n : Nat) : (h.replayed p n).calm := Hw.calm_setPg calm _ _ _ (by decide)

variable {r : MReq} {id line : Nat} {p : Nat × Nat}

/-! The two lemmas below unfold a function whose first step looks up `128 * line - cxlBase`: Lean's kernel, asked to compare the
function's application with its body, evaluates that look-up and counts `cxlBase` down by ones. So they generalize the function and
unfold it in the equation that names it, where the kernel compares it with its own definition only. -/

theorem Hw.cxlRead_of_port (calm : h.calm) (found : h.cxlLoc (128 * line - cxlBase) = some p) (up : h.cxlRefuses p.1 = false)
    (clean : h.cxlPoison.contains (cxlKey p) = false) :
    h.cxlRead line = (h, .ok (h.padN (128 * line) (h.cxlMem.readN (cxlKey p) 128))) := by
  generalize read : Hw.cxlRead = f
  delta Hw.cxlRead at read
  subst read
  simp only [found, up, Hw.inject_of_calm calm, clean, Bool.false_eq_true, if_false]

theorem Hw.cxlReplays_of_port (found : h.cxlLoc (128 * line - cxlBase) = some p) (up : h.cxlRefuses p.1 = false) (n : Nat) :
    h.cxlReplays line n = h.replayed p.1 n := by
  generalize count : Hw.cxlReplays = f
  delta Hw.cxlReplays at count
  subst count
  simp only [found, up, Bool.false_eq_true, if_false]
  rfl

/-- A whole line without poison is written, and a poison of it ends. -/
theorem Hw.cxlWrite_of_whole (found : h.cxlLoc (128 * line - cxlBase) = some p) (up : h.cxlRefuses p.1 = false)
    {data : List (Nat × Byte)} (whole : data.length = 128) :
    h.cxlWrite line data false = ({ h with
      cxlMem := h.cxlMem.writeN (cxlKey p) (h.padN (128 * line) (mergeLine line (List.replicate 128 0) data))
      cxlPoison := h.cxlPoison.filter fun k => k != cxlKey p }, none) := by
  simp only [Hw.cxlWrite, found, up, whole, Bool.false_eq_true, if_false, if_true]

section Serve
variable (ready : h.reqs.find? (fun x => x.id == id) = some r) (first : h.blocked r = false) (way : h.reqHeld r = false)
  (low : cxlBase ≤ r.addr) (high : r.addr < regBase) (awake : h.awake 38 = true)
  (found : h.cxlLoc (128 * (r.addr / 128) - cxlBase) = some p) (up : h.cxlRefuses p.1 = false)
include ready first way low high awake found up

/-- A read that nothing holds counts its replays at the port of its line and is answered from the device. -/
theorem Hw.cxlServe_of_read (calm : h.calm) (read : r.write = false) (clean : h.cxlPoison.contains (cxlKey p) = false)
    (replays : Nat) : h.cxlServe id replays = { (h.dropReq id).replayed p.1 replays with
      rsps := h.rsps ++ [r.answered (lineSlice r (h.padN (128 * (r.addr / 128)) (h.cxlMem.readN (cxlKey p) 128)))] } := by
  let g := (h.dropReq id).replayed p.1 replays
  have calmBehind : g.calm := Hw.calm_replayed (Hw.calm_dropReq calm id) _ _
  have loc := (h.cxlLoc_dropReq id _).trans found
  have count : (h.dropReq id).cxlReplays (r.addr / 128) replays = g :=
    Hw.cxlReplays_of_port (h := h.dropReq id) loc up replays
  have line : g.cxlRead (r.addr / 128) = (g, .ok (h.padN (128 * (r.addr / 128)) (h.cxlMem.readN (cxlKey p) 128))) :=
    Hw.cxlRead_of_port calmBehind (((h.dropReq id).cxlLoc_replayed p.1 replays _).trans loc)
      (((h.dropReq id).cxlRefuses_replayed p.1 replays p.1).trans up) clean
  simp only [Hw.cxlServe, ready, first, way, awake, Nat.not_lt.mpr low, Nat.not_le.mpr high, count, line, read,
    Hw.answer_of_calm calmBehind, Bool.false_eq_true, Bool.true_eq_false, or_self, if_false]
  rfl

/-- A whole-line write that nothing holds counts its replays and is performed in the device. -/
theorem Hw.cxlServe_of_write (calm : h.calm) (write : r.write = true) (whole : r.data.length = 128) (clean : r.poison = false)
    (replays : Nat) : h.cxlServe id replays = { (h.dropReq id).replayed p.1 replays with
      cxlMem := h.cxlMem.writeN (cxlKey p) (h.padN (128 * (r.addr / 128))
        (mergeLine (r.addr / 128) (List.replicate 128 0) r.data))
      cxlPoison := h.cxlPoison.filter fun k => k != cxlKey p
      rsps := h.rsps ++ [r.answered []] } := by
  let g := (h.dropReq id).replayed p.1 replays
  let put : Hw := { g with
    cxlMem := g.cxlMem.writeN (cxlKey p) (g.padN (128 * (r.addr / 128)) (mergeLine (r.addr / 128) (List.replicate 128 0) r.data))
    cxlPoison := g.cxlPoison.filter fun k => k != cxlKey p }
  have calmBehind : put.calm := Hw.calm_of_same_regs rfl rfl (Hw.calm_replayed (Hw.calm_dropReq calm id) p.1 replays)
  have loc := (h.cxlLoc_dropReq id _).trans found
  have count : (h.dropReq id).cxlReplays (r.addr / 128) replays = g :=
    Hw.cxlReplays_of_port (h := h.dropReq id) loc up replays
  have line : g.cxlWrite (r.addr / 128) r.data false = (put, none) :=
    Hw.cxlWrite_of_whole (((h.dropReq id).cxlLoc_replayed p.1 replays _).trans loc)
      (((h.dropReq id).cxlRefuses_replayed p.1 replays p.1).trans up) whole
  simp only [Hw.cxlServe, ready, first, way, awake, Nat.not_lt.mpr low, Nat.not_le.mpr high, count, line, write, clean,
    Hw.answer_of_calm calmBehind, Bool.false_eq_true, Bool.true_eq_false, or_self, if_false, if_true]
  rfl

end Serve

end Cxl

/-! ### Enumeration and the end of a port (R237–R239, R259) -/

/-- The device that port `p` trains on: none where the port is DEAD. -/
def Hw.cxlDevice (h : Hw) (devs : List CxlDev) (p : Nat) : Option CxlDev :=
  if h.unitDead (0x420 + 4 * p) then none else devs.find? fun x => x.port.val == p && cxlTrains x

theorem lookD_foldl_put {α : Type} (f : Nat → α) (d : α) (keys : List Nat) (t : Tab α) (n : Nat) :
    lookD (keys.foldl (fun t k => put t k (f k)) t) n d = if n ∈ keys then f n else lookD t n d := by
  induction keys generalizing t with
  | nil => simp
  | cons k rest ih =>
    rw [List.foldl_cons, ih, lookD_put]
    by_cases here : n = k
    · simp [here]
    · simp [here]

theorem Hw.cxlPorts_cxlEnum (h : Hw) (devs : List CxlDev) : ∃ size : Nat → Nat, (h.cxlEnum devs).cxlPorts =
    (List.range 4).foldl (fun t p => put t p
      { up := (h.cxlDevice devs p).isSome, mapped := decide (size p ≠ 0), size := size p }) h.cxlPorts := by
  unfold Hw.cxlEnum
  dsimp only
  generalize (cxlMap _ _).1 = sizes
  simp only [Hw.updPg_cxlPorts, Hw.setPg_cxlPorts]
  exact ⟨fun p => sizes.getD p 0, (List.foldl_hom Hw.cxlPorts fun _ _ => rfl).symm⟩

theorem Hw.cxlPort_cxlEnum (h : Hw) (devs : List CxlDev) (p : Fin 4) : ∃ size, (h.cxlEnum devs).cxlPort p.val =
    { up := (h.cxlDevice devs p.val).isSome, mapped := decide (size ≠ 0), size := size } := by
  obtain ⟨size, ports⟩ := h.cxlPorts_cxlEnum devs
  refine ⟨size p.val, ?_⟩
  rw [Hw.cxlPort, ports, lookD_foldl_put, if_pos (List.mem_range.mpr p.isLt)]

theorem Hw.isSome_cxlDevice (h : Hw) (devs : List CxlDev) (p : Fin 4) : (h.cxlDevice devs p.val).isSome =
    ((devs.find? fun x => x.port == p && cxlTrains x).isSome && !h.unitDead (0x420 + 4 * p.val)) := by
  have port (x : CxlDev) : (x.port == p) = (x.port.val == p.val) := by
    rw [Bool.eq_iff_iff, beq_iff_eq, beq_iff_eq, Fin.ext_iff]
  unfold Hw.cxlDevice
  simp only [port]
  cases h.unitDead (0x420 + 4 * p.val) <;> simp

theorem Hw.cxlPorts_cxlDown {h : Hw} {p : Nat} (up : (h.cxlPort p).up = true) :
    (h.cxlDown p).cxlPorts = put h.cxlPorts p { h.cxlPort p with up := false, dead := true } := by
  let g := ((({ h with cxlPorts := put h.cxlPorts p { h.cxlPort p with up := false, dead := true } } : Hw).updPg 38 0x010 0x044
    fun v => setBit v p false).setPg 38 (0x020 + p) 0x040 0)
  obtain ⟨units, killed, -⟩ := g.killUnit_keeps (0x420 + 4 * p) 3
  simp only [Hw.cxlDown, up, if_true]
  exact killed.publish.cxlPorts

/-- A port that goes down is DEAD, and the others are as before. -/
theorem Hw.cxlPort_cxlDown {h : Hw} {p : Fin 4} (up : (h.cxlPort p.val).up = true) :
    ((h.cxlDown p.val).cxlPort p.val).up = false ∧ ((h.cxlDown p.val).cxlPort p.val).dead = true ∧
      ∀ q : Fin 4, q ≠ p → (h.cxlDown p.val).cxlPort q.val = h.cxlPort q.val := by
  have port (q : Nat) : (h.cxlDown p.val).cxlPort q =
      if q = p.val then { h.cxlPort p.val with up := false, dead := true } else h.cxlPort q := by
    rw [Hw.cxlPort, Hw.cxlPorts_cxlDown up, lookD_put]
    rfl
  refine ⟨?_, ?_, fun q other => ?_⟩
  · rw [port, if_pos rfl]
  · rw [port, if_pos rfl]
  · rw [port, if_neg fun same => other (Fin.ext same)]

end Sys2Proof.Machine
end

section
/-! The memory tiers (R227–R239): each command by the lemma of its case. -/

namespace Sys2Proof.Machine

/-- Settles O51: requests at their home by what their line's window and cache hold, the channels by what is asked of them, and
the tier by the port of the line; calm hardware strikes no access. -/
theorem memoryAtItsHome : Obligations.MemoryAtItsHome := by
  unfold Obligations.MemoryAtItsHome
  intro s calm
  refine ⟨fun r id serve own => ⟨fun read gddr awake => ⟨fun l noWindow unlisted alive found good => ?readHits,
      fun noWindow misses => ?readMisses, fun c window => ?readJoins⟩, fun read page awake => ?pageRead,
      fun l w write gddr awake ready alive clean part found good unlisted =>
        ⟨fun noWindow => ?writeMerges, fun c window => ?writeIsHeld⟩,
      fun p replays low high awake found up => ⟨fun read clean => ?cxlRead, fun write whole clean => ?cxlWrite⟩⟩,
    fun m line c window => ⟨?windowCloses, fun r w home issued one noHeld noQueued ready alive absent unlisted => ?fillLands⟩,
    fun m => ⟨fun ch free turn awake live period => ?tracks,
      fun ch tracks idle => ⟨fun unasked => ?pauseEnds, fun c ready one => ?pauseEndsInRetrain⟩,
      fun ch free ready live unasked => ⟨?retrainAsked, ?crcRetries⟩, fun ch pass runs idle one => ?retrainEnds, ?flush⟩,
    fun devs isOpen => ?enumerates, fun p up => ?portDown⟩
  case readHits =>
    subst own
    have arrives := (Hw.readArrives_of_gddr (Hw.ready1_of_mayServe serve read) gddr awake).trans
      (Hw.readAtHome_of_hit noWindow unlisted alive found good)
    have counted := Hw.quiet_bump (Hw.calm_of_same_regs rfl rfl calm : (s.hw.dropReq r.id).anyWay.2.calm)
      (20 + s.hw.home (r.addr / 128)) 0x011 (o := 0x048) (by decide)
    exact ⟨_, congrArg s.leaves (arrives.trans (Hw.answer_of_calm counted.calm r _)), ⟨rfl, rfl⟩, rfl, rfl⟩
  case readMisses =>
    subst own
    exact congrArg s.leaves ((Hw.readArrives_of_gddr (Hw.ready1_of_mayServe serve read) gddr awake).trans
      (Hw.readAtHome_of_miss noWindow misses))
  case readJoins =>
    subst own
    exact congrArg s.leaves ((Hw.readArrives_of_gddr (Hw.ready1_of_mayServe serve read) gddr awake).trans
      (Hw.readAtHome_of_window window))
  case pageRead => exact congrArg s.leaves (Hw.readArrives_of_page calm (Hw.ready1_of_mayServe serve read) page awake)
  case writeMerges =>
    subst own
    have arrives := Hw.writeArrives_of_gddr (Hw.ready1_of_mayServe serve write) gddr awake w
    obtain ⟨l', rsps, reqs, new⟩ := Hw.writeAtHome_of_hit calm noWindow ready alive clean part found good unlisted w
    exact ⟨_, l', congrArg s.leaves arrives, ⟨rsps, reqs⟩, new⟩
  case writeIsHeld =>
    subst own
    have arrives := Hw.writeArrives_of_gddr (Hw.ready1_of_mayServe serve write) gddr awake w
    exact ⟨_, congrArg s.leaves arrives, Hw.writeAtHome_of_window window ready w⟩
  case cxlRead =>
    obtain ⟨asked, first, way⟩ := serve
    exact congrArg s.leaves (Hw.cxlServe_of_read asked first way low high awake found up calm read clean replays)
  case cxlWrite =>
    obtain ⟨asked, first, way⟩ := serve
    exact congrArg s.leaves (Hw.cxlServe_of_write asked first way low high awake found up calm write whole clean replays)
  case windowCloses => exact congrArg s.leaves (Hw.windowClose_of_window window)
  case fillLands =>
    obtain ⟨l, lands⟩ := Hw.fillLands_of_absent (w := w) calm window home issued one noHeld noQueued ready alive absent unlisted
    exact ⟨_, l, rfl, lands⟩
  case tracks => exact congrArg s.leaves (Hw.tracking_of_turn free turn awake live period)
  case pauseEnds => exact congrArg s.leaves ((Hw.trackingEnd_of_none tracks idle).trans (Hw.startRetrain_of_none unasked))
  case pauseEndsInRetrain => exact congrArg s.leaves (Hw.trackingEnd_of_one tracks idle ready one)
  case retrainAsked => exact congrArg s.leaves (Hw.retrainReq_of_one free ready live unasked)
  case crcRetries => exact congrArg s.leaves (Hw.crcThreshold_of_one free ready live unasked)
  case retrainEnds =>
    refine ⟨_, rfl, fun passes => ?_, fun fails live => ?_⟩
    · subst passes
      exact Hw.chan_retrainDone_of_pass runs idle one
    · subst fails
      exact Hw.device_retrainDone runs idle one live
  case flush => exact ⟨_, rfl, Hw.lines_mscFlush calm m.val, fun l one => Hw.gddr_mscFlush_of_one calm one⟩
  case enumerates =>
    refine ⟨_, congrArg s.leaves (Hw.onPage_open isOpen fun h => h.cxlEnum devs), fun p => ?_⟩
    obtain ⟨size, port⟩ := s.hw.cxlPort_cxlEnum devs p
    rw [port]
    exact ⟨s.hw.isSome_cxlDevice devs p, rfl, of_decide_eq_true⟩
  case portDown => exact ⟨_, rfl, Hw.cxlPort_cxlDown up⟩

end Sys2Proof.Machine
end

section
/-! The cadence (R298–R311): requests at the root, the beat that it issues, beats at the leaves, and leaves that rejoin. -/

namespace Sys2Proof.Machine

/-! ### Requests at the root (R298, R299, R301) -/

/-- The unit `u` is the starter that `ctl`, the value of CAD_ROOT_CTL, names, and `d` is its own die (R298, R311,
log 101). -/
def BeatSrc.startsAt (ctl : W32) (d : Nat) : BeatSrc → Prop
  | .core c => fld ctl 31 30 = 1 ∧ fld ctl 15 0 = c.val ∧ dieOf c.val = d
  | .chan (.core c n) => fld ctl 31 29 = 4 ∧ fld ctl 15 0 = c.val ∧ fld ctl 20 16 = n.val ∧ dieOf c.val = d
  | .chan (.hub e n) => fld ctl 31 29 = 5 ∧ fld ctl 15 0 = e.val * 256 ∧ fld ctl 20 16 = n.val ∧ e.val = d
  | .window => False

/-- The root's check of a request decides whether it is the starter's (R299). -/
theorem isStarter_and_beatDie_iff (ctl : W32) (d : Nat) (u : BeatSrc) :
    (isStarter ctl u && beatDie u == d) = true ↔ BeatSrc.startsAt ctl d u := by
  rcases u with c | ⟨c, n⟩ | ⟨e, n⟩ | _ <;>
    simp only [isStarter, beatDie, BeatSrc.startsAt, Bool.and_eq_true, beq_iff_eq, and_assoc, Bool.false_and,
      Bool.false_eq_true]

/-- The first request of die `d`'s leaf has left it, and the channel that made it goes on (R322). -/
def Hw.requestTaken (h : Hw) (d : Nat) (u : BeatSrc) (rest : List BeatSrc) : Hw :=
  (h.updDie d fun x => { x with beatReqs := rest }).rootDone u

section Arrival
variable {h : Hw} {d : Nat} {u : BeatSrc} {rest : List BeatSrc}

theorem Hw.beatArrives_of_starter (first : (h.die d).beatReqs = u :: rest) (starter : BeatSrc.startsAt (h.pg 39 cadBlk 0x040) d u)
    (room : h.k0.pendingBeats < 65535) : h.beatArrives d = (h.requestTaken d u rest).cadAccept := by
  simp only [Hw.beatArrives, first, (isStarter_and_beatDie_iff ..).mpr starter, if_true, if_neg (Nat.not_le.mpr room)]
  rfl

theorem Hw.beatArrives_of_full (first : (h.die d).beatReqs = u :: rest) (starter : BeatSrc.startsAt (h.pg 39 cadBlk 0x040) d u)
    (full : 65535 ≤ h.k0.pendingBeats) : h.beatArrives d = h := by
  simp only [Hw.beatArrives, first, (isStarter_and_beatDie_iff ..).mpr starter, if_true, if_pos full]

theorem Hw.beatArrives_of_other (first : (h.die d).beatReqs = u :: rest)
    (other : ¬BeatSrc.startsAt (h.pg 39 cadBlk 0x040) d u) :
    h.beatArrives d = (h.requestTaken d u rest).cadRefuse d 0x111 0x040 := by
  simp only [Hw.beatArrives, first, if_neg (mt (isStarter_and_beatDie_iff ..).mp other)]
  rfl

end Arrival

theorem Hw.fwBeat_of_room {h : Hw} (src : fld (h.pg 39 cadBlk 0x040) 31 30 = 0) (room : h.k0.pendingBeats < 65535) :
    h.fwBeat = h.cadAccept := by
  rw [Hw.fwBeat, if_pos src, if_neg (Nat.not_le.mpr room)]

theorem Hw.fwBeat_of_full {h : Hw} (src : fld (h.pg 39 cadBlk 0x040) 31 30 = 0) (full : 65535 ≤ h.k0.pendingBeats) :
    h.fwBeat = h.updK fun k => { k with fwWaits := k.fwWaits + 1 } := by
  rw [Hw.fwBeat, if_pos src, if_pos full]

theorem Hw.fwBeat_of_other {h : Hw} (src : fld (h.pg 39 cadBlk 0x040) 31 30 ≠ 0) : h.fwBeat = h.cadRefuse 39 0x111 0x05C := by
  rw [Hw.fwBeat, if_neg src]

/-! ### The beat that the root issues (R301, R302) -/

/-- A leaf in step has beat `n` to apply. -/
def Die.sent (n : BitVec 48) (x : Die) : Die := if x.sync then { x with due := x.due ++ [n] } else x

/-- The root sends beat `n` to die `d`. -/
def Hw.sendBeat (n : BitVec 48) (h : Hw) (d : Nat) : Hw :=
  if (h.die d).sync then h.updDie d fun x => { x with due := x.due ++ [n] } else h

theorem Hw.die_sendBeat (n : BitVec 48) (h : Hw) (d e : Nat) :
    (h.sendBeat n d).die e = if e = d then (h.die d).sent n else h.die e := by
  by_cases same : e = d
  · subst same
    cases inStep : (h.die e).sync <;> simp [Hw.sendBeat, Die.sent, inStep]
  · cases inStep : (h.die d).sync <;> simp [Hw.sendBeat, inStep, same]

theorem Hw.die_foldl_sendBeat (n : BitVec 48) (h : Hw) (m e : Nat) :
    ((List.range m).foldl (Hw.sendBeat n) h).die e = if e < m then (h.die e).sent n else h.die e := by
  induction m with
  | zero => rfl
  | succ m ih =>
    rw [List.range_succ, List.foldl_append, List.foldl_cons, List.foldl_nil, Hw.die_sendBeat, ih]
    rcases Nat.lt_trichotomy e m with below | rfl | beyond
    · rw [if_neg (Nat.ne_of_lt below), if_pos below, if_pos (Nat.lt_succ_of_lt below)]
    · rw [if_pos rfl, ih, if_neg (Nat.lt_irrefl e), if_pos (Nat.lt_succ_self e)]
    · rw [if_neg (Nat.ne_of_gt beyond), if_neg (Nat.lt_asymm beyond), if_neg (Nat.not_lt.mpr beyond)]

/-- Sending a beat changes nothing but dies. -/
theorem Hw.foldl_sendBeat_keeps (n : BitVec 48) (h : Hw) (ds : List Nat) :
    ∃ dies, ds.foldl (Hw.sendBeat n) h = { h with dies := dies } := by
  refine List.foldlRecOn (motive := fun g : Hw => ∃ dies, g = { h with dies := dies }) ds _ ⟨_, rfl⟩ fun g kept d _ => ?_
  obtain ⟨_, rfl⟩ := kept
  unfold Hw.sendBeat
  split
  · exact ⟨_, rfl⟩
  · exact ⟨_, rfl⟩

/-- The root at the issue of a beat at time `now`: the room that the beat leaves in pending goes to a firmware request that
waits for it (R301). -/
def K0.issued (now : Nat) (k : K0) : K0 :=
  { k with rootCount := k.rootCount + 1, lastIssue := some now, fwWaits := k.fwWaits - 1
           pendingBeats := k.pendingBeats - 1 + (if k.fwWaits = 0 then 0 else 1)
           accepted := k.accepted + (if k.fwWaits = 0 then 0 else 1) }

/-- The gap since the last beat is no condition (log 102). -/
theorem Hw.beatIssue_of_pending {h : Hw} (pending : h.k0.pendingBeats ≠ 0) (noHold : h.k0.hold = []) (noStandby : h.seqSt ≠ 4) :
    h.beatIssue = (List.range 40).foldl (Hw.sendBeat (h.k0.rootCount + 1)) (h.updK (K0.issued h.now)) := by
  have goes : ¬(h.k0.pendingBeats = 0 ∨ h.k0.hold ≠ [] ∨ h.seqSt = 4) := by simp [pending, noHold, noStandby]
  unfold Hw.beatIssue
  rw [if_neg goes]
  by_cases noWait : h.k0.fwWaits = 0
  · simp only [noWait, if_true, Hw.updK, K0.issued, Nat.add_zero, Nat.zero_sub]
    rfl
  · simp only [noWait, if_false, Hw.cadAccept, Hw.updK, K0.issued]
    rfl

/-! ### Beats at the leaves (R303, R305) -/

/-- With nothing staged, and every launch at the last beat begun (log 102), a beat sets the count and strikes the beat events. -/
theorem Hw.beat_of_unstaged {h : Hw} {d : Nat} {n : BitVec 48} {rest : List (BitVec 48)} (first : (h.die d).due = n :: rest)
    (apart : h.lagging n = false) (launched : h.launchDue = false) (cores : ∀ p ∈ h.cores, p.2.frStaged = [])
    (engines : ∀ p ∈ h.engines, p.2.frStaged = []) (blocks : h.svcStaged d = []) :
    h.beat d = if d < 20 then (h.updDie d fun x => { x with due := rest, count := n }).beatEvents d n
      else h.updDie d fun x => { x with due := rest, count := n } := by
  have noBlock : (h.updDie d fun x => { x with due := rest, count := n }).svcStaged d = [] := blocks
  have noCore := List.foldlRecOn (motive := fun g : Hw => g = h.updDie d fun x => { x with due := rest, count := n }) h.cores
    (fun g p => if p.2.frStaged != [] && dieOf p.1 == d then g.routesAt p.1 n else g) rfl
    fun _ same p mem => by simp [same, cores p mem]
  have noEngine := List.foldlRecOn (motive := fun g : Hw => g = h.updDie d fun x => { x with due := rest, count := n }) h.engines
    (fun g p => if p.2.frStaged != [] && engDie (engOf p.1) == d then g.engRoutesAt p.1 else g) rfl
    fun _ same p mem => by simp [same, engines p mem]
  simp only [Hw.beat, first, apart, launched, Bool.or_self, Bool.false_eq_true, if_false, Hw.updDie_cores, Hw.updDie_engines,
    noCore, noEngine, ite_self, noBlock, List.foldl_nil]

/-! ### Beat-event writes (R310) -/

/-- CAD_EVT enables a beat event on a bit that none may use. -/
def badCadEvt (v : W32) : Prop := v.getLsbD 31 = true ∧ ¬(16 ≤ fld v 4 0 ∧ fld v 4 0 ≤ 30)

theorem badCadEvt_iff (v : W32) :
    (v.getLsbD 31 && !(decide (16 ≤ fld v 4 0) && decide (fld v 4 0 ≤ 30))) = true ↔ badCadEvt v := by
  simp only [badCadEvt, ← Bool.decide_and, Bool.and_eq_true, Bool.not_eq_true', decide_eq_false_iff_not]

theorem Hw.cadEvt_of_bad (h : Hw) (c : Nat) {v : W32} (bad : badCadEvt v) :
    h.cadEvt c v = h.accErr (dieOf c) (siteIx c) 0x190 3 :=
  if_pos ((badCadEvt_iff v).mpr bad)

theorem Hw.cadEvt_of_good (h : Hw) (c : Nat) {v : W32} (good : ¬badCadEvt v) :
    h.cadEvt c v = h.setCpg c 0x190 (v &&& 0x8000F19F) :=
  if_neg (mt (badCadEvt_iff v).mp good)

/-! ### Rejoining (R308) -/

/-- Whether the count at which a leaf rejoins may come from `nb`: a neighbour in step, or the root when no leaf is. -/
def Hw.rejoinsFrom (h : Hw) : Option DieId → Prop
  | some n => (h.die n.val).sync = true
  | none => ∀ e : DieId, (h.die e.val).sync = false

/-- The count that a leaf takes from `nb`. -/
def Hw.rejoinCount (h : Hw) : Option DieId → BitVec 48
  | some n => (h.die n.val).count
  | none => h.k0.rootCount

/-- Die `d` in step at count `n`, its delay set again, its rejoin counted and the hold for it released. -/
def Hw.rejoined (h : Hw) (d : DieId) (n : BitVec 48) : Hw :=
  let h := h.updDie d.val fun x => { x with count := n, sync := true, sleep := if x.sleep = .waking then .run else x.sleep }
  let h := (h.setPg d.val 0x111 0x050 (lookD h.k0.delays d.val 0)).bumpSat d.val 0x111 0x054
  let h := h.updPg d.val 0x112 0x044 fun v => setFld v 1 0 0
  h.updK fun k => { k with hold := k.hold.filter fun x => x != d }

theorem Hw.leafRejoin_of_applied {h : Hw} {d : DieId} {nb : Option DieId} (held : h.k0.hold.contains d = true)
    (applied : ∀ p ∈ h.dies, p.2.due = []) (source : h.rejoinsFrom nb) : h.leafRejoin d nb = h.rejoined d (h.rejoinCount nb) := by
  have allApplied : (h.dies.all fun p => p.2.due.isEmpty) = true := List.all_eq_true.mpr fun p mem => by simp [applied p mem]
  cases nb with
  | some n =>
    have inStep : (h.die n.val).sync = true := source
    simp only [Hw.leafRejoin, inStep, held, allApplied, Bool.and_self, if_true]
    rfl
  | none =>
    have noLeaf : ((List.range 40).any fun x => (h.die x).sync) = false :=
      List.any_eq_false.mpr fun e mem => by simp [source ⟨e, List.mem_range.mp mem⟩]
    simp only [Hw.leafRejoin, noLeaf, held, allApplied, Bool.and_self, Bool.false_eq_true, if_false, if_true]
    rfl

theorem Hw.die_rejoined (h : Hw) (d : DieId) (n : BitVec 48) (e : Nat) : (h.rejoined d n).die e =
    (h.updDie d.val fun x =>
      { x with count := n, sync := true, sleep := if x.sleep = .waking then .run else x.sleep }).die e := rfl

/-- Settles O47: each command by the lemma of its case, a beat's issue by what sending it makes of each die. -/
theorem cadenceBeats : Obligations.CadenceBeats := by
  unfold Obligations.CadenceBeats
  refine fun s => ⟨fun u => rfl, fun src room => ?fwRoom, fun src full => ?fwFull, fun src => ?fwRefused,
    fun d u rest first => ⟨fun starter room => ?accepted, fun starter full => ?waits, fun other => ?refused⟩,
    fun pending noHold noStandby => ?issued,
    fun d n rest first apart launched cores engines blocks => ?beat,
    fun c v isOpen kept => ⟨fun bad => ?evtRefused, fun good => ?evtTaken⟩,
    fun d nb held applied source => ?rejoins⟩
  case fwRoom => exact congrArg s.leaves (Hw.fwBeat_of_room src room)
  case fwFull => exact congrArg s.leaves (Hw.fwBeat_of_full src full)
  case fwRefused => exact congrArg s.leaves (Hw.fwBeat_of_other src)
  case accepted => exact congrArg s.leaves (Hw.beatArrives_of_starter first starter room)
  case waits => exact congrArg s.leaves (Hw.beatArrives_of_full first starter full)
  case refused => exact congrArg s.leaves (Hw.beatArrives_of_other first other)
  case issued =>
    obtain ⟨dies, keeps⟩ := Hw.foldl_sendBeat_keeps (s.hw.k0.rootCount + 1) (s.hw.updK (K0.issued s.hw.now)) (List.range 40)
    refine ⟨_, congrArg s.leaves (Hw.beatIssue_of_pending pending noHold noStandby), ?_, ?_, ?_, fun d => ?_⟩
    · rw [keeps]
      rfl
    · rw [keeps]
      rfl
    · rw [keeps]
      rfl
    · rw [Hw.die_foldl_sendBeat, if_pos d.isLt]
      rfl
  case beat => exact congrArg s.leaves (Hw.beat_of_unstaged first apart launched cores engines blocks)
  case evtRefused => exact congrArg s.leaves ((Hw.onCore_open isOpen kept _).trans (s.hw.cadEvt_of_bad c.val bad))
  case evtTaken => exact congrArg s.leaves ((Hw.onCore_open isOpen kept _).trans (s.hw.cadEvt_of_good c.val good))
  case rejoins =>
    have leaf : s.hw.rejoinsFrom nb := by cases nb <;> exact source
    refine ⟨_, congrArg s.leaves (Hw.leafRejoin_of_applied held applied leaf), ?_, ?_, rfl, rfl, fun e other => ?_⟩
    · simp [Hw.die_rejoined]
    · rw [Hw.die_rejoined, Hw.die_updDie_self]
      cases nb <;> rfl
    · rw [Hw.die_rejoined, Hw.die_updDie_of_ne _ _ _ _ (Fin.val_ne_of_ne other)]

end Sys2Proof.Machine
end
